-- ==== Sys2Proof/Word.lean ====
section
/-!
DEFINITION. The words of the machine: scalar registers of 64 bits, vector registers of 128 bits (256 as a ganged
thread sees them, R94), instruction words of 32 bits and bundles of 64 (R78).
-/

namespace Sys2Proof

/-- A scalar register, an address, a state register. -/
abbrev W64 := BitVec 64

/-- One word of a bundle (R78). -/
abbrev W32 := BitVec 32

/-- A vector register of one thread (R90), and a queue entry of 16 bytes (R261). -/
abbrev W128 := BitVec 128

/-- A vector operand: 128 bits, or the 256 bits of a ganged thread (R94). -/
abbrev W256 := BitVec 256

/-- A register field of an instruction (R90). -/
abbrev Reg := BitVec 5

/-- The number of a mask m0 to m3 (R93). -/
abbrev MaskNo := BitVec 2

/-- The number of an accumulator pa0 to pa7 (R52). -/
abbrev PaNo := BitVec 3

/-- The 32-bit extension of a long form, when the bundle has one (R80). -/
abbrev Ext := Option (BitVec 32)

end Sys2Proof
end

