-- ==== Sys2Proof/Config.lean ====
section
/-!
DEFINITION. What the spec fixes for no particular part, and the free values: opaque constants with no body, so that
nothing can be proved of what they give. The assumption log names each of them.
-/

namespace Sys2Proof.Config

/-- The choices the spec leaves to the part each time anew: which of the two FP32 values that bracket an exact result a
special function delivers (R45). Applied to a counter of State (log 12, DESIGN CHOICE). -/
opaque freeValue : Nat → Bool

/-- Bytes of code fetched from a peer device through a level-4 viewpoint (R74): the peer's memory is outside (log 14, DESIGN CHOICE). -/
opaque peerBundle : Nat → BitVec 64 → BitVec 64

/-- The value that a peer device answers to a request carried to it, by the request's number and the byte offset of the piece
(R74): the peer's memory is outside (log 14, DESIGN CHOICE). -/
opaque peerData : Nat → Nat → Nat

/-- The fault that a peer device finds in a request carried to it, by the request's number: a trap cause of R70, any other
number for none (R74; log 14, DESIGN CHOICE). -/
opaque peerFault : Nat → Nat

/-- Which of the ports that reach a peer a packet leaves on, by a counter of State (R374; log 26, DESIGN CHOICE). -/
opaque sprayPort : Nat → Nat

/-- The stamp with which a peer device's answer to a request comes, by the request's number (R29, R32; log 14, DESIGN CHOICE). -/
opaque peerStamp : Nat → BitVec 64

/-- The 32-bit check over header and payload of a packet sent, by whether it is of a ROD session and its number there: the spec gives no
code for it (R379; log 26, DESIGN CHOICE). -/
opaque packetCheck : Bool → Nat → BitVec 32

/-- The SHA3-512 digest of a sequence of bytes, as a number of 512 bits (R422; log 15, DESIGN CHOICE). -/
opaque sha3 : List Nat → Nat

/-- The fused device secret, a sequence of bytes (R423; log 15, DESIGN CHOICE). -/
opaque deviceSecret : List Nat

/-- A byte of the ML-DSA-87 public key that a seed gives: the seed, the byte's number (R423; log 15, DESIGN CHOICE). -/
opaque publicKey : Nat → Nat → Nat

/-- A byte of the ML-DSA-87 signature by the key of a seed over a digest: the seed, the count of requests, the digest, the byte's number
(R424; log 15, DESIGN CHOICE). -/
opaque sign : Nat → Nat → Nat → Nat → Nat

/-- A byte of the public key that IDENTITY answers with once the identity key is destroyed, which the spec does not give (R417, R426;
log 15, DESIGN CHOICE). -/
opaque lostKey : Nat → Nat

/-- The firmware public key of the fuses, as bytes (R422; log 15, DESIGN CHOICE). -/
opaque vendorKey : List Nat

/-- Whether a signature over a digest verifies under a public key: key, digest, signature (R422; log 15, DESIGN CHOICE). -/
opaque verify : List Nat → Nat → Nat → Bool

/-- Whether the kernel of a descriptor is a test kernel, by its firmware-signed loader flag, a flag whose place the spec does not
give: the descriptor's address and its 128 bytes (R426; log 15, DESIGN CHOICE). -/
opaque testKernel : Nat → Nat → Bool

/-- The word in which YCP IDENTITY gives the part number, whose coding the spec does not give (R424; log 15, DESIGN CHOICE). -/
opaque partNumber : BitVec 64

/-- The bytes of a save image whose place or layout the spec does not give (R254): context, offset, byte (log 16, DESIGN CHOICE). -/
opaque imageByte : Nat → Nat → BitVec 8

end Sys2Proof.Config
end

