-- ==== Sys2Proof/Machine/Geometry.lean ====
section
/-!
DEFINITION. How the parts of the device are numbered: cores, clusters and dies (R13, R60), the fields of a seat (R61), the
channels and home clusters of memory (R343, R427), the clusters of the ports (R373), the tiers of physical memory (R323).
-/

namespace Sys2Proof.Machine

/-- The cluster of a device core (R60). -/
def clusterOf (core : Nat) : Nat := core / 32

/-- The die of a cluster (R13, R60). -/
def dieOf (cluster : Nat) : Nat := cluster / 16 / 5 * 2 + cluster % 16 / 8

/-- The die of a device core. -/
def dieOfCore (core : Nat) : Nat := dieOf (clusterOf core)

/-- The level-L group that contains group n of level v, for v at most L and L at most 3 (R60). -/
def up (v n l : Nat) : Nat :=
  if v = l then n
  else if v = 1 then (if l = 2 then clusterOf n else dieOfCore n)
  else dieOf n

/-- The clusters of a die, ascending. -/
def clustersOfDie (d : Nat) : List Nat := (List.range 160).filter (fun k => dieOf k == d)

/-- The cores of a cluster, ascending. -/
def coresOfCluster (k : Nat) : List Nat := (List.range 32).map (fun i => k * 32 + i)

/-- The k-th cluster of a die, row by row (R343). -/
def clusterOnDie (d k : Nat) : Nat := (5 * (d / 2) + k / 8) * 16 + 8 * (d % 2) + k % 8

/-- Fields of a word: n bits from bit lo upward. -/
def bits (w : W64) (lo n : Nat) : Nat := w.toNat / 2 ^ lo % 2 ^ n

/-- The seat of a thread on a core of a device (R61). -/
def mkSeat (device core : Nat) : W64 :=
  BitVec.ofNat 64 (device * 2 ^ 48 + dieOfCore core * 2 ^ 32 + clusterOf core * 2 ^ 24 + core)

/-- DEVICE, DIE, CLUSTER and CORE of a seat (R61). -/
def seatDevice (s : W64) : Nat := bits s 48 9
def seatDie (s : W64) : Nat := bits s 32 2
def seatCluster (s : W64) : Nat := bits s 24 8
def seatCore (s : W64) : Nat := bits s 0 13

/-- The group of a seat at level 1 to 4 (R70, R77). -/
def seatGroup (s : W64) (l : Nat) : Nat :=
  if l = 1 then seatCore s else if l = 2 then seatCluster s else if l = 3 then seatDie s else seatDevice s

/-- Bytes of HBM of one die: 144 GiB (R323). -/
def dieBytes : Nat := 144 * 2 ^ 30

/-- The end of HBM (R323). -/
def hbmEnd : Nat := 4 * dieBytes

/-- The first physical address of CXL (R323). -/
def cxlBase : Nat := 0x10000000000

/-- Frames in the window of one CXL port (R427). -/
def cxlWindow : Nat := 16515072

/-- The end of the CXL range (R323). -/
def cxlEnd : Nat := cxlBase + 4 * cxlWindow * 65536

/-- Locations of scratchpads follow the 43-bit physical space: offset o of core C (R217). -/
def scratchLoc (core o : Nat) : Nat := 2 ^ 43 + core * 2 ^ 20 + o

/-- Whether a location lies in a scratchpad. -/
def isScratch (loc : Nat) : Bool := decide (2 ^ 43 ≤ loc)

/-- The core and offset of a scratchpad location. -/
def scratchCore (loc : Nat) : Nat := (loc - 2 ^ 43) / 2 ^ 20
def scratchOff (loc : Nat) : Nat := (loc - 2 ^ 43) % 2 ^ 20

/-- The logical channel of a byte offset in a die's HBM storage (R343). -/
def channelOf (o : Nat) : Nat :=
  let i := o / 512
  let q := i / 96
  (i + ((q % 256) ^^^ (q / 2 ^ 8 % 256) ^^^ (q / 2 ^ 16 % 256))) % 96

/-- The logical pseudo-channel of a byte offset in a die's HBM storage (R343). -/
def pseudoOf (o : Nat) : Nat := 2 * channelOf o + o / 512 / 96 % 2

/-- The line within its pseudo-channel of a byte offset in a die's HBM storage: 8 lines to each 512-byte unit (R341, R343). -/
def lineOf (o : Nat) : Nat := o / 512 / 96 / 2 * 8 + o % 512 / 64

/-- The cluster that holds a UE port's link agent (R373). -/
def uePortCluster (p : Nat) : Nat :=
  if p < 4 then p * 16
  else if p < 8 then (p - 4) * 16 + 15
  else if p < 12 then (p - 8 + 6) * 16
  else (p - 12 + 6) * 16 + 15

/-- The cluster that holds a CXL port's link agent (R373). -/
def cxlPortCluster (p : Nat) : Nat :=
  if p = 0 then 64 else if p = 1 then 79 else if p = 2 then 80 else 95

/-- The die of a UE port: its cluster's (R373, R74). -/
def uePortDie (p : Nat) : Nat := dieOf (uePortCluster p)

/-- The congruence group of a physical name and its number in the group, 0 for HBM (R334). -/
def congruence (pa : Nat) : Nat × Nat :=
  if pa < hbmEnd then (pa / 65536, 0)
  else
    let c := (pa - cxlBase) / 65536
    (c / 7, c % 7 + 1)

/-- The physical address of name i of a congruence group (R334). -/
def nameAddr (g i : Nat) : Nat := if i = 0 then g * 65536 else cxlBase + (7 * g + i - 1) * 65536

/-- The die of a congruence group (R334). -/
def groupDie (g : Nat) : Nat := g / 2359296

/-- The remap entry of cold reset, the identity (R335). -/
def remapIdentity : BitVec 32 := 0x00FAC688

/-- The slot that stores name i (R335). -/
def slotOfName (r : BitVec 32) (i : Nat) : Nat := r.toNat / 2 ^ (3 * i) % 8

/-- The remap entry with the slots of names m and n exchanged (R336). -/
def swapSlots (r : BitVec 32) (m n : Nat) : BitVec 32 :=
  let sm := slotOfName r m
  let sn := slotOfName r n
  BitVec.ofNat 32 ((List.range 8).foldl (fun acc i =>
    acc + (if i = m then sn else if i = n then sm else slotOfName r i) * 2 ^ (3 * i)) 0)

/-- The mesh neighbour of a cluster in a direction (1 +X, 2 -X, 3 +Y, 4 -Y), none over the edge (R361). -/
def neighbour (k dir : Nat) : Option Nat :=
  let x := k % 16
  let y := k / 16
  if dir = 1 then (if x < 15 then some (k + 1) else none)
  else if dir = 2 then (if 0 < x then some (k - 1) else none)
  else if dir = 3 then (if y < 9 then some (k + 16) else none)
  else if dir = 4 then (if 0 < y then some (k - 16) else none)
  else none

/-- The direction back from a neighbour reached by a direction. -/
def backDir (dir : Nat) : Nat := if dir = 1 then 2 else if dir = 2 then 1 else if dir = 3 then 4 else 3

end Sys2Proof.Machine
end

