-- ==== Sys2Proof/Machine/Tbl.lean ====
section
/-!
DEFINITION. Finite tables as plain data: a list of key and value pairs, keys rising, read with a default. Registers, threads,
cores, pages of memory are kept in such tables, so that equal contents are equal lists.
-/

namespace Sys2Proof.Machine

/-- A table from numbers to values. -/
abbrev Tbl (α : Type) := List (Nat × α)

/-- The value at a key, d where the table lists none. -/
def tget {α : Type} (d : α) : Tbl α → Nat → α
  | [], _ => d
  | (k', v) :: r, k => if k' = k then v else tget d r k

/-- The table with a value at a key. -/
def tput {α : Type} : Tbl α → Nat → α → Tbl α
  | [], k, v => [(k, v)]
  | (k', v') :: r, k, v =>
    if k < k' then (k, v) :: (k', v') :: r
    else if k' = k then (k, v) :: r
    else (k', v') :: tput r k v

/-- The table without a key. -/
def tdel {α : Type} (t : Tbl α) (k : Nat) : Tbl α := t.filter (fun p => p.1 != k)

/-- The table with a value at a key, the default not listed: the canonical form. -/
def tset {α : Type} [DecidableEq α] (d : α) (t : Tbl α) (k : Nat) (v : α) : Tbl α :=
  if v = d then tdel t k else tput t k v

/-- Keys strictly rise from a lower bound. -/
def tsorted {α : Type} : Nat → Tbl α → Bool
  | _, [] => true
  | lo, (k, _) :: r => decide (lo ≤ k) && tsorted (k + 1) r

/-- The canonical form of a table read with a default: keys rise and no entry equals the default. -/
def twf {α : Type} [DecidableEq α] (d : α) (t : Tbl α) : Bool := tsorted 0 t && t.all (fun p => p.2 != d)

/-- The numbers below n with a property, in rising order. -/
def upto (n : Nat) : List Nat := List.range n

/-- The first number below n with a property. -/
def firstBelow (n : Nat) (p : Nat → Bool) : Option Nat := (List.range n).find? p

end Sys2Proof.Machine
end

