-- ==== Sys2Proof/Word/Operand.lean ====
section
/-!
DEFINITION. The operand forms of the instruction words: scopes and order codes (R96, R157), offsets of the CM format
(R95, R96), element formats (R98), the state registers that GETS and SETS name (R130), and the data an event carries.
-/

namespace Sys2Proof

/-- The scope of an ordered access or a fence (R96). -/
inductive Scope where
  | core | cluster | die | device | system
  deriving DecidableEq, Repr

/-- The order code of a memory access (R157). -/
inductive Order where
  | plain
  | loose
  | acq (s : Scope)
  | rel (s : Scope)
  | pacq (s : Scope)
  deriving DecidableEq, Repr

/-- The offset of a CM access: the scaled 8-bit field, or the extension word of the long form (R95, R96). -/
inductive Off where
  | short (o : BitVec 8)
  | long (o : BitVec 32)
  deriving DecidableEq, Repr

/-- The field F of the scalar floating-point words (R113). -/
inductive FForm where
  | fp32 | fp16 | bf16
  deriving DecidableEq, Repr

/-- An element format of R98; uint64 is the code 7 that FCVT alone reads (R115). -/
inductive Fmt where
  | b8 (sgn inf : Bool) (p : BitVec 3)
  | int8 | int16 | int32 | int64
  | uint8 | uint16 | uint32 | uint64
  | fp16 | bf16 | fp32
  | bs64
  deriving DecidableEq, Repr

/-- A state register of R130. -/
inductive SReg where
  | seat | ctx | tid | time | mode
  | tags | tagerr | events | fewait | qwatch | lease
  | fflags | fenab | pdeg
  | tl | epc1 | epc2 | ecause1 | ecause2 | eaddr1 | eaddr2 | estat1 | estat2 | hbase
  | part | cappool | capslice | caphbm
  deriving DecidableEq, Repr

/-- A YCP request as it reaches the device (R385): the session it comes by (host role or not, and its UE port),
the sender's stamp, the request number, the context of the header and the body words. -/
structure Ycp where
  host  : Bool
  port  : Nat
  stamp : W64
  reqid : BitVec 32
  ctx   : Nat
  body  : List W64
  deriving DecidableEq, Repr

/-- A firmware component as Odcor finds it (R422): its bytes and its signature. -/
structure Firmware where
  image     : List Nat
  signature : Nat
  deriving DecidableEq, Repr

/-- A life-cycle command (R425, R426): the UE port it comes on, the state it asks for, the owner's key that its body carries. -/
structure LifeCommand where
  port : Nat
  next : Nat
  key  : Nat
  deriving DecidableEq, Repr

/-- What a start finds at a CXL port (R416): an expander whose wipe has ended, or none. -/
structure CxlEnd where
  port   : Nat
  absent : Bool
  deriving DecidableEq, Repr

/-- A memory access that a peer device asks for (R74): kind 0 load, 1 store, 2 AMO; with the identity it carries, its core,
thread and stamp there (R171). -/
structure RemoteOp where
  kind  : Nat
  amo   : Nat
  order : Order
  size  : Nat
  addr  : W64
  data  : Nat
  cmp   : Nat
  core  : Nat
  slot  : Nat
  stamp : W64
  deriving DecidableEq, Repr

end Sys2Proof
end

