-- ==== Sys2Proof/Syntax.lean ====
section
/-!
DEFINITION. The instruction set of the N8: one constructor for each row of the opcode table.
The rows with an encoding are the instructions that a bundle holds; the rows without one are the events of the device
(results that arrive, engines that finish, messages that come in, resets), whose operands name the object they act on.
-/

namespace Sys2Proof

/-- One step the device can take. Rows that share an encoding (PORT_*, KILL_*, RESUME_*, MAPINV_*, PGHOT_*, TLBFL_*,
BANKRET, LKCTL_*, LKQ_*, NAMEROUTE_*) differ by a register value that the step reads. -/
inductive Instr where
  | nop  -- NOP, R79
  | trap (code : BitVec 15)  -- TRAP, R122
  | rett  -- RETT, R123
  | gets (rd : Reg) (name : SReg)  -- GETS, R124
  | sets (name : SReg) (rs : Reg)  -- SETS, R124
  | tstamp (rd : Reg)  -- TSTAMP, R125
  | waitev (rd ra : Reg)  -- WAITEV, R126
  | yield  -- YIELD, R127
  | beq (ra rb : Reg) (off : BitVec 14)  -- BEQ, R117
  | bne (ra rb : Reg) (off : BitVec 14)  -- BNE, R117
  | blt (ra rb : Reg) (off : BitVec 14)  -- BLT, R117
  | bge (ra rb : Reg) (off : BitVec 14)  -- BGE, R117
  | bltu (ra rb : Reg) (off : BitVec 14)  -- BLTU, R117
  | bgeu (ra rb : Reg) (off : BitVec 14)  -- BGEU, R117
  | br (off : BitVec 23) (ext : Ext)  -- BR, R118
  | call (off : BitVec 23) (ext : Ext)  -- CALL, R118
  | jr (ra : Reg)  -- JR, R119
  | callr (ra : Reg)  -- CALLR, R119
  | ldb (rd base : Reg) (off : Off) (ord : Order)  -- LDB, R160
  | ldbu (rd base : Reg) (off : Off) (ord : Order)  -- LDBU, R160
  | ldh (rd base : Reg) (off : Off) (ord : Order)  -- LDH, R160
  | ldhu (rd base : Reg) (off : Off) (ord : Order)  -- LDHU, R160
  | ldw (rd base : Reg) (off : Off) (ord : Order)  -- LDW, R160
  | ldwu (rd base : Reg) (off : Off) (ord : Order)  -- LDWU, R160
  | ldd (rd base : Reg) (off : Off) (ord : Order)  -- LDD, R160
  | ldv (rd base : Reg) (off : Off) (ord : Order)  -- LDV, R160
  | stb (rd base : Reg) (off : Off) (ord : Order)  -- STB, R160
  | sth (rd base : Reg) (off : Off) (ord : Order)  -- STH, R160
  | stw (rd base : Reg) (off : Off) (ord : Order)  -- STW, R160
  | std (rd base : Reg) (off : Off) (ord : Order)  -- STD, R160
  | stv (rd base : Reg) (off : Off) (ord : Order)  -- STV, R160
  | ldwF (rd ra : Reg) (ord : Order) (ext : Ext)  -- LDW_F, R165
  | lddF (rd ra : Reg) (ord : Order) (ext : Ext)  -- LDD_F, R165
  | ldwT (rd ra : Reg) (ord : Order) (ext : Ext)  -- LDW_T, R165
  | lddT (rd ra : Reg) (ord : Order) (ext : Ext)  -- LDD_T, R165
  | stwE (rd ra : Reg) (ord : Order) (ext : Ext)  -- STW_E, R165
  | stdE (rd ra : Reg) (ord : Order) (ext : Ext)  -- STD_E, R165
  | stwX (rd ra : Reg) (ord : Order) (ext : Ext)  -- STW_X, R165
  | stdX (rd ra : Reg) (ord : Order) (ext : Ext)  -- STD_X, R165
  | fempty (ra : Reg) (ord : Order) (ext : Ext)  -- FEMPTY, R165
  | fstat (rd ra : Reg) (ord : Order) (ext : Ext)  -- FSTAT, R165
  | amoadd (rd ra rb : Reg) (ord : Order) (w4 : Bool) (ext : Ext)  -- AMOADD, R170
  | amoand (rd ra rb : Reg) (ord : Order) (w4 : Bool) (ext : Ext)  -- AMOAND, R170
  | amoor (rd ra rb : Reg) (ord : Order) (w4 : Bool) (ext : Ext)  -- AMOOR, R170
  | amoxor (rd ra rb : Reg) (ord : Order) (w4 : Bool) (ext : Ext)  -- AMOXOR, R170
  | amomin (rd ra rb : Reg) (ord : Order) (w4 : Bool) (ext : Ext)  -- AMOMIN, R170
  | amomax (rd ra rb : Reg) (ord : Order) (w4 : Bool) (ext : Ext)  -- AMOMAX, R170
  | amominu (rd ra rb : Reg) (ord : Order) (w4 : Bool) (ext : Ext)  -- AMOMINU, R170
  | amomaxu (rd ra rb : Reg) (ord : Order) (w4 : Bool) (ext : Ext)  -- AMOMAXU, R170
  | amoswap (rd ra rb : Reg) (ord : Order) (w4 : Bool) (ext : Ext)  -- AMOSWAP, R170
  | amocas (rd ra rb : Reg) (ord : Order) (w4 : Bool) (ext : Ext)  -- AMOCAS, R170
  | amoCombine (core slot core2 slot2 : Nat)  -- AMO_COMBINE, R18
  | fence (sc : Scope)  -- FENCE, R174
  | xfence (frm tgt : BitVec 5) (sc : Scope)  -- XFENCE, R175
  | vgath (vd ra vb : Reg) (ord : Order) (sz : BitVec 2) (m : MaskNo) (ext : Ext)  -- VGATH, R177
  | vscat (vd ra vb : Reg) (ord : Order) (sz : BitVec 2) (m : MaskNo) (ext : Ext)  -- VSCAT, R177
  | sptst (rd ra : Reg)  -- SPTST, R77
  | spcast (rd ra : Reg)  -- SPCAST, R77
  | vpin (rd ra : Reg) (lvl : BitVec 3)  -- VPIN, R77
  | cpy (rd ra rb : Reg) (dk : BitVec 2) (tag : BitVec 6)  -- CPY, R183
  | cpys (rd ra rb : Reg) (dk : BitVec 2) (tag : BitVec 6)  -- CPYS, R183
  | copyStart (cluster chan : Nat)  -- COPY_START, R182
  | copyComplete (cluster chan : Nat)  -- COPY_COMPLETE, R183
  | cpwaitany (rd ra : Reg)  -- CPWAITANY, R184
  | cpwaitall (ra : Reg)  -- CPWAITALL, R184
  | cpfirst (rd ra : Reg)  -- CPFIRST, R184
  | cpclr (ra : Reg)  -- CPCLR, R184
  | scanq (ra : Reg) (tag : BitVec 6)  -- SCANQ, R186
  | scanComplete (idx : Nat) (order : List Nat)  -- SCAN_COMPLETE, R186
  | annc (rd ra rb : Reg) (ext : BitVec 32)  -- ANNC, R368
  | want (ra rb : Reg) (tag : BitVec 6) (ext : BitVec 32)  -- WANT, R369
  | retrc (rd : Reg) (tag : BitVec 6)  -- RETRC, R370
  | portUnbind (rd : Reg) (q : BitVec 2) (ra rb : Reg)  -- PORT_UNBIND, R265
  | portNeighbour (rd : Reg) (q : BitVec 2) (ra rb : Reg)  -- PORT_NEIGHBOUR, R265
  | portMbrecv (rd : Reg) (q : BitVec 2) (ra rb : Reg)  -- PORT_MBRECV, R265
  | portMbsend (rd : Reg) (q : BitVec 2) (ra rb : Reg)  -- PORT_MBSEND, R265
  | portArraycmd (rd : Reg) (q : BitVec 2) (ra rb : Reg)  -- PORT_ARRAYCMD, R265
  | portArrayres (rd : Reg) (q : BitVec 2) (ra rb : Reg)  -- PORT_ARRAYRES, R265
  | portMbdef (rd : Reg) (q : BitVec 2) (ra rb : Reg)  -- PORT_MBDEF, R265
  | qstat (rd : Reg) (q : BitVec 2)  -- QSTAT, R272
  | neighbourArrival (core idx : Nat)  -- NEIGHBOUR_ARRIVAL, R267
  | mbReservation (core slot : Nat)  -- MB_RESERVATION, R268
  | mbReservationResend (core slot : Nat)  -- MB_RESERVATION_RESEND, R268
  | qwatchExpiry (core slot : Nat)  -- QWATCH_EXPIRY, R277
  | queueProbe (idx : Nat)  -- QUEUE_PROBE, R277
  | rinit (rd ra rb : Reg) (sc : Scope)  -- RINIT, R276
  | racq (rd ra : Reg) (sc : Scope)  -- RACQ, R276
  | rcommit (rd ra : Reg) (sc : Scope)  -- RCOMMIT, R276
  | rpeek (rd ra : Reg) (sc : Scope)  -- RPEEK, R276
  | rrel (ra : Reg) (sc : Scope)  -- RREL, R276
  | racqResend (core slot : Nat)  -- RACQ_RESEND, R276
  | lease  -- LEASE, R192
  | lrel  -- LREL, R192
  | mhset (ra rb : Reg)  -- MHSET, R202
  | rowdone (ra : Reg)  -- ROWDONE, R203
  | leaseExpiry (cluster : Nat)  -- LEASE_EXPIRY, R189
  | arrayCommandCheck (cluster : Nat)  -- ARRAY_COMMAND_CHECK, R195
  | arrayChunkComplete (cluster : Nat)  -- ARRAY_CHUNK_COMPLETE, R198
  | rowLanding (cluster : Nat)  -- ROW_LANDING, R201
  | arrayStatusPush (cluster : Nat)  -- ARRAY_STATUS_PUSH, R196
  | spawn (rd ra rb : Reg) (ext : Ext)  -- SPAWN, R285
  | quit  -- QUIT, R286
  | fork (ra rb : Reg) (sc : Scope) (ext : BitVec 32)  -- FORK, R288
  | join (ra : Reg)  -- JOIN, R290
  | migr (ra : Reg)  -- MIGR, R292
  | anchor (ra : Reg)  -- ANCHOR, R294
  | startMessage (idx : Nat)  -- START_MESSAGE, R282
  | startResend (core slot : Nat)  -- START_RESEND, R285
  | slotLoaded (core slot : Nat)  -- SLOT_LOADED, R241
  | migrArrival (idx : Nat)  -- MIGR_ARRIVAL, R292
  | amsend (ra rb : Reg) (tag : BitVec 6) (ext : Ext)  -- AMSEND, R296
  | amsendRetry (idx : Nat)  -- AMSEND_RETRY, R296
  | kernelRelaunch (ctx : Nat)  -- KERNEL_RELAUNCH, R297
  | kernelComplete (ctx : Nat)  -- KERNEL_COMPLETE, R280
  | barinit (rd ra rb : Reg)  -- BARINIT, R315
  | bararr (rd ra rb : Reg)  -- BARARR, R316
  | barwait (rd ra rb : Reg)  -- BARWAIT, R317
  | baraw (rd ra rb : Reg)  -- BARAW, R318
  | semp (rd ra : Reg)  -- SEMP, R319
  | semv (ra rb : Reg)  -- SEMV, R320
  | barrierWake (idx : Nat)  -- BARRIER_WAKE, R311
  | syncTimeout (core slot : Nat)  -- SYNC_TIMEOUT, R317
  | gang (rd : Reg)  -- GANG, R260
  | ungang  -- UNGANG, R260
  | twin (rd : Reg)  -- TWIN, R260
  | untwin  -- UNTWIN, R260
  | killThread (rd ra rb : Reg)  -- KILL_THREAD, R251
  | killContext (rd ra rb : Reg)  -- KILL_CONTEXT, R247
  | wake (rd ra : Reg)  -- WAKE, R251
  | resumeRetry (rd ra rb : Reg)  -- RESUME_RETRY, R251
  | resumeSkip (rd ra rb : Reg)  -- RESUME_SKIP, R251
  | resumeHandler (rd ra rb : Reg)  -- RESUME_HANDLER, R251
  | preempt (rd ra : Reg)  -- PREEMPT, R251
  | mapset (rd ra rb : Reg)  -- MAPSET, R340
  | mapinvUnmap (rd ra rb : Reg)  -- MAPINV_UNMAP, R340
  | mapinvRetire (rd ra rb : Reg)  -- MAPINV_RETIRE, R340
  | pghotRead (rd ra rb : Reg)  -- PGHOT_READ, R340
  | pghotHalve (rd ra rb : Reg)  -- PGHOT_HALVE, R340
  | pghotClear (rd ra rb : Reg)  -- PGHOT_CLEAR, R340
  | pghotPromote (rd ra rb : Reg)  -- PGHOT_PROMOTE, R340
  | tlbflPage (rd ra rb : Reg)  -- TLBFL_PAGE, R340
  | tlbflGlobal (rd ra rb : Reg)  -- TLBFL_GLOBAL, R340
  | tlbflPrivate (rd ra rb : Reg)  -- TLBFL_PRIVATE, R340
  | tlbflContext (rd ra rb : Reg)  -- TLBFL_CONTEXT, R340
  | tlbflDevice (rd ra rb : Reg)  -- TLBFL_DEVICE, R340
  | tlbEvict (core idx : Nat)  -- TLB_EVICT, R333
  | swapComplete (idx : Nat)  -- SWAP_COMPLETE, R336
  | bankret (rd ra : Reg)  -- BANKRET, R353
  | bankretDomain (rd ra : Reg)  -- BANKRET_DOMAIN, R353
  | bankq (rd ra : Reg)  -- BANKQ, R354
  | evacLineCopy (kind holder bank : Nat)  -- EVAC_LINE_COPY, R347
  | evacSwitchover (kind holder bank : Nat)  -- EVAC_SWITCHOVER, R349
  | drainHorizon (kind holder bank : Nat)  -- DRAIN_HORIZON, R349
  | vigilEntry (cluster : Nat)  -- VIGIL_ENTRY, R355
  | vigilExit (cluster : Nat)  -- VIGIL_EXIT, R355
  | lkctlEnable (rd ra rb : Reg)  -- LKCTL_ENABLE, R387
  | lkctlDisable (rd ra rb : Reg)  -- LKCTL_DISABLE, R387
  | lkctlRetrain (rd ra rb : Reg)  -- LKCTL_RETRAIN, R387
  | lkctlWriteRoute (rd ra rb : Reg)  -- LKCTL_WRITE_ROUTE, R387
  | lkctlClearLoss (rd ra rb : Reg)  -- LKCTL_CLEAR_LOSS, R387
  | lkctlRevive (rd ra rb : Reg)  -- LKCTL_REVIVE, R387
  | lkqStatus (rd ra : Reg)  -- LKQ_STATUS, R387
  | lkqCap (rd ra : Reg)  -- LKQ_CAP, R387
  | lkqLoss (rd ra : Reg)  -- LKQ_LOSS, R387
  | lkqRoute (rd ra : Reg)  -- LKQ_ROUTE, R387
  | lkqWindow (rd ra : Reg)  -- LKQ_WINDOW, R387
  | namerouteWriteRoute (rd ra rb : Reg)  -- NAMEROUTE_WRITE_ROUTE, R371
  | namerouteReadRoute (rd ra rb : Reg)  -- NAMEROUTE_READ_ROUTE, R371
  | namerouteSetTarn (rd ra rb : Reg)  -- NAMEROUTE_SET_TARN, R371
  | namerouteReadDrops (rd ra rb : Reg)  -- NAMEROUTE_READ_DROPS, R371
  | movl (rd : Reg) (imm : BitVec 32)  -- MOVL, R112
  | movlU (rd : Reg) (imm : BitVec 32)  -- MOVL_U, R112
  | movlH (rd : Reg) (imm : BitVec 32)  -- MOVL_H, R112
  | anop  -- ANOP, R79
  | add (rd ra rb : Reg)  -- ADD, R107
  | sub (rd ra rb : Reg)  -- SUB, R107
  | and (rd ra rb : Reg)  -- AND, R107
  | or (rd ra rb : Reg)  -- OR, R107
  | xor (rd ra rb : Reg)  -- XOR, R107
  | shl (rd ra rb : Reg)  -- SHL, R107
  | shr (rd ra rb : Reg)  -- SHR, R107
  | sar (rd ra rb : Reg)  -- SAR, R107
  | rol (rd ra rb : Reg)  -- ROL, R107
  | min (rd ra rb : Reg)  -- MIN, R107
  | max (rd ra rb : Reg)  -- MAX, R107
  | minu (rd ra rb : Reg)  -- MINU, R107
  | maxu (rd ra rb : Reg)  -- MAXU, R107
  | slt (rd ra rb : Reg)  -- SLT, R107
  | sltu (rd ra rb : Reg)  -- SLTU, R107
  | seq (rd ra rb : Reg)  -- SEQ, R107
  | csel (rd rc ra rb : Reg)  -- CSEL, R107
  | mul (rd ra rb : Reg)  -- MUL, R108
  | mulh (rd ra rb : Reg)  -- MULH, R108
  | mulhu (rd ra rb : Reg)  -- MULHU, R108
  | div (rd ra rb : Reg)  -- DIV, R109
  | divu (rd ra rb : Reg)  -- DIVU, R109
  | rem (rd ra rb : Reg)  -- REM, R109
  | remu (rd ra rb : Reg)  -- REMU, R109
  | dividerDone (core slot : Nat)  -- DIVIDER_DONE, R109
  | clz (rd ra : Reg)  -- CLZ, R110
  | ctz (rd ra : Reg)  -- CTZ, R110
  | popc (rd ra : Reg)  -- POPC, R110
  | ext (rd ra rb : Reg)  -- EXT, R110
  | ins (rd ra rb : Reg)  -- INS, R110
  | abs (rd ra : Reg)  -- ABS, R110
  | addi (rd ra : Reg) (imm : BitVec 16)  -- ADDI, R111
  | andi (rd ra : Reg) (imm : BitVec 16)  -- ANDI, R111
  | ori (rd ra : Reg) (imm : BitVec 16)  -- ORI, R111
  | xori (rd ra : Reg) (imm : BitVec 16)  -- XORI, R111
  | shli (rd ra : Reg) (n : BitVec 6)  -- SHLI, R111
  | shri (rd ra : Reg) (n : BitVec 6)  -- SHRI, R111
  | sari (rd ra : Reg) (n : BitVec 6)  -- SARI, R111
  | movi (rd : Reg) (imm : BitVec 16)  -- MOVI, R111
  | movhi (rd : Reg) (h : BitVec 2) (imm : BitVec 16)  -- MOVHI, R111
  | slti (rd ra : Reg) (imm : BitVec 16)  -- SLTI, R111
  | fadd (rd ra rb : Reg) (f : FForm)  -- FADD, R114
  | fsub (rd ra rb : Reg) (f : FForm)  -- FSUB, R114
  | fmul (rd ra rb : Reg) (f : FForm)  -- FMUL, R114
  | ffma (rd ra rb rc : Reg) (f : FForm)  -- FFMA, R114
  | fmin (rd ra rb : Reg) (f : FForm)  -- FMIN, R114
  | fmax (rd ra rb : Reg) (f : FForm)  -- FMAX, R114
  | fcmpeq (rd ra rb : Reg) (f : FForm)  -- FCMPEQ, R114
  | fcmplt (rd ra rb : Reg) (f : FForm)  -- FCMPLT, R114
  | fcmple (rd ra rb : Reg) (f : FForm)  -- FCMPLE, R114
  | fsgn (rd ra rb : Reg) (f : FForm) (kind : BitVec 2)  -- FSGN, R114
  | fcvt (rd ra : Reg) (dfmt sfmt : Fmt) (sat : Bool)  -- FCVT, R116
  | fexp2 (rd ra : Reg) (f : FForm)  -- FEXP2, R151
  | flog2 (rd ra : Reg) (f : FForm)  -- FLOG2, R151
  | frcp (rd ra : Reg) (f : FForm)  -- FRCP, R151
  | frsq (rd ra : Reg) (f : FForm)  -- FRSQ, R151
  | fsqrt (rd ra : Reg) (f : FForm)  -- FSQRT, R151
  | ftanh (rd ra : Reg) (f : FForm)  -- FTANH, R151
  | fsin (rd ra : Reg) (f : FForm)  -- FSIN, R151
  | fcos (rd ra : Reg) (f : FForm)  -- FCOS, R151
  | vfexp2 (vd va : Reg) (m : MaskNo) (fmt : Fmt)  -- VFEXP2, R151
  | vflog2 (vd va : Reg) (m : MaskNo) (fmt : Fmt)  -- VFLOG2, R151
  | vfrcp (vd va : Reg) (m : MaskNo) (fmt : Fmt)  -- VFRCP, R151
  | vfrsq (vd va : Reg) (m : MaskNo) (fmt : Fmt)  -- VFRSQ, R151
  | vfsqrt (vd va : Reg) (m : MaskNo) (fmt : Fmt)  -- VFSQRT, R151
  | vftanh (vd va : Reg) (m : MaskNo) (fmt : Fmt)  -- VFTANH, R151
  | vfsin (vd va : Reg) (m : MaskNo) (fmt : Fmt)  -- VFSIN, R151
  | vfcos (vd va : Reg) (m : MaskNo) (fmt : Fmt)  -- VFCOS, R151
  | sfuResult (core : Nat)  -- SFU_RESULT, R153
  | vadd (vd va vb : Reg) (m : MaskNo) (fmt : Fmt)  -- VADD, R137
  | vsub (vd va vb : Reg) (m : MaskNo) (fmt : Fmt)  -- VSUB, R137
  | vmul (vd va vb : Reg) (m : MaskNo) (fmt : Fmt)  -- VMUL, R137
  | vmulh (vd va vb : Reg) (m : MaskNo) (fmt : Fmt)  -- VMULH, R137
  | vmin (vd va vb : Reg) (m : MaskNo) (fmt : Fmt)  -- VMIN, R137
  | vmax (vd va vb : Reg) (m : MaskNo) (fmt : Fmt)  -- VMAX, R137
  | vabs (vd va : Reg) (m : MaskNo) (fmt : Fmt)  -- VABS, R137
  | vsadd (vd va vb : Reg) (m : MaskNo) (fmt : Fmt)  -- VSADD, R137
  | vand (vd va vb : Reg) (m : MaskNo) (fmt : Fmt)  -- VAND, R138
  | vor (vd va vb : Reg) (m : MaskNo) (fmt : Fmt)  -- VOR, R138
  | vxor (vd va vb : Reg) (m : MaskNo) (fmt : Fmt)  -- VXOR, R138
  | vandn (vd va vb : Reg) (m : MaskNo) (fmt : Fmt)  -- VANDN, R138
  | vnot (vd va : Reg) (m : MaskNo) (fmt : Fmt)  -- VNOT, R138
  | vshl (vd va vb : Reg) (m : MaskNo) (fmt : Fmt)  -- VSHL, R138
  | vshr (vd va vb : Reg) (m : MaskNo) (fmt : Fmt)  -- VSHR, R138
  | vsar (vd va vb : Reg) (m : MaskNo) (fmt : Fmt)  -- VSAR, R138
  | vfadd (vd va vb : Reg) (m : MaskNo) (fmt : Fmt)  -- VFADD, R139
  | vfsub (vd va vb : Reg) (m : MaskNo) (fmt : Fmt)  -- VFSUB, R139
  | vfmul (vd va vb : Reg) (m : MaskNo) (fmt : Fmt)  -- VFMUL, R139
  | vfma (vd va vb : Reg) (m : MaskNo) (fmt : Fmt)  -- VFMA, R139
  | vfmin (vd va vb : Reg) (m : MaskNo) (fmt : Fmt)  -- VFMIN, R139
  | vfmax (vd va vb : Reg) (m : MaskNo) (fmt : Fmt)  -- VFMAX, R139
  | vfabs (vd va : Reg) (m : MaskNo) (fmt : Fmt)  -- VFABS, R139
  | vfneg (vd va : Reg) (m : MaskNo) (fmt : Fmt)  -- VFNEG, R139
  | vcmpEq (md : MaskNo) (va vb : Reg) (m : MaskNo) (fmt : Fmt)  -- VCMP_EQ, R140
  | vcmpNe (md : MaskNo) (va vb : Reg) (m : MaskNo) (fmt : Fmt)  -- VCMP_NE, R140
  | vcmpLt (md : MaskNo) (va vb : Reg) (m : MaskNo) (fmt : Fmt)  -- VCMP_LT, R140
  | vcmpLe (md : MaskNo) (va vb : Reg) (m : MaskNo) (fmt : Fmt)  -- VCMP_LE, R140
  | vcmpLtu (md : MaskNo) (va vb : Reg) (m : MaskNo) (fmt : Fmt)  -- VCMP_LTU, R140
  | vcmpLeu (md : MaskNo) (va vb : Reg) (m : MaskNo) (fmt : Fmt)  -- VCMP_LEU, R140
  | vcmpFlt (md : MaskNo) (va vb : Reg) (m : MaskNo) (fmt : Fmt)  -- VCMP_FLT, R140
  | vcmpFle (md : MaskNo) (va vb : Reg) (m : MaskNo) (fmt : Fmt)  -- VCMP_FLE, R140
  | vsel (vd va vb : Reg) (m : MaskNo) (fmt : Fmt)  -- VSEL, R141
  | vsplat (vd xa : Reg) (m : MaskNo) (fmt : Fmt)  -- VSPLAT, R141
  | vperm (vd va vb : Reg) (m : MaskNo) (fmt : Fmt)  -- VPERM, R141
  | vcomp (vd va : Reg) (m : MaskNo) (fmt : Fmt)  -- VCOMP, R141
  | vexpd (vd va : Reg) (m : MaskNo) (fmt : Fmt)  -- VEXPD, R141
  | vshuf (vd va vb : Reg) (m : MaskNo) (fmt : Fmt)  -- VSHUF, R141
  | vrot (vd va xb : Reg) (m : MaskNo) (fmt : Fmt)  -- VROT, R141
  | vrev (vd va : Reg) (m : MaskNo) (fmt : Fmt)  -- VREV, R141
  | vredadd (vd va : Reg) (m : MaskNo) (fmt : Fmt)  -- VREDADD, R143
  | vredmax (vd va : Reg) (m : MaskNo) (fmt : Fmt)  -- VREDMAX, R143
  | vredmin (vd va : Reg) (m : MaskNo) (fmt : Fmt)  -- VREDMIN, R143
  | vredand (vd va : Reg) (m : MaskNo) (fmt : Fmt)  -- VREDAND, R143
  | vredor (vd va : Reg) (m : MaskNo) (fmt : Fmt)  -- VREDOR, R143
  | vcvt (vd va : Reg) (sat : Bool) (partner : Fmt) (m : MaskNo) (fmt : Fmt) (srcIsFmt : Bool) (q : BitVec 2)  -- VCVT, R145
  | vdot4 (vd va vb : Reg) (m : MaskNo) (fmt : Fmt)  -- VDOT4, R147
  | vdota (vd va vb : Reg) (m : MaskNo) (fmt : Fmt)  -- VDOTA, R147
  | vgetl (xd va : Reg) (k : BitVec 5) (fmt : Fmt)  -- VGETL, R148
  | vsetl (vd xa : Reg) (k : BitVec 5) (fmt : Fmt)  -- VSETL, R148
  | bsalign (vd va : Reg)  -- BSALIGN, R208
  | scaccL (vd va vb : Reg) (m : MaskNo)  -- SCACC_L, R209
  | scaccH (vd va vb : Reg) (m : MaskNo)  -- SCACC_H, R209
  | bsnormL (vd va : Reg) (m : MaskNo)  -- BSNORM_L, R210
  | bsnormH (vd va : Reg) (m : MaskNo)  -- BSNORM_H, R210
  | bsnormR (vd va : Reg) (m : MaskNo)  -- BSNORM_R, R210
  | ppinit (pd : PaNo) (xa : Reg)  -- PPINIT, R213
  | ppmul (pd : PaNo) (xa xb : Reg)  -- PPMUL, R53
  | ppmulv (pd : PaNo) (va vb : Reg) (m : MaskNo)  -- PPMULV, R213
  | ppdiv (pd : PaNo) (xa xb : Reg)  -- PPDIV, R55
  | ppmerge (pd pa pb : PaNo)  -- PPMERGE, R56
  | pprd (vd : Reg) (pa : PaNo) (g : BitVec 5) (m : MaskNo)  -- PPRD, R213
  | ppld (pd : PaNo) (va : Reg) (g : BitVec 5) (m : MaskNo)  -- PPLD, R213
  | ppexp (xd : Reg) (pa : PaNo)  -- PPEXP, R213
  | ppnorm (pd : PaNo)  -- PPNORM, R57
  | ppaOpComplete (core : Nat)  -- PPA_OP_COMPLETE, R214
  | mand (md ma mb : MaskNo)  -- MAND, R149
  | mor (md ma mb : MaskNo)  -- MOR, R149
  | mnot (md ma : MaskNo)  -- MNOT, R149
  | mpopc (xd : Reg) (ma : MaskNo) (w : BitVec 2)  -- MPOPC, R149
  | mfirst (xd : Reg) (ma : MaskNo) (w : BitVec 2)  -- MFIRST, R149
  | mset (md : MaskNo) (xa : Reg)  -- MSET, R149
  | mget (xd : Reg) (ma : MaskNo)  -- MGET, R149
  | resultArrival (core slot idx : Nat)  -- RESULT_ARRIVAL, R86
  | accessComplete (core slot : Nat)  -- ACCESS_COMPLETE, R89
  | looseBufferDrain (core : Nat)  -- LOOSE_BUFFER_DRAIN, R161
  | drainRequest (core slot : Nat)  -- DRAIN_REQUEST, R162
  | feRequestArrival (core slot idx : Nat)  -- FE_REQUEST_ARRIVAL, R165
  | feResend (core slot idx : Nat)  -- FE_RESEND, R166
  | feTimeout (core slot idx : Nat)  -- FE_TIMEOUT, R168
  | feCancel (core slot idx : Nat)  -- FE_CANCEL, R168
  | eventTimeout (core slot : Nat)  -- EVENT_TIMEOUT, R126
  | requestReissue (core slot idx : Nat)  -- REQUEST_REISSUE, R173
  | requestFail (core slot idx : Nat)  -- REQUEST_FAIL, R381
  | identityExpiry (idx : Nat)  -- IDENTITY_EXPIRY, R171
  | supervisorMessageRetry (idx : Nat)  -- SUPERVISOR_MESSAGE_RETRY, R248
  | preemptRequest (core : Nat)  -- PREEMPT_REQUEST, R252
  | threadHalt (core slot : Nat)  -- THREAD_HALT, R252
  | imageDone (ctx : Nat)  -- IMAGE_DONE, R253
  | arraySpillDone (cluster : Nat)  -- ARRAY_SPILL_DONE, R206
  | coreBlockLoaded (core : Nat)  -- CORE_BLOCK_LOADED, R256
  | ueKill (core slot : Nat)  -- UE_KILL, R257
  | poison (ctx : Nat) (addr : W64)  -- POISON, R257
  | claimWipeComplete (core : Nat)  -- CLAIM_WIPE_COMPLETE, R301
  | groupExit (core : Nat)  -- GROUP_EXIT, R304
  | engineWriteDrop (cluster chan : Nat)  -- ENGINE_WRITE_DROP, R305
  | interestArrival (idx : Nat)  -- INTEREST_ARRIVAL, R362
  | tileDelivery (idx : Nat)  -- TILE_DELIVERY, R363
  | interestExpiry (cluster idx : Nat)  -- INTEREST_EXPIRY, R360
  | neverProduced (cluster idx : Nat)  -- NEVER_PRODUCED, R365
  | purgeAck (idx : Nat)  -- PURGE_ACK, R359
  | linkUp (cxl : Bool) (port : Nat) (caps : List (Nat × W64)) (bytes : Nat)  -- LINK_UP, R375
  | trainingTimeout (cxl : Bool) (port : Nat)  -- TRAINING_TIMEOUT, R375
  | llrReplay (port : Nat) (bad : List Nat) (ok : Bool)  -- LLR_REPLAY, R379
  | rudRetransmit (port idx : Nat)  -- RUD_RETRANSMIT, R380
  | peerFailed (dev : Nat)  -- PEER_FAILED, R382
  | packetDrop (obj index : Nat)  -- PACKET_DROP, R383
  | ycpCreate (y : Ycp)  -- YCP_CREATE, R239
  | ycpLaunch (y : Ycp)  -- YCP_LAUNCH, R282
  | ycpAmsend (y : Ycp)  -- YCP_AMSEND, R296
  | ycpKill (y : Ycp)  -- YCP_KILL, R247
  | ycpPreempt (y : Ycp)  -- YCP_PREEMPT, R252
  | ycpRestore (y : Ycp)  -- YCP_RESTORE, R256
  | ycpShrink (y : Ycp)  -- YCP_SHRINK, R297
  | ycpWrite (y : Ycp)  -- YCP_WRITE, R429
  | ycpRead (y : Ycp)  -- YCP_READ, R429
  | budgetWrite (y : Ycp)  -- BUDGET_WRITE, R421
  | budgetRead (y : Ycp)  -- BUDGET_READ, R421
  | identity (y : Ycp)  -- IDENTITY, R424
  | attest (y : Ycp)  -- ATTEST, R424
  | lifeCycleChange (cmd : LifeCommand) (vendor owner : Bool)  -- LIFE_CYCLE_CHANGE, R426
  | powerGood (parts : List Firmware)  -- POWER_GOOD, R414
  | dieReady (die : Nat)  -- DIE_READY, R414
  | cxlReady (found : CxlEnd)  -- CXL_READY, R416
  | warmReset  -- WARM_RESET, R417
  | coldReset (phys : Nat)  -- COLD_RESET, R417
  | operatingPointChange (cluster point : Nat)  -- OPERATING_POINT_CHANGE, R420
  | budgetStep (cluster : Nat) (down : Bool)  -- BUDGET_STEP, R420
  | dieGate (die : Nat)  -- DIE_GATE, R421
  | dieUngate (die : Nat)  -- DIE_UNGATE, R421
  | yieldExpiry (core slot : Nat)  -- YIELD_EXPIRY, R127
  | cpwTimeout (core slot : Nat)  -- CPW_TIMEOUT, R184
  | vigilDecodeComplete (cluster : Nat)  -- VIGIL_DECODE_COMPLETE, R355
  | operatingPointSettled (cluster : Nat)  -- OPERATING_POINT_SETTLED, R420
  | stackReady (stack : Nat)  -- STACK_READY, R416
  | remoteRequest (dev port ctx : Nat) (op : RemoteOp)  -- REMOTE_REQUEST, R74
  | llrAcknowledgement (port count : Nat)  -- LLR_ACKNOWLEDGEMENT, R379
  deriving DecidableEq, Repr

end Sys2Proof
end

