-- ==== Sys2Proof/Machine/State.lean ====
section
/-!
DEFINITION. The state of the device as plain data, with everything the spec gives it: threads, cores, clusters, dies,
memory, contexts, ports, the messages in flight between its agents; and the model's own schedule. INVENTORY.md lists each
piece with its rule and its reset value.
-/

namespace Sys2Proof.Machine

/-! ## Threads -/

/-- The state of a thread slot (R241). -/
inductive SlotState where
  | free | loading | ready | parked | ganghigh | split | trailing | halted | killed
  deriving DecidableEq, Repr

/-- Why a thread is parked (R242). -/
inductive Reason where
  | marks | access | port | feWait | pageMove | lease | sync | event | engine | busy | supervisor | fpx | twin | preempt
  deriving DecidableEq, Repr

/-- A park: its reason, the core cycle it began, and the address or object waited on (R242, R254). -/
structure Park where
  reason : Reason
  since  : Nat
  obj    : W64 := 0
  aux    : W64 := 0
  deriving DecidableEq, Repr

/-- The registers of one trap level (R130). -/
structure Level where
  epc    : W64 := 0
  ecause : W64 := 0
  eaddr  : W64 := 0
  estat  : W64 := 0
  deriving DecidableEq, Repr

/-- Where a piece of an access lies: a location of this device (R217), or an address of a peer device (R74). -/
inductive Place where
  | here (loc : Nat)
  | peer (dev : Nat) (addr : W64)
  deriving DecidableEq, Repr

/-- A page whose leaf an access or a command translated through: context, private identity if any, first address and
number of address bits of the page (R332). -/
structure LeafKey where
  ctx  : Nat
  priv : Option Nat
  va   : Nat
  bits : Nat
  deriving DecidableEq, Repr

/-- What an outstanding access does (R160, R165, R170, R177, R272). -/
inductive AccOp where
  | load (sgn : Bool)
  | loadV
  | store
  | amo (op : Nat) (cmp : Nat)
  | feLoad (take : Bool)
  | feStore (force : Bool)
  | feEmpty
  | feStat
  | gather
  | scatter
  | qstat (port : Nat)
  deriving DecidableEq, Repr

/-- Where a result goes. -/
inductive Dest where
  | none
  | scalar (r : Reg)
  | vector (r : Reg)
  deriving DecidableEq, Repr

/-- One single-copy-atomic piece of an access: its place, its byte offset in the register, the data it stores. -/
structure Lane where
  off   : Nat
  place : Place
  data  : Nat := 0
  deriving DecidableEq, Repr

/-- How far a full/empty request has come (R165, R166): on its way, refused, waiting at the owner, answered. -/
inductive Stage where
  | travel | refused | waiting | done
  deriving DecidableEq, Repr

/-- An outstanding access (R86, R89, R171, R173, R253). result holds the values read once it has been performed; drain lists
the cores whose drains a promoting acquire still waits for (R162). -/
structure Access where
  id     : Nat
  stamp  : W64
  pc     : W64
  op     : AccOp
  order  : Order
  addr   : W64
  size   : Nat
  dest   : Dest
  lanes  : List Lane
  leafs  : List LeafKey := []
  result : Option (List Nat) := Option.none
  stage  : Stage := .travel
  drain  : List Nat := []
  since  : Nat := 0
  tries  : Nat := 0
  cancel : Bool := false
  deriving DecidableEq, Repr

/-- A trap that waits for the thread's next issue (R168, R244, R365). -/
structure PendTrap where
  cause : Nat
  eaddr : W64
  deriving DecidableEq, Repr

/-- An entry of the store comparator of a twin (R172, R259): encoding, address, size, order code, data, the access it holds
back, whether the trailing thread has issued the same, and the pieces a store will write, each of width bytes. -/
structure CmpEntry where
  enc  : Nat
  addr : W64
  size : Nat
  ord  : Nat
  data : Nat
  acc  : Option Nat
  met  : Bool := false
  lanes : List Lane := []
  width : Nat := 0
  deriving DecidableEq, Repr

/-- The row a handler thread works on (R201, R203). -/
structure RowClaim where
  slot    : Nat
  row     : Nat
  chunk   : Nat
  cmd     : Nat
  cluster : Nat
  deriving DecidableEq, Repr

/-- An entry that a bundle pops, with the queue it stands in: the port, the kind of the port, the queue (1 for the up queue, the number of a
mailbox), and the mailbox that the port popped before (R267, R270). -/
structure Popped where
  port  : Nat
  kind  : Nat
  idx   : Nat
  entry : W128
  last  : Nat
  deriving DecidableEq, Repr

/-- What a bundle in whose effect its thread waits has read: the shared registers as it latched them, the entries it pops, whether they
have left their queues, and those that return to their queues if the bundle has no effect after all (R79, R82). -/
structure Keep where
  s      : Tbl W64
  y      : Tbl W128
  pops   : List (Nat × W128)
  popped : Bool
  back   : List Popped
  deriving DecidableEq, Repr

/-- A BARAW that has arrived and may only wait (R318): its bundle, its barrier word, the phase it arrived in, and its trap level. -/
structure Arrived where
  pc    : W64
  word  : W64
  phase : Nat
  tl    : Nat
  deriving DecidableEq, Repr

/-- A hardware thread and its slot (R90, R130, R241). uid numbers the threads of the device, so that a reply finds the
thread it was sent for. inside is the bundle in whose effect the thread waits, keep what it has read (R82); forked says that its FORK
has recruited and still waits to end (R288); arrived are its BARAWs that have arrived, one for each trap level (R318); late are flags of special functions that
came while it waited, each with its bundle (R249); ahead counts the bundles a leading thread has completed before its trailing
one (R259). -/
structure Thread where
  slot     : SlotState := .free
  uid      : Nat := 0
  ctx      : Nat := 0
  pc       : W64 := 0
  x        : Tbl W64 := []
  v        : Tbl W128 := []
  m1       : BitVec 16 := 0
  m2       : BitVec 16 := 0
  m3       : BitVec 16 := 0
  privid   : BitVec 20 := 0
  seat     : W64 := 0
  mode     : BitVec 4 := 0
  tags     : W64 := 0
  tagerr   : W64 := 0
  busyTags : W64 := 0
  events   : BitVec 4 := 0
  fewait   : BitVec 32 := 0x01000000
  fflags   : BitVec 5 := 0
  rm       : BitVec 2 := 0
  fen      : BitVec 5 := 0
  pdeg     : BitVec 6 := 0x3F
  tl       : Nat := 0
  l1       : Level := {}
  l2       : Level := {}
  hbase    : W64 := 0
  park     : Option Park := Option.none
  reply    : Option W64 := Option.none
  marksX   : BitVec 32 := 0
  marksV   : BitVec 32 := 0
  accs     : List Access := []
  last     : Option Nat := Option.none
  busyTil  : Nat := 0
  marker   : Bool := false
  traps    : List PendTrap := []
  row      : Option RowClaim := Option.none
  halted   : SlotState := .free
  lvq      : List (Nat × Option W256) := []
  cmp      : List CmpEntry := []
  resv     : List (Nat × Nat) := []
  probed   : List (List Nat) := []
  inside   : Option W64 := Option.none
  keep     : Option Keep := Option.none
  forked   : Bool := false
  arrived  : List Arrived := []
  late     : List (W64 × BitVec 5) := []
  ahead    : Nat := 0
  deriving DecidableEq, Repr

/-! ## Cores -/

/-- The state of a core group (R301). -/
inductive GroupState where
  | idle | claimed | active | evacuating | exited
  deriving DecidableEq, Repr

/-- The state of a bank or pseudo-channel (R344). -/
inductive UnitState where
  | inService | spare | evacuating | retired
  deriving DecidableEq, Repr

/-- A physical unit: what it backs, where it evacuates to, its copy pointer, the stamp of its switch-over (R341, R346,
R347, R349). -/
structure BankUnit where
  st      : UnitState := .inService
  logical : Option Nat := Option.none
  dest    : Option Nat := Option.none
  pointer : Nat := 0
  held    : Bool := false
  stub    : Option Nat := Option.none
  deriving DecidableEq, Repr

/-- A port binding (R263): the binding word, its owner, FAULTED, and the mailbox entry last popped (R270). -/
structure Port where
  word    : W64 := 0
  owner   : Nat := 0
  faulted : Bool := false
  last    : Nat := 15
  deriving DecidableEq, Repr

/-- A neighbour push on its way to this core: into the up queue or the down queue, due at a core cycle, with its sender's
stamp (R29, R267). -/
structure NbPush where
  up    : Bool
  entry : W128
  due   : Nat
  stamp : W64 := 0
  deriving DecidableEq, Repr

/-- An accepted mailbox reservation at the target core, in acceptance order, with the thread and port it was sent for and the entry once
its push has come (R268). -/
structure MbResv where
  entry : Nat
  core  : Nat
  slot  : Nat
  uid   : Nat
  port  : Nat
  got   : Option W128 := none
  deriving DecidableEq, Repr

/-- An entry of the loose buffer (R161): a store not yet written to memory, with its identity (R171), its context, its thread, the
address it was issued with and the leaves it was translated through. -/
structure LooseEntry where
  id    : Nat
  slot  : Nat
  stamp : W64
  place : Place
  size  : Nat
  data  : Nat
  ctx   : Nat
  uid   : Nat
  addr  : W64
  leafs : List LeafKey
  deriving DecidableEq, Repr

/-- A request in the special-function queue (R152). -/
structure SfuReq where
  slot : Nat
  uid  : Nat
  pc   : W64
  op   : Nat
  fmt  : Fmt
  vec  : Bool
  gang : Bool
  mask : BitVec 32
  arg  : W256
  dest : Reg
  rm   : BitVec 2
  deriving DecidableEq, Repr

/-- An operation of the product-polynomial unit with its recorded operands (R213, R214). -/
inductive PpaOp where
  | init (pd : PaNo) (limit : Nat)
  | mul (pd : PaNo) (factors : List (BitVec 32 × BitVec 32))
  | div (pd : PaNo) (a b : BitVec 32)
  | merge (pd pa pb : PaNo)
  | read (pa : PaNo) (g : Nat) (mask : BitVec 8) (dest : Reg) (gang : Bool)
  | load (pd : PaNo) (g : Nat) (mask : BitVec 8) (vals : List (BitVec 32))
  | exp (pa : PaNo) (dest : Reg)
  | norm (pd : PaNo)
  deriving DecidableEq, Repr

/-- A request in the product-polynomial queue, with the cycle it entered (R214); seq rises along the queue, so that requests which leave it at
a pre-emption halt keep their order (R215). -/
structure PpaReq where
  slot  : Nat
  uid   : Nat
  op    : PpaOp
  since : Nat
  seq   : Nat := 0
  deriving DecidableEq, Repr

/-- An accumulator (R52): coefficients as FP32 bits, exponent, degree, limit, flags. -/
structure Pa where
  c   : Tbl (BitVec 32) := []
  x   : Int := 0
  deg : Nat := 0
  lim : Nat := 0
  t   : Bool := false
  cnd : Bool := false
  o   : Bool := false
  z   : Bool := false
  deriving DecidableEq, Repr

/-- A start: a message on its way to a core, a migrating thread, or an entry of a run queue (R281, R283, R292). kind 0 launch,
1 SPAWN, 2 FORK recruit, 3 MIGR, 4 AMSEND. back is the thread that waits for the answer, or the parent of a recruit: core, slot, uid;
slot is a slot reserved for the start; queued a run-queue entry reserved for a MIGR; refused the sender's core cycle of a refusal; tag the tag of an AMSEND, arg the address of a MIGR. -/
structure Start where
  kind   : Nat
  ctx    : Nat
  core   : Nat
  src    : Nat
  pc     : W64
  x      : List W64 := []
  stamp  : W64 := 0
  pred   : W64 := 0
  status : W64 := 0
  tags   : W64 := 0
  anchor : Option W64 := Option.none
  uid    : Nat := 0
  back   : Option (Nat × Nat × Nat) := Option.none
  slot    : Option Nat := Option.none
  queued  : Bool := false
  refused : Option Nat := Option.none
  tag     : Nat := 0
  arg     : W64 := 0
  row     : Option RowClaim := Option.none
  deriving DecidableEq, Repr

/-- The registration of a row handler (R202). -/
structure Mhset where
  pc    : W64
  slots : Nat
  base  : Nat
  ctx   : Nat
  deriving DecidableEq, Repr

/-- A landing slot that a row holds (R201): its scratchpad offset, row, chunk and command. -/
structure Landed where
  off     : Nat
  row     : Nat
  chunk   : Nat
  cmd     : Nat
  cluster : Nat
  uid     : Nat
  deriving DecidableEq, Repr

/-- A cached leaf (R332, R333): the page, the physical address of its entry, both words, count and prescaler. -/
structure TlbEntry where
  key   : LeafKey
  entry : Nat
  word  : W64
  comp  : W64
  count : Nat := 0
  pre   : Nat := 0
  deriving DecidableEq, Repr

/-- A core: its shared registers, its pool, its units and queues (R14, R130). sfuHeld and ppaHeld are requests that left their queues at
a pre-emption halt (R154, R215). wrote lists the writes to shared registers in the present cycle: register (32 more for a vector),
thread, bytes (R91, R135); entered is the cycle of the last start that arrived, with its source core (R282); high is the cycle that the high
half of a ganged bundle takes (R258). -/
structure Core where
  time     : Nat := 0
  clock    : W64 := 0
  s        : Tbl W64 := []
  y        : Tbl W128 := []
  qwatch   : BitVec 32 := 0x00100000
  part     : BitVec 15 := 0
  banks    : Tbl BankUnit := []
  group    : GroupState := .idle
  ctx      : Nat := 0
  threads  : Tbl Thread := []
  ports    : Tbl Port := []
  nb       : List NbPush := []
  resvs    : List MbResv := []
  waitOrd  : List (Nat × Nat) := []
  sems     : Tbl Nat := []
  semWait  : List (Nat × Nat) := []
  loose    : List LooseEntry := []
  sfu      : List SfuReq := []
  sfuStart : Nat := 0
  sfuHeld  : List SfuReq := []
  ppa      : List PpaReq := []
  ppaStart : Nat := 0
  ppaHeld  : List PpaReq := []
  pa       : Tbl Pa := []
  runq     : List Start := []
  mhset    : Option Mhset := Option.none
  landed   : List Landed := []
  tlb      : List TlbEntry := []
  nmCount  : Nat := 0
  wrote    : List (Nat × Nat × Nat) := []
  entered  : Option (Nat × Nat) := Option.none
  high     : Option Nat := Option.none
  stopping : Bool := false
  deriving DecidableEq, Repr

/-! ## Clusters -/

/-- A command of the array with its pusher (R194, R206). -/
structure ArrayCmd where
  id   : Nat
  bits : W256
  core : Nat
  slot : Nat
  uid  : Nat
  ctx  : Nat
  deriving DecidableEq, Repr

/-- An element of a FIFO with the thread whose copy pushed it (R197, R206). -/
structure FifoElem where
  bits  : Nat
  bytes : Nat
  uid   : Nat
  ctx   : Nat
  deriving DecidableEq, Repr

/-- A drain in progress (R199, R200): the buffer, its command and chunk, the next row, the rows with overflow. -/
structure Drain where
  buf   : Bool
  cmd   : ArrayCmd
  chunk : Nat
  row   : Nat
  ovf   : List Nat
  deriving DecidableEq, Repr

/-- The status of a command from its first drain on (R196): ready once its last row has landed, it waits for the release of its
rows and for room in the result queue. -/
structure ArrayDone where
  cmd   : ArrayCmd
  ovf   : Bool := false
  cause : Nat := 0
  ready : Bool := false
  deriving DecidableEq, Repr

/-- The cluster array: its lease, queues, FIFOs, buffers and drain (R188 to R206). cur is the command under way with the number of
its chunk and the values of k that the chunk has consumed; half lists the first halves of commands whose second has not come, each with
its thread's uid and context (R193); an empty buffer holds zeros, a full one 128 rows of 128 sums; openRow
lists the rows that handlers hold, as command, row and handler. -/
structure MtxArray where
  holder  : Option Nat := Option.none
  cmds    : Nat := 0
  cycles  : Nat := 0
  prev    : Nat := 0
  waiters : List (Nat × Bool) := []
  half    : List (Nat × Nat × W128) := []
  cmdq    : List ArrayCmd := []
  fifoA   : List FifoElem := []
  fifoB   : List FifoElem := []
  cur     : Option (ArrayCmd × Nat × Nat) := Option.none
  buf0    : List Int := []
  buf1    : List Int := []
  lastBuf : Option Bool := Option.none
  lastCtx : Nat := 0
  rowOvf  : List Nat := []
  drain   : Option Drain := Option.none
  dones   : List ArrayDone := []
  openRow : List (Nat × Nat × Nat) := []
  resq    : List W128 := []
  frozen  : Option Nat := Option.none
  deriving DecidableEq, Repr

/-- A shape record as read (R179): bits 511 to 0 as a number. -/
structure Shape where
  word : Nat
  deriving DecidableEq, Repr

/-- A page a command has translated: its first address, the places of its bytes (one, or a replica of each die). -/
structure PagePlace where
  va     : Nat
  bits   : Nat
  places : List Place
  deriving DecidableEq, Repr

/-- A copy command (R181, R183): who issued it, with the seat and core of issue (R72), its operands, and, once started,
its record and the pages it has translated (R182). -/
structure CopyCmd where
  id      : Nat
  core    : Nat
  slot    : Nat
  uid     : Nat
  ctx     : Nat
  privid  : Nat
  seat    : W64
  pc      : W64
  recAddr : W64
  coords  : W64
  dst     : W64
  dk      : Nat
  tag     : Nat
  shape   : Option Shape := Option.none
  started : Bool := false
  moved   : Nat := 0
  srcs    : List PagePlace := []
  dsts    : List PagePlace := []
  leafs   : List LeafKey := []
  parked  : Bool := false
  deriving DecidableEq, Repr

/-- A binding of a tile name (R357, R359), with the thread and bundle of its ANNC. -/
structure Binding where
  name      : W64
  ctx       : Nat
  src       : W64
  size      : Nat
  pin       : Bool
  seat      : W64
  core      : Nat
  slot      : Nat
  pc        : W64
  privid    : Nat
  withdrawn : Bool := false
  acks      : Nat := 0
  deriving DecidableEq, Repr

/-- An interest entry (R358): the neighbours that asked (1 +X, 2 -X, 3 +Y, 4 -Y), and LOCAL; sent is the port and the device to which a route
of DIR 5 has forwarded it, by which the tile comes back (R366). -/
structure Interest where
  name     : W64
  ctx      : Nat
  deadline : Nat
  dirs     : List Nat
  loc      : Bool
  sent     : Option (Nat × Nat) := Option.none
  deriving DecidableEq, Repr

/-- A local WANT (R358, R369): its thread and bundle, the location and bytes of its destination, tag, NPTRAP, deadline. -/
structure WantRec where
  name     : W64
  core     : Nat
  slot     : Nat
  uid      : Nat
  ctx      : Nat
  pc       : W64
  loc      : Nat
  cap      : Nat
  tag      : Nat
  trap     : Bool
  deadline : Nat
  deriving DecidableEq, Repr

/-- A consumer record (R358): a local WANT, or a requester behind a link. -/
inductive Consumer where
  | want (w : WantRec)
  | remote (name : W64) (port dev deadline : Nat)
  deriving DecidableEq, Repr

/-- A tile in a tarn with the granules it takes, numbered from the highest logical bank downward (R364, R430). -/
structure Tile where
  name  : W64
  data  : List (BitVec 8)
  pin   : Bool
  age   : Nat
  grans : List Nat
  deriving DecidableEq, Repr

/-- The name agent of a cluster router with its tarn (R358). -/
structure NameAgent where
  binds  : List Binding := []
  ints   : List Interest := []
  cons   : List Consumer := []
  routes : Tbl W64 := []
  drops  : BitVec 32 := 0
  tiles  : List Tile := []
  age    : Nat := 0
  deriving DecidableEq, Repr

/-- A cluster (R15): its operating point (0 NOON, 1 DAY, 2 DUSK), VIGIL (0 out, 1 in, 2 leaving), clock, slice, array,
copy channels, name agent. -/
structure Cluster where
  point   : Nat := 1
  vigil   : Nat := 0
  stopped : Bool := false
  slices  : Tbl BankUnit := []
  tarn    : Nat := 0
  arr     : MtxArray := {}
  chans   : Tbl (List CopyCmd) := []
  tlbs    : Tbl (List TlbEntry) := []
  agent   : NameAgent := {}
  loss    : W64 := 0
  idleNs  : Nat := 0
  activity : Nat := 0
  clock   : W64 := 0
  deriving DecidableEq, Repr

/-! ## Dies, contexts, ports -/

/-- A swap of two names of a congruence group (R336), with the PGHOT issuer that waits. -/
structure Swap where
  group  : Nat
  m      : Nat
  n      : Nat
  issuer : Option (Nat × Nat × Nat)
  deriving DecidableEq, Repr

/-- An operation of the mapping unit under way (R339, R340): who waits for it, the context whose tables it changes, the accesses and
copies, by their numbers, that translated through what its shootdown dropped and are still to be performed, and what it will answer. -/
structure Shoot where
  core  : Nat
  slot  : Nat
  uid   : Nat
  ctx   : Nat
  ids   : List Nat
  value : W64 := 0
  deriving DecidableEq, Repr

/-- A die (R13): its nanosecond count (R29), pseudo-channels (R341) and the lines sent to spare areas (R346). -/
structure Die where
  ns       : Nat := 0
  pchs     : Tbl BankUnit := []
  redirect : List (Nat × Nat) := []
  domain   : Bool := true
  clock    : W64 := 0
  deriving DecidableEq, Repr

/-- The state of a context (R240). -/
inductive CtxState where
  | free | loading | live | preempting | saved | restoring | killed
  deriving DecidableEq, Repr

/-- The state of a kernel (R280). -/
inductive KernState where
  | none | launched | running | shrinking | complete
  deriving DecidableEq, Repr

/-- A core of a save image (R254): its number, the core with its threads, the empty words of its scratchpad by their offset. -/
structure SavedCore where
  num   : Nat
  core  : Core
  empty : List Nat
  deriving DecidableEq, Repr

/-- The save image of a context (R253, R254): the stamp of the request, DONE, the cores, and the spilled arrays with the lease
holder of each. -/
structure Image where
  stamp : W64
  fin   : Bool := false
  cores : List SavedCore := []
  arrs  : List (Nat × MtxArray) := []
  deriving DecidableEq, Repr

/-- A context with its descriptor (R239), the kernel it runs and its descriptor (R278), its placement (R299) and image. -/
structure Ctx where
  st       : CtxState := .free
  refer    : W64 := 0
  killrec  : W64 := 0
  savebase : W64 := 0
  proot    : W64 := 0
  groot    : W64 := 0
  hbase    : W64 := 0
  supcore  : Nat := 0
  priv     : Bool := false
  kern     : KernState := .none
  shapetab : W64 := 0
  shapen   : Nat := 0
  recn     : Nat := 0
  recpool  : W64 := 0
  relaunch : W64 := 0
  entries  : List W64 := []
  part     : BitVec 15 := 0
  place    : List Nat := []
  shrink   : List Nat := []
  count    : Nat := 0
  ids      : List Nat := []
  image    : Option Image := Option.none
  imageAt  : Nat := 0
  waiter   : Option (Nat × Nat × Nat) := Option.none
  deriving DecidableEq, Repr

/-- A barrier cell (R310): state 0 FREE, 1 OPEN, 2 FROZEN. -/
structure Cell where
  ctx     : Nat := 0
  st      : Nat := 0
  phase   : Nat := 0
  expect  : Nat := 0
  arrived : Nat := 0
  deriving DecidableEq, Repr

/-- A packet in the send window of a UE port (R379): its LLR sequence number, the transport's number and whether it is of a ROD session,
the check computed as it entered. -/
structure WinEntry where
  seq   : Nat
  psn   : Nat
  fwd   : Bool := false
  rod   : Bool := false
  check : BitVec 32 := 0
  deriving DecidableEq, Repr

/-- The state of a link (R375). -/
inductive LinkState where
  | disabled | training | up
  deriving DecidableEq, Repr

/-- A UE port (R375, R377, R379, R384, R387): peers holds the capability words read over its sessions, by device, point its operating
point (R26). -/
structure UePort where
  st      : LinkState := .disabled
  window  : List WinEntry := []
  seq     : Nat := 0
  fails   : Nat := 0
  replays : Nat := 0
  repairs : Nat := 0
  badRun  : Nat := 0
  loss    : W64 := 0
  peers   : Tbl W64 := []
  point   : Nat := 1
  deriving DecidableEq, Repr

/-- A CXL port with the capacity of its expander in bytes (R375, R427). -/
structure CxlPort where
  st      : LinkState := .disabled
  fails   : Nat := 0
  replays : Nat := 0
  loss    : W64 := 0
  bytes   : Nat := 0
  wiped   : Bool := false
  point   : Nat := 1
  deriving DecidableEq, Repr

/-! ## Messages between agents -/

/-- A full/empty request waiting at its word's owner, in arrival order (R166). -/
structure FeWaiter where
  core  : Nat
  slot  : Nat
  uid   : Nat
  id    : Nat
  loc   : Nat
  size  : Nat
  op    : AccOp
  data  : Nat
  ctx   : Nat
  deriving DecidableEq, Repr

/-- An identity held by a target with the value an AMO returned (R171): the device, core and thread of the request and its
stamp, and the die whose count times the hold. -/
structure Identity where
  dev   : Nat
  core  : Nat
  slot  : Nat
  stamp : W64
  value : Nat
  die   : Nat
  since : Nat
  deriving DecidableEq, Repr

/-- A scan command (R185, R186). -/
structure ScanCmd where
  id     : Nat
  core   : Nat
  slot   : Nat
  uid    : Nat
  ctx    : Nat
  privid : Nat
  seat   : W64
  pc     : W64
  src    : W64
  dst    : W64
  count  : Nat
  cap    : Nat
  cmp    : Nat
  fmt    : Fmt
  thresh : W64
  tag    : Nat
  deriving DecidableEq, Repr

/-- An active message that its device's transport sends again: one refused for a full run queue, or one to a peer (R295, R296). -/
structure AmMsg where
  core : Nat
  slot : Nat
  uid  : Nat
  tag  : Nat
  ctx  : Nat
  dev  : Nat
  dst  : Nat
  pc   : W64
  x    : List W64
  since : Nat
  stamp : W64
  deriving DecidableEq, Repr

/-- A queue-cycle probe (R277). -/
structure Probe where
  origin : Nat
  slot   : Nat
  at_    : Nat
  seen   : List Nat
  hops   : Nat
  deriving DecidableEq, Repr

/-- A wake of a barrier phase on its way to a core (R311), with the threads that were parked there for that phase when it completed, and
the core's cycle then. -/
structure Wake where
  cell  : Nat
  phase : Nat
  core  : Nat
  uids  : List Nat := []
  since : Nat := 0
  deriving DecidableEq, Repr

/-- An interest on its way to an agent (R362): from a neighbour in a direction, or from a link. -/
structure IntMsg where
  name     : W64
  ctx      : Nat
  deadline : Nat
  tgt       : Nat
  dir      : Nat
  link     : Option (Nat × Nat) := Option.none
  deriving DecidableEq, Repr

/-- A tile on its way to an agent (R363). -/
structure TileMsg where
  name : W64
  data : List (BitVec 8)
  pin  : Bool
  tgt   : Nat
  deriving DecidableEq, Repr

/-- A purge of a withdrawn name on its way to a tarn (R359). -/
structure Purge where
  name : W64
  home : Nat
  tgt   : Nat
  deriving DecidableEq, Repr

/-- The root of a context's global page table, where its kill record goes, and whether the context is privileged (R239, R247). -/
structure RecordRoot where
  groot   : W64
  killrec : W64
  priv    : Bool
  deriving DecidableEq, Repr

/-- A supervisor message held by its sender (R248, R269); record is a kill record that must be written before it, with what its page is
found by (R247). A message whose context is FREE has no words any more, while its record still waits. -/
structure SupMsg where
  ctx   : Nat
  core  : Nat
  words : List W64
  record : List W64 := []
  root   : Option RecordRoot := Option.none
  deriving DecidableEq, Repr

/-- A YCP message that the device sends (R385): operation, status, request number, context, body words, the stamp of its link agent, and
the session it goes on: its UE port, and whether the session has host role. -/
structure HostMsg where
  op     : Nat
  status : Nat
  reqid  : BitVec 32
  ctx    : Nat
  body   : List W64
  stamp  : W64 := 0
  port   : Nat := 0
  host   : Bool := true
  deriving DecidableEq, Repr

/-- A message to a peer device (R74, R296, R366); a request carries the stamp of its issue (R32). -/
inductive LinkMsg where
  | access (dev : Nat) (core slot id : Nat) (addr : W64) (op : AccOp) (order : Order) (size : Nat) (data : Nat) (stamp : W64)
  | start (dev : Nat) (m : AmMsg)
  | interest (port dev : Nat) (name : W64) (ctx deadline : Nat)
  | tile (port dev : Nat) (name : W64) (data : List (BitVec 8)) (pin : Bool)
  | reply (dev port : Nat) (cause : Nat) (value : Nat) (stamp : W64)
  deriving DecidableEq, Repr

/-! ## The schedule and the bundle under way -/

/-- A move of the device: an event of the table, a turn of a core's wheel (one cycle of its clock, R16), the nanosecond count of a die
reaching a value (R29), a retirement that Odcor starts, with its bank word (R353), a YCP request whose operation is none of the table's
(R385), a session that asks for host role on a UE port, with whether the peer signs its transcript with the owner's key (R425), the power
controllers' estimate of the package total and of each cluster's activity, or the point that a UE port, CXL port or stack chooses (R420). -/
inductive Move where
  | event (i : Instr)
  | turn (core : Nat)
  | clock (die ns : Nat)
  | retire (w : W64)
  | ycpOther (op : Nat) (y : Ycp)
  | session (port : Nat) (signed : Bool)
  | estimate (watts : Nat) (acts : List Nat)
  | unitPoint (kind idx point : Nat)
  deriving DecidableEq, Repr

/-- How far the bundle under way has come: there is none; its words run; its thread parked before it issued (step 5 of R82)
or in a wait of its effect; it trapped; its thread is no longer there. -/
inductive Phase where
  | idle | going | parked | held | trapped | ended
  deriving DecidableEq, Repr

/-- The bundle under way (R79 to R82): whose it is, its address, its two words and its switch marker, the core as it stood before either word
wrote, the entries it pops, the queues they stand in and whether they have left them, the flags it has raised. -/
structure Issue where
  core   : Nat := 0
  slot   : Nat := 0
  pc     : W64 := 0
  word   : W64 := 0
  sw     : Bool := false
  latch  : Option Core := Option.none
  pops   : List (Nat × W128) := []
  src    : List Popped := []
  popped : Bool := false
  flags  : BitVec 5 := 0
  phase  : Phase := .idle
  deriving DecidableEq, Repr

/-- The device. quiet holds, by peer device, one more than the nanosecond count since when its sessions have been silent while traffic to it is
pending, 0 while none is (R382); poison lists the poisoned lines of 64 bytes, by location (R257); odcor the retirements that Odcor has begun and that wait for the
exit of a cluster from VIGIL (R353). -/
structure State where
  number   : Nat := 0
  mem      : List Host.Cell := []
  empties  : List Nat := []
  relrec   : Tbl Nat := []
  feWait   : List FeWaiter := []
  idents   : List Identity := []
  poison   : List Nat := []
  drainReq : List Nat := []
  cores    : Tbl Core := []
  clusters : Tbl Cluster := []
  dies     : Tbl Die := []
  remap    : Tbl (BitVec 32) := []
  swaps    : List Swap := []
  odcor    : List W64 := []
  shoots   : List Shoot := []
  ctxs     : Tbl Ctx := []
  cells    : Tbl Cell := []
  wakes    : List Wake := []
  starts   : List Start := []
  packets  : List Start := []
  ams      : List AmMsg := []
  scans    : List ScanCmd := []
  probes   : List Probe := []
  ints     : List IntMsg := []
  tiles    : List TileMsg := []
  purges   : List Purge := []
  sups     : List SupMsg := []
  ue       : Tbl UePort := []
  cxl      : Tbl CxlPort := []
  routes   : Tbl W64 := []
  quiet    : Tbl Nat := []
  stage    : Nat := 0
  stkrdy   : BitVec 12 := 0
  stkwiped : BitVec 12 := 0
  dierdy   : BitVec 4 := 0
  cxlrdy   : BitVec 4 := 0
  gated    : BitVec 4 := 0
  lcs      : Nat := 1
  lcsShown : Nat := 0
  owner    : Option Nat := Option.none
  ownerFuse : Option Nat := Option.none
  idkey    : Bool := true
  fwOk     : Bool := false
  fwFail   : Bool := false
  hosts    : List Nat := []
  asked    : List (Bool × Nat) := []
  budget   : W64 := 2400
  watts    : Nat := 0
  stepped  : List Nat := []
  stkPoint : Tbl Nat := []
  measure  : Nat := 0
  mlog     : List Nat := []
  attest   : Option (List Nat) := Option.none
  attests  : Nat := 0
  hostOut  : List HostMsg := []
  linkOut  : List LinkMsg := []
  agenda   : List Move := []
  focus    : Nat := 0
  iss      : Issue := {}
  fresh    : Nat := 0
  free     : Nat := 0
  deriving DecidableEq, Repr

/-- Why a run stops with a fault (log 65, DEDUCED). -/
inductive Fault where
  /-- A page-table entry, an instance entry, a mask entry or a root lies at a physical address that R323 says nothing
  backs; raised by a walk (R324, R329, R331). Safe: the spec gives such a read no outcome. -/
  | unbackedWalk
  deriving DecidableEq, Repr

/-- Why a run is refused. -/
inductive Refusal where
  /-- An instruction that has no meaning yet; raised by exec alone. Safe: nothing is claimed of it. -/
  | notModelled (mnemonic : String)
  deriving DecidableEq, Repr

/-- The device right after a cold reset, before power-good starts its stages (R414, R417): every slot FREE, every core
IDLE, every context FREE, ports DISABLED, routes ABSENT, memory wiped, remap and bank maps the identity. -/
def State.reset : State := {}

end Sys2Proof.Machine
end

