-- ==== Sys2Proof/Machine/Lens.lean ====
section
/-!
DEFINITION. Reading and changing one part of the state: a core, a thread, a cluster, a die, a context, a port; and the almanac
stamps of the units (R29).
-/

namespace Sys2Proof.Machine

/-- A core of the device. -/
def coreAt (s : State) (c : Nat) : Core := tget {} s.cores c

/-- The state with one core replaced. -/
def setCore (s : State) (c : Nat) (k : Core) : State := { s with cores := tput s.cores c k }

/-- The state with one core changed. -/
def modCore (s : State) (c : Nat) (f : Core → Core) : State := setCore s c (f (coreAt s c))

/-- A thread slot of a core. -/
def thrOf (k : Core) (t : Nat) : Thread := tget {} k.threads t

/-- The core with one thread slot replaced. -/
def setThrOf (k : Core) (t : Nat) (th : Thread) : Core := { k with threads := tput k.threads t th }

/-- A thread slot of the device. -/
def thrAt (s : State) (c t : Nat) : Thread := thrOf (coreAt s c) t

/-- The state with one thread slot replaced. -/
def setThr (s : State) (c t : Nat) (th : Thread) : State := modCore s c (fun k => setThrOf k t th)

/-- The state with one thread slot changed. -/
def modThr (s : State) (c t : Nat) (f : Thread → Thread) : State := setThr s c t (f (thrAt s c t))

/-- A cluster. -/
def cluAt (s : State) (k : Nat) : Cluster := tget {} s.clusters k

/-- The state with one cluster changed. -/
def modClu (s : State) (k : Nat) (f : Cluster → Cluster) : State :=
  { s with clusters := tput s.clusters k (f (cluAt s k)) }

/-- The state with the array of one cluster changed. -/
def modArr (s : State) (k : Nat) (f : MtxArray → MtxArray) : State := modClu s k (fun c => { c with arr := f c.arr })

/-- The state with the name agent of one cluster changed. -/
def modAgent (s : State) (k : Nat) (f : NameAgent → NameAgent) : State :=
  modClu s k (fun c => { c with agent := f c.agent })

/-- A die. -/
def dieAt (s : State) (d : Nat) : Die := tget {} s.dies d

/-- The state with one die changed. -/
def modDie (s : State) (d : Nat) (f : Die → Die) : State := { s with dies := tput s.dies d (f (dieAt s d)) }

/-- A context. -/
def ctxAt (s : State) (n : Nat) : Ctx := tget {} s.ctxs n

/-- The state with one context changed. -/
def modCtx (s : State) (n : Nat) (f : Ctx → Ctx) : State := { s with ctxs := tput s.ctxs n (f (ctxAt s n)) }

/-- A UE port. -/
def ueAt (s : State) (p : Nat) : UePort := tget {} s.ue p

/-- The state with one UE port changed. -/
def modUe (s : State) (p : Nat) (f : UePort → UePort) : State := { s with ue := tput s.ue p (f (ueAt s p)) }

/-- A CXL port. -/
def cxlAt (s : State) (p : Nat) : CxlPort := tget {} s.cxl p

/-- The state with one CXL port changed. -/
def modCxl (s : State) (p : Nat) (f : CxlPort → CxlPort) : State := { s with cxl := tput s.cxl p (f (cxlAt s p)) }

/-- The next number of the fresh counter. -/
def withFresh (s : State) : Nat × State := (s.fresh + 1, { s with fresh := s.fresh + 1 })

/-- The next free value (Config.freeValue, log 12, DESIGN CHOICE). -/
def withFree (s : State) : Bool × State := (Config.freeValue s.free, { s with free := s.free + 1 })

/-! ## Partition and banks -/

/-- REGF, SCRATCH and ACC of a partition word (R130). -/
def regf (p : BitVec 15) : Nat := p.toNat % 32
def scratch (p : BitVec 15) : Nat := p.toNat / 32 % 32
def accBanks (p : BitVec 15) : Nat := p.toNat / 1024 % 32

/-- The banks a partition uses. -/
def partSum (p : BitVec 15) : Nat := regf p + scratch p + accBanks p

/-- What a logical pool bank holds in partition order; a scratchpad bank holds 8 KiB from an offset on (R342). -/
inductive PoolUse where
  | registers
  | scratchpad (first : Nat)
  | accumulators
  | unused
  deriving DecidableEq, Repr

/-- What a logical pool bank holds (R342). -/
def poolUse (p : BitVec 15) (l : Nat) : PoolUse :=
  if l < regf p then .registers
  else if l < regf p + scratch p then .scratchpad ((l - regf p) * 8192)
  else if l < partSum p then .accumulators
  else .unused

/-- Bytes of a core's scratchpad share (R66). -/
def shareBytes (k : Core) : Nat := scratch k.part * 8192

/-- A, the start of the queue area; none without a scratchpad (R262). -/
def queueArea (k : Core) : Option Nat := if scratch k.part = 0 then none else some (scratch k.part * 8192 - 1024)

/-- A physical pool bank; at cold reset it backs the logical bank of its own number (R341). -/
def poolBank (k : Core) (b : Nat) : BankUnit := tget { logical := some b } k.banks b

/-- A physical slice bank (R341, R430). -/
def sliceBank (c : Cluster) (b : Nat) : BankUnit := tget { logical := some b } c.slices b

/-- A physical pseudo-channel (R341). -/
def pseudoUnit (d : Die) (p : Nat) : BankUnit := tget { logical := some p } d.pchs p

/-- A unit counts in its capacity register while it is in service, spare included (R345). -/
def inCount (u : BankUnit) : Bool := u.st == .inService || u.st == .spare

/-- $cappool (R345). -/
def cappool (k : Core) : Nat := ((List.range 20).filter (fun b => inCount (poolBank k b))).length

/-- $capslice (R345). -/
def capslice (c : Cluster) : Nat := ((List.range 32).filter (fun b => inCount (sliceBank c b))).length

/-- The PCH field of $caphbm (R345). -/
def capPch (d : Die) : Nat :=
  if d.domain then ((List.range 192).filter (fun b => inCount (pseudoUnit d b))).length else 0

/-- $caphbm (R130, R345). -/
def caphbm (d : Die) : W64 := BitVec.ofNat 64 ((if d.domain then 147456 else 0) * 2 ^ 32 + capPch d)

/-- A core below its partition (R131). -/
def belowPart (k : Core) : Bool := decide (cappool k < partSum k.part)

/-- A pool bank is the destination of an evacuation under way. -/
def destined (k : Core) (b : Nat) : Bool :=
  (List.range 20).any (fun c => (poolBank k c).st == .evacuating && (poolBank k c).dest == some b)

/-- Whether a pool bank is SPARE: in service and backing no logical bank in use (R344) (log 66, DEDUCED). -/
def isSpare (k : Core) (b : Nat) : Bool :=
  let u := poolBank k b
  inCount u && !destined k b && (match u.logical with
    | some l => poolUse k.part l == .unused
    | none => true)

/-- A copy pointer is under way in a unit (R347). -/
def copying (u : BankUnit) : Bool := u.st == .evacuating && !u.held && u.stub.isNone

/-! ## Groups -/

/-- Whether a core is live for a context (R68, R302). -/
def liveFor (s : State) (c ctx : Nat) : Bool :=
  let k := coreAt s c
  decide (c < 5120) && k.ctx == ctx && (k.group == .claimed || k.group == .active || k.group == .evacuating)

/-- Whether a core is open for a context: it accepts starts (R302). -/
def openFor (s : State) (c ctx : Nat) : Bool :=
  let k := coreAt s c
  decide (c < 5120) && k.ctx == ctx && k.group == .active && !belowPart k

/-! ## Stamps -/

/-- A clock after a local event at a physical time (R29). -/
def tick (phys : Nat) (c : W64) : W64 := if phys > bits c 16 48 then BitVec.ofNat 64 (phys * 2 ^ 16) else c + 1

/-- Stamp a is earlier than stamp b (R30). -/
def earlier (a b : W64) : Bool := decide (1 ≤ (b - a).toNat) && decide ((b - a).toNat ≤ 2 ^ 63 - 1)

/-- A clock after receiving an item with a stamp (R29). -/
def receive (phys : Nat) (c m : W64) : W64 :=
  let n := (if earlier c m then m else c) + 1
  if phys * 2 ^ 16 > n.toNat then BitVec.ofNat 64 (phys * 2 ^ 16) else n

/-- Phys() of a die: its nanosecond count, modulo 2^48 (R28, R29). -/
def physOf (s : State) (d : Nat) : Nat := (dieAt s d).ns % 2 ^ 48

/-- The stamping units (R29): each core; with one clock each, as the model chooses, the engines, the router and the link agents
of a cluster, and the memory controllers, scan units and Odcor of a die (log 70, DESIGN CHOICE). -/
inductive Clk where
  | core (c : Nat)
  | clu (k : Nat)
  | die (d : Nat)
  deriving DecidableEq, Repr

/-- A local event of a core's clock: the stamp and the state with the clock advanced (R29, R125). -/
def stampCore (s : State) (c : Nat) : W64 × State :=
  let m := tick (physOf s (dieOfCore c)) (coreAt s c).clock
  (m, modCore s c (fun k => { k with clock := m }))

/-- A local event of a cluster's engines, which share one clock with its router and link agents (R29; log 70, DESIGN CHOICE). -/
def stampClu (s : State) (k : Nat) : W64 × State :=
  let m := tick (physOf s (dieOf k)) (cluAt s k).clock
  (m, modClu s k (fun c => { c with clock := m }))

/-- A local event of a die's memory controllers, which share one clock with its scan units and Odcor (R29; log 70, DESIGN CHOICE). -/
def stampDie (s : State) (d : Nat) : W64 × State :=
  let m := tick (physOf s d) (dieAt s d).clock
  (m, modDie s d (fun x => { x with clock := m }))

/-- A core receives an item that carries a stamp (R29). -/
def receiveCore (s : State) (c : Nat) (m : W64) : State :=
  modCore s c (fun k => { k with clock := receive (physOf s (dieOfCore c)) k.clock m })

/-- A local event of a unit: the stamp it gives, and the state after (R29). -/
def stampOf (s : State) : Clk → W64 × State
  | .core c => stampCore s c
  | .clu k => stampClu s k
  | .die d => stampDie s d

/-- A unit receives an item that carries a stamp (R29). -/
def receiveAt (s : State) (u : Clk) (m : W64) : State :=
  match u with
  | .core c => receiveCore s c m
  | .clu k => modClu s k (fun c => { c with clock := receive (physOf s (dieOf k)) c.clock m })
  | .die d => modDie s d (fun x => { x with clock := receive (physOf s d) x.clock m })

/-- One unit sends a stamped item that another receives (R29; log 71, DESIGN CHOICE). -/
def carry (s : State) (u v : Clk) : State :=
  let (m, s) := stampOf s u
  receiveAt s v m

/-- The unit at which a location is read and written: the core of a scratchpad, the memory controllers of a die
(log 70, DESIGN CHOICE). -/
def locClk (loc : Nat) : Clk := if isScratch loc then .core (scratchCore loc) else .die (groupDie (congruence loc).1)

/-! ## Threads -/

/-- A thread that exists: its slot holds a thread of its own (R241). -/
def occupied (th : Thread) : Bool := th.slot != .free

/-- The slots of a core. -/
def slots : List Nat := List.range 16

/-- The thread of a core and slot, when it is still the one a reply was sent for. -/
def isThread (s : State) (c t uid : Nat) : Bool := (thrAt s c t).uid == uid && occupied (thrAt s c t)

/-- The cores a context has claimed, from its placement (R299). -/
def coresOf (s : State) (ctx : Nat) : List Nat := (ctxAt s ctx).place.filter (fun c => (coreAt s c).ctx == ctx &&
  (coreAt s c).group != .idle)

/-- A ganged thread (R94). -/
def isGang (th : Thread) : Bool := th.mode.getLsbD 0

/-- A thread of a twin (R259). -/
def isTwin (th : Thread) : Bool := th.mode.getLsbD 1

/-- The trailing thread of a twin (R259). -/
def isTrail (th : Thread) : Bool := th.mode.getLsbD 2

/-- The core context of a thread is privileged (R128). -/
def privileged (s : State) (th : Thread) : Bool := (ctxAt s th.ctx).priv

/-- Park a thread (R242). -/
def parkThr (s : State) (c t : Nat) (r : Reason) (obj : W64 := 0) (aux : W64 := 0) : State :=
  modThr s c t (fun th => { th with slot := .parked, park := some ⟨r, (coreAt s c).time, obj, aux⟩ })

/-- The reason a thread is parked for, if it is. -/
def parkedFor (th : Thread) (r : Reason) : Bool :=
  th.slot == .parked && (match th.park with
    | some p => p.reason == r
    | none => false)

/-- The state of the slot of a thread that may issue: READY, or TRAILING for the trailing thread of a twin (R241). -/
def readySlot (th : Thread) : SlotState := if isTrail th then .trailing else .ready

/-- A thread may issue. -/
def isReady (th : Thread) : Bool := th.slot == .ready || (th.slot == .trailing && isTrail th)

/-- A parked thread may issue again. -/
def freeThr (s : State) (c t : Nat) : State :=
  modThr s c t (fun th => if th.slot = .parked then { th with slot := readySlot th, park := none } else th)

/-- Wake a parked thread; only RESUME ends a park of SUPERVISOR or FPX (R242). -/
def wakeThr (s : State) (c t : Nat) : State :=
  if parkedFor (thrAt s c t) .supervisor || parkedFor (thrAt s c t) .fpx then s else freeThr s c t

/-- Answer a thread that waits: its bundle reissues with the reply (R82). -/
def answer (s : State) (c t : Nat) (v : W64) : State :=
  wakeThr (modThr s c t (fun th => { th with reply := some v })) c t

/-- Threads of a core that wait for room in a unit try again (R242). -/
def wakeUnits (s : State) (c : Nat) : State :=
  slots.foldl (fun s t =>
    let th := thrAt s c t
    match th.park with
    | some p => if parkedFor th .engine && p.aux == 0 then wakeThr s c t else s
    | none => s) s

/-- Wake every thread of a core that is parked for a reason. -/
def wakeAll (s : State) (c : Nat) (r : Reason) : State :=
  slots.foldl (fun s t => if parkedFor (thrAt s c t) r then wakeThr s c t else s) s

/-- Latch an event bit of a thread (R130). -/
def latchEvent (s : State) (c t : Nat) (e : BitVec 4) : State :=
  modThr s c t (fun th => if occupied th then { th with events := th.events ||| e } else th)

/-- $events.TAG, QUEUE, SEM and WAKE (R130). -/
def evTag : BitVec 4 := 1
def evQueue : BitVec 4 := 2
def evSem : BitVec 4 := 4
def evWake : BitVec 4 := 8

/-- Latch an event and wake a thread that waits on it (R126). -/
def raiseEvent (s : State) (c t : Nat) (e : BitVec 4) : State :=
  let s := latchEvent s c t e
  let th := thrAt s c t
  match th.park with
  | some p => if parkedFor th .event && (th.events &&& p.obj.setWidth 4) != 0 then wakeThr s c t else s
  | none => s

/-- A tag of a thread completes, in error or not (R183): found by its uid, in its slot or in a saved image. -/
def tagThread (th : Thread) (tag : Nat) (err : Bool) : Thread :=
  let b : W64 := 1 <<< tag
  { th with tags := th.tags ||| b, tagerr := if err then th.tagerr ||| b else th.tagerr
            busyTags := th.busyTags &&& ~~~b, events := th.events ||| evTag }

/-- A thread parked ENGINE goes on: one that waits for tags (aux 1 for any, 2 for all, obj the set) when they are set, one that
waits for a unit (aux 0) to try again; one that waits for an answer (aux 3) stays (R184, R242). -/
def wakeTags (s : State) (c t : Nat) : State :=
  let th := thrAt s c t
  match th.park with
  | none => s
  | some p =>
    let met := if p.aux = 1 then (th.tags &&& p.obj) != 0 else if p.aux = 2 then (th.tags &&& p.obj) == p.obj else p.aux == 0
    if parkedFor th .engine && met then wakeThr s c t else s

/-- Completion of a tag: $tags set, $events.TAG latched, waits of the thread on tags or events ended (R183, R184). -/
def completeTag (s : State) (c t uid tag : Nat) (err : Bool) : State :=
  if isThread s c t uid then
    let s := modThr s c t (fun th => tagThread th tag err)
    wakeTags (raiseEvent s c t evTag) c t
  else
    { s with ctxs := s.ctxs.map (fun p => (p.1, { p.2 with image := p.2.image.map (fun im =>
        { im with cores := im.cores.map (fun sc =>
            { sc with core := { sc.core with threads := sc.core.threads.map (fun q =>
                if q.2.uid = uid ∧ q.2.slot ≠ .free then (q.1, tagThread q.2 tag err) else q) } }) }) })) }

end Sys2Proof.Machine
end

