-- ==== Sys2Proof/Machine/Mem.lean ====
section
/-!
DEFINITION. Memory: bytes at locations (R217), the full/empty bit of every 64-bit word (R21, R163), and the operations an owner
performs on a word: loads and ordinary stores (R160, R167), atomics (R170), full/empty operations with their waiters
(R165, R166), and the core-scope release records (R162). What an unlisted byte reads as is the wiped value, zero, and the
word is full (R163, R414).
-/

namespace Sys2Proof.Machine

/-- What a byte that no entry lists reads as (R163, R414) (log 8, DEDUCED). -/
def memDefault : BitVec 8 := 0

/-- One byte of memory. -/
def readByte (s : State) (loc : Nat) : BitVec 8 := tget memDefault s.mem loc

/-- One byte written. -/
def writeByte (s : State) (loc : Nat) (b : BitVec 8) : State := { s with mem := tset memDefault s.mem loc b }

/-- n bytes from a location, least significant first (R4). -/
def readBytes (s : State) (loc : Nat) : Nat → Nat
  | 0 => 0
  | n + 1 => (readByte s loc).toNat + 256 * readBytes s (loc + 1) n

/-- n bytes written at a location, least significant first (R4). -/
def writeBytes (s : State) (loc : Nat) : Nat → Nat → State
  | 0, _ => s
  | n + 1, v => writeBytes (writeByte s loc (BitVec.ofNat 8 v)) (loc + 1) n (v / 256)

/-- The list of bytes from a location. -/
def readList (s : State) (loc n : Nat) : List (BitVec 8) := (List.range n).map (fun i => readByte s (loc + i))

/-- A list of bytes written at a location. -/
def writeList (s : State) (loc : Nat) : List (BitVec 8) → State
  | [] => s
  | b :: r => writeList (writeByte s loc b) (loc + 1) r

/-- The memory is in its canonical form: addresses rise and no entry holds the unlisted value. -/
abbrev Memory.wf (s : State) : Prop := twf memDefault s.mem = true

/-! ## The full/empty bit -/

/-- The number of the 64-bit word that holds a location. -/
def wordNo (loc : Nat) : Nat := loc / 8

/-- The word is empty (R163). -/
def isEmpty (s : State) (w : Nat) : Bool := s.empties.contains w

/-- Insert a number into a rising list. -/
def insertRising (w : Nat) : List Nat → List Nat
  | [] => [w]
  | a :: r => if w < a then w :: a :: r else if w = a then a :: r else a :: insertRising w r

/-- The word becomes empty. Its data bits are the hardware's while it is empty (R166) and read as zero (R167), so its
bytes are cleared. -/
def setEmpty (s : State) (w : Nat) : State :=
  let s := writeBytes s (w * 8) 8 0
  { s with empties := insertRising w s.empties }

/-- The word becomes full. -/
def setFull (s : State) (w : Nat) : State := { s with empties := s.empties.filter (· != w) }

/-! ## Core-scope release records (R162) -/

/-- The core a word's record names, if it has one. -/
def recordOf (s : State) (w : Nat) : Option Nat :=
  match tget 0 s.relrec w with
  | 0 => none
  | n + 1 => some n

/-- A write of the word by a thread: another core clears the record (R162). -/
def touchRecord (s : State) (w core : Nat) : State :=
  match recordOf s w with
  | some c => if c = core then s else { s with relrec := tset 0 s.relrec w 0 }
  | none => s

/-- A store or AMO with a core-scope release code records its core with the word (R162). -/
def setRecord (s : State) (w core : Nat) : State := { s with relrec := tset 0 s.relrec w (core + 1) }

/-- A write that carries a core-scope release code records its core with each word of the bytes it writes (R162). -/
def recordWrite (rel : Bool) (s : State) (w core : Nat) : State := if rel then setRecord s w core else touchRecord s w core

/-- The core number that a peer device's thread has for records: none of this device's. -/
def peerCore : Nat := 8191

/-! ## Waiters of a word (R165, R166) -/

/-- A waiting reader. -/
def isReader (w : FeWaiter) : Bool :=
  match w.op with
  | .feLoad _ => true
  | _ => false

/-- Sign-extension of an n-bit number to 64 bits (R9). -/
def sext (v n : Nat) : W64 := (BitVec.ofNat n v).signExtend 64

/-- The first access of a thread with an identity. -/
def accOf (th : Thread) (id : Nat) : Option Access := th.accs.find? (·.id == id)

/-- The thread without an access. -/
def dropAcc (th : Thread) (id : Nat) : Thread := { th with accs := th.accs.filter (·.id != id) }

/-- The thread with an access changed. -/
def modAcc (th : Thread) (id : Nat) (f : Access → Access) : Thread :=
  { th with accs := th.accs.map (fun a => if a.id = id then f a else a) }

/-- A core-scope release (R162). -/
def isRelCore (o : Order) : Bool := o == .rel .core

/-- A promoting acquire (R162). -/
def isPacq : Order → Bool
  | .pacq _ => true
  | _ => false

/-- The order code of a thread's request. -/
def orderOf (s : State) (core slot id : Nat) : Order := ((accOf (thrAt s core slot) id).map (·.order)).getD .plain

/-- The unit that answers for a place; none for a peer device. -/
def placeClk : Place → Option Clk
  | .here loc => some (locClk loc)
  | .peer _ _ => none

/-- The answers of the units at which the pieces of an access lie reach its core (R29). -/
def answered (s : State) (core : Nat) (a : Access) : State :=
  (a.lanes.map (fun l => placeClk l.place)).eraseDups.foldl (fun s u => match u with
    | some u => carry s u (.core core)
    | none => receiveAt s (.core core) (Config.peerStamp a.id)) s

/-! ## Recent identities (R171) -/

/-- The die whose count times what a location's owner holds. -/
def dieOfLoc (loc : Nat) : Nat := if isScratch loc then dieOfCore (scratchCore loc) else groupDie (congruence loc).1

/-- An identity, device, core, thread and stamp, stands in the cache. -/
def sameIdentity (dev core slot : Nat) (stamp : W64) (e : Identity) : Bool :=
  e.dev == dev && e.core == core && e.slot == slot && e.stamp == stamp

/-- An identity enters the recent-identity cache of its target, or restarts its hold there (R171, R380). -/
def holdIdentity (s : State) (dev core slot : Nat) (stamp : W64) (value die : Nat) : State :=
  { s with idents := s.idents.filter (fun e => !(sameIdentity dev core slot stamp e && e.die == die))
      ++ [⟨dev, core, slot, stamp, value, die, (dieAt s die).ns⟩] }

/-- A full/empty request is answered with a value: a loose one keeps it until it arrives (R165), the thread of another
is answered and its bundle reissues. RPEEK, whose request names its register, is answered with the slot's address (R276). -/
def answerFe (s : State) (core slot uid id size v : Nat) : State :=
  if isThread s core slot uid then
    match accOf (thrAt s core slot) id with
    | none => s
    | some a =>
      let s := answered s core a
      if a.order = .loose then
        modThr s core slot (fun th => modAcc th id (fun a => { a with result := some [v], stage := .done }))
      else match a.op with
        | .feLoad _ | .feStat | .feStore false =>
          answer (modThr s core slot (fun th => dropAcc th id)) core slot (if a.dest = .none then sext v (8 * size) else a.addr)
        | _ => modThr s core slot (fun th => modAcc th id (fun a => { a with result := some [v], stage := .done }))
  else s

/-- The bytes of a fill: a 4-byte fill zeroes the other half of its word (R165). -/
def fillBytes (s : State) (loc size data : Nat) : State :=
  let s := if size = 4 then writeBytes s (wordNo loc * 8) 8 0 else s
  writeBytes s loc size data

/-- The core that a word's record names is asked to drain before a promoting full/empty load that read the word completes (R162). -/
def askDrain (s : State) (w : Nat) (o : Order) : State :=
  match recordOf s w with
  | some k => if !isPacq o || s.drainReq.contains k then s else { s with drainReq := s.drainReq ++ [k] }
  | none => s

/-- A waiting writer fills its word: its core is recorded when its code is a core-scope release (R162, R165), and its identity held (R171). -/
def fillWaiter (s : State) (q : FeWaiter) : State :=
  let s' := recordWrite (isRelCore (orderOf s q.core q.slot q.id)) (setFull (fillBytes s q.loc q.size q.data) (wordNo q.loc)) (wordNo q.loc) q.core
  match accOf (thrAt s q.core q.slot) q.id with
  | some a => holdIdentity s' s.number q.core q.slot a.stamp 0 (dieOfLoc q.loc)
  | none => s'

/-- The word's waiting requests are served after a fill, in arrival order: readers take the data until a taker empties
the word, which wakes the oldest writer (R165). The fuel bounds the waiters there are. -/
def walk : Nat → State → Nat → State
  | 0, s, _ => s
  | n + 1, s, w =>
    match s.feWait.find? (fun q => wordNo q.loc == w && isReader q) with
    | none => s
    | some r =>
      let s := { s with feWait := s.feWait.filter (fun q => !(q.id == r.id && q.uid == r.uid)) }
      let s := askDrain s w (orderOf s r.core r.slot r.id)
      let s := answerFe s r.core r.slot r.uid r.id r.size (readBytes s r.loc r.size)
      if r.op = .feLoad true then
        let s := touchRecord (setEmpty s w) w r.core
        match s.feWait.find? (fun q => wordNo q.loc == w && !isReader q) with
        | none => s
        | some q =>
          let s := fillWaiter { s with feWait := s.feWait.filter (fun p => !(p.id == q.id && p.uid == q.uid)) } q
          walk n (answerFe s q.core q.slot q.uid q.id 8 0) w
      else walk n s w

/-- WalkReaders of a word (R165). -/
def walkReaders (s : State) (w : Nat) : State := walk (s.feWait.length + 1) s w

/-- WakeOldestWriter of an emptied word (R165) (log 28, DEDUCED). -/
def wakeWriter (s : State) (w : Nat) : State :=
  match s.feWait.find? (fun q => wordNo q.loc == w && !isReader q) with
  | none => s
  | some q =>
    let s := fillWaiter { s with feWait := s.feWait.filter (fun p => !(p.id == q.id && p.uid == q.uid)) } q
    walkReaders (answerFe s q.core q.slot q.uid q.id 8 0) w

/-- Fill of R165, by a thread of a core; rel for a core-scope release (R162). -/
def fill (s : State) (core loc size data : Nat) (rel : Bool := false) : State :=
  let w := wordNo loc
  let was := isEmpty s w
  let s := recordWrite rel (setFull (fillBytes s loc size data) w) w core
  if was then walkReaders s w else s

/-- A thread empties a word, which wakes the oldest writer (R165, R242). -/
def emptyWord (s : State) (core w : Nat) : State := wakeWriter (touchRecord (setEmpty s w) w core) w

/-! ## What an owner performs -/

/-- The pieces of n bytes from a location, cut at 64-bit words: location, length and the number of bytes before it. -/
def wordPieces (loc : Nat) : Nat → Nat → Nat → List (Nat × Nat × Nat)
  | 0, _, _ => []
  | fuel + 1, n, done =>
    if n = 0 then []
    else
      let m := min n (8 - loc % 8)
      (loc, m, done) :: wordPieces (loc + m) fuel (n - m) (done + m)

/-- The bytes of an ordinary write to one word: an empty word's other bytes become zero, the word becomes full and its
readers are served (R167). by_ is the core of a writing thread, none for an engine, and rel a core-scope release (R162). -/
def storePiece (by_ : Option Nat) (rel : Bool) (s : State) (loc n v : Nat) : State :=
  let w := wordNo loc
  let was := isEmpty s w
  let s := writeBytes s loc n v
  let s := match by_ with
    | some c => recordWrite rel s w c
    | none => s
  if was then walkReaders (setFull s w) w else s

/-- An ordinary write of n bytes (R160, R167). -/
def storeAt (by_ : Option Nat) (s : State) (loc n v : Nat) (rel : Bool := false) : State :=
  (wordPieces loc (n + 1) n 0).foldl (fun s p => storePiece by_ rel s p.1 p.2.1 (v / 256 ^ p.2.2 % 256 ^ p.2.1)) s

/-- An ordinary read of n bytes; an empty word reads as zero (R167). -/
def loadAt (s : State) (loc n : Nat) : Nat := readBytes s loc n

/-- The new value of an AMO on n bits (R170); none when a compare fails. -/
def amoNew (op n v b c : Nat) : Option Nat :=
  let x : BitVec n := BitVec.ofNat n v
  let y : BitVec n := BitVec.ofNat n b
  match op with
  | 0 => some (x + y).toNat
  | 1 => some (x &&& y).toNat
  | 2 => some (x ||| y).toNat
  | 3 => some (x ^^^ y).toNat
  | 4 => some (if x.slt y then x else y).toNat
  | 5 => some (if x.slt y then y else x).toNat
  | 6 => some (if x.ult y then x else y).toNat
  | 7 => some (if x.ult y then y else x).toNat
  | 8 => some y.toNat
  | _ => if x = BitVec.ofNat n c then some y.toNat else none

/-- An AMO at its owner: the old value, and the state after (R167, R170). -/
def amoAt (core : Nat) (s : State) (loc size op b c : Nat) (rel : Bool := false) : Nat × State :=
  let v := loadAt s loc size
  match amoNew op (8 * size) v b c with
  | some w => (v, storeAt (some core) s loc size w rel)
  | none => (v, s)

/-- Every word of a range zero and full: a wipe (R163). -/
def wipe (s : State) (loc n : Nat) : State :=
  { s with mem := s.mem.filter (fun p => !(decide (loc ≤ p.1) && decide (p.1 < loc + n)))
           empties := s.empties.filter (fun w => !(decide (loc ≤ w * 8) && decide (w * 8 < loc + n)))
           relrec := s.relrec.filter (fun p => !(decide (loc ≤ p.1 * 8) && decide (p.1 * 8 < loc + n)))
           poison := s.poison.filter (fun l => !(decide (loc ≤ l * 64) && decide (l * 64 < loc + n))) }

/-! ## Poisoned lines (R257) -/

/-- A byte of n from a location lies in a poisoned line (R257). -/
def poisonedAt (s : State) (loc n : Nat) : Bool := s.poison.any (fun l => decide (l * 64 < loc + n) && decide (loc < l * 64 + 64))

/-! ## Capacity of the wait structures (R166) -/

/-- The HBM storage address of a location, after the remap (R335, R343); none for one stored behind a CXL port. -/
def hbmAddr (s : State) (loc : Nat) : Option Nat :=
  let (g, i) := congruence loc
  if slotOfName (tget remapIdentity s.remap g) i = 0 then some (g * 65536 + loc % 65536) else none

/-- The pseudo-channel of a die in whose storage a line lies now: its own, or, once the line has been copied, the one whose spare area
the redirect table gives for it (R346 to R348). -/
def linePseudo (d : Die) (p l : Nat) : Nat :=
  let u := pseudoUnit d p
  if u.st = .retired ∨ (u.st = .evacuating ∧ (u.stub.isSome ∨ l < u.pointer)) then
    ((d.redirect.find? (fun q => q.1 == p * 12288 + l / 1024)).map (·.2)).getD p
  else p

/-- The unit whose table a waiter stands in: a core's wait table, or a channel's, numbered after the cores; the words
behind a CXL port share one table a port (log 24, DEDUCED). Waiters move with their line (R348). -/
def waitUnit (s : State) (loc : Nat) : Nat :=
  if isScratch loc then scratchCore loc
  else match hbmAddr s loc with
    | some o =>
      let x := o % dieBytes
      6000 + o / dieBytes * 96 + linePseudo (dieAt s (o / dieBytes)) (pseudoOf x) (lineOf x) / 2
    | none => 7000 + groupDie (congruence loc).1

/-- The line of a location is the one that its unit's evacuation copies now: a request that writes it is held until it is copied (R347). -/
def lineHeld (s : State) (loc : Nat) : Bool :=
  if isScratch loc then
    let k := coreAt s (scratchCore loc)
    let o := scratchOff loc
    (List.range 20).any (fun b => let u := poolBank k b
      copying u && u.logical == some (regf k.part + o / 8192) && u.pointer == o % 8192 / 64)
  else match hbmAddr s loc with
    | some o =>
      let x := o % dieBytes
      let u := pseudoUnit (dieAt s (o / dieBytes)) (pseudoOf x)
      copying u && u.pointer == lineOf x
    | none => false

/-- Whether the owner of a word has room for one more waiter (R166). -/
def waitRoom (s : State) (ctx loc : Nat) (reader : Bool) : Bool :=
  let u := waitUnit s loc
  if isScratch loc then decide ((s.feWait.filter (fun q => waitUnit s q.loc == u)).length < 64)
  else if reader then
    decide ((s.feWait.filter (fun q => !isScratch q.loc && isReader q && q.ctx == ctx)).length < (ctxAt s ctx).recn)
  else decide ((s.feWait.filter (fun q => waitUnit s q.loc == u && !isReader q)).length < 256)

end Sys2Proof.Machine
end

