-- ==== Sys2Proof/Machine/Queue.lean ====
section
/-!
DEFINITION. Queues: the neighbour queues and mailboxes, whose state is bytes of the queue area (R262), the array's queues, the
port bindings (R263), popping and pushing through a port (R267, R270), and the waking of threads parked on ports.
-/

namespace Sys2Proof.Machine

/-! ## The queue area (R262) -/

/-- The location of the queue area of a core; a core without a scratchpad has none, and nothing uses the value. -/
def areaLoc (s : State) (c : Nat) : Nat := scratchLoc c (scratch (coreAt s c).part * 8192 - 1024)

/-- The neighbour control word. -/
def nbControl (s : State) (c : Nat) : Nat := readBytes s (areaLoc s c + 0x100) 16

/-- HEAD and COUNT of the up or down queue. -/
def nbHead (s : State) (c : Nat) (up : Bool) : Nat := nbControl s c / 2 ^ (if up then 8 else 0) % 8
def nbCount (s : State) (c : Nat) (up : Bool) : Nat := nbControl s c / 2 ^ (if up then 12 else 4) % 16

/-- The control word with the counts and heads of both queues. -/
def setNbControl (s : State) (c dnHead dnCount upHead upCount : Nat) : State :=
  writeBytes s (areaLoc s c + 0x100) 16 (dnHead + dnCount * 2 ^ 4 + upHead * 2 ^ 8 + upCount * 2 ^ 12)

/-- One queue's head and count changed. -/
def setNb (s : State) (c : Nat) (up : Bool) (head count : Nat) : State :=
  if up then setNbControl s c (nbHead s c false) (nbCount s c false) head count
  else setNbControl s c head count (nbHead s c true) (nbCount s c true)

/-- The location of a slot of a neighbour queue. -/
def nbSlot (s : State) (c : Nat) (up : Bool) (i : Nat) : Nat := areaLoc s c + (if up then 0x80 else 0) + 16 * (i % 8)

/-- The entry at the head of a neighbour queue. -/
def nbFront (s : State) (c : Nat) (up : Bool) : Option W128 :=
  if nbCount s c up = 0 then none else some (BitVec.ofNat 128 (readBytes s (nbSlot s c up (nbHead s c up)) 16))

/-- The neighbour queue without its head. -/
def nbPop (s : State) (c : Nat) (up : Bool) : State := setNb s c up ((nbHead s c up + 1) % 8) (nbCount s c up - 1)

/-- An entry appended to a neighbour queue. -/
def nbAppend (s : State) (c : Nat) (up : Bool) (e : W128) : State :=
  let s := writeBytes s (nbSlot s c up (nbHead s c up + nbCount s c up)) 16 e.toNat
  setNb s c up (nbHead s c up) (nbCount s c up + 1)

/-- The neighbour queue with an entry back at its head. -/
def nbUnpop (s : State) (c : Nat) (up : Bool) (e : W128) : State :=
  let h := (nbHead s c up + 7) % 8
  setNb (writeBytes s (nbSlot s c up h) 16 e.toNat) c up h (nbCount s c up + 1)

/-- Entries of a queue of a core that bundles in a wait of their effect have popped, and that return if a bundle traps (R82). -/
def heldPops (s : State) (c kind idx : Nat) : Nat :=
  (coreAt s c).threads.foldl (fun n q => match q.2.keep with
    | some k => n + (k.back.filter (fun b => b.kind == kind && b.idx == idx)).length
    | none => n) 0

/-- Entries a neighbour queue counts for the fullness of later pushes: those present, those on their way, and those that may return
(R82, R267). -/
def nbLoad (s : State) (c : Nat) (up : Bool) : Nat :=
  nbCount s c up + ((coreAt s c).nb.filter (·.up == up)).length + heldPops s c 1 (if up then 1 else 0)

/-- A mailbox table entry (R262). -/
structure Mbox where
  base  : Nat
  slots : Nat
  valid : Bool
  prio  : Nat
  id    : Nat
  head  : Nat
  count : Nat
  deriving DecidableEq, Repr

/-- The fields of a mailbox table entry's 16 bytes. -/
def mboxOf (n : Nat) : Mbox :=
  { base := n % 2 ^ 20, slots := n / 2 ^ 20 % 2 ^ 12, valid := n / 2 ^ 45 % 2 = 1, prio := n / 2 ^ 46 % 4
    id := n / 2 ^ 48 % 2 ^ 16, head := n / 2 ^ 64 % 2 ^ 12, count := n / 2 ^ 80 % 2 ^ 13 }

/-- The 16 bytes of a mailbox table entry. -/
def mboxWord (m : Mbox) : Nat :=
  m.base + m.slots * 2 ^ 20 + (if m.valid then 2 ^ 45 else 0) + m.prio * 2 ^ 46 + m.id * 2 ^ 48 + m.head * 2 ^ 64
    + m.count * 2 ^ 80

/-- Entry i of a core's mailbox table. -/
def mbox (s : State) (c i : Nat) : Mbox := mboxOf (readBytes s (areaLoc s c + 0x200 + 16 * i) 16)

/-- Entry i of a core's mailbox table written. -/
def setMbox (s : State) (c i : Nat) (m : Mbox) : State :=
  writeBytes s (areaLoc s c + 0x200 + 16 * i) 16 (mboxWord m)

/-- The valid entry with an identifier. -/
def mboxById (s : State) (c id : Nat) : Option Nat :=
  if scratch (coreAt s c).part = 0 then none
  else firstBelow 16 (fun i => (mbox s c i).valid && (mbox s c i).id == id)

/-- Reservations accepted for an entry whose pushes have not come (R268). -/
def mboxResvs (s : State) (c i : Nat) : Nat := ((coreAt s c).resvs.filter (·.entry == i)).length

/-- Free slots of a mailbox; reservations count as taken, and so do the slots of entries that may return (R82, R268). -/
def mboxFree (s : State) (c i : Nat) : Nat := (mbox s c i).slots - (mbox s c i).count - mboxResvs s c i - heldPops s c 2 i

/-- An entry appended to a mailbox; slot k lies at BASE + 16k. -/
def mboxAppend (s : State) (c i : Nat) (e : W128) : State :=
  let m := mbox s c i
  let k := (m.head + m.count) % (max m.slots 1)
  let s := writeBytes s (scratchLoc c (m.base + 16 * k)) 16 e.toNat
  setMbox s c i { m with count := m.count + 1 }

/-- The head of a mailbox. -/
def mboxFront (s : State) (c i : Nat) : W128 :=
  BitVec.ofNat 128 (readBytes s (scratchLoc c ((mbox s c i).base + 16 * (mbox s c i).head)) 16)

/-- A mailbox without its head. -/
def mboxPop (s : State) (c i : Nat) : State :=
  let m := mbox s c i
  setMbox s c i { m with head := (m.head + 1) % (max m.slots 1), count := m.count - 1 }

/-- A mailbox with an entry back at its head. -/
def mboxUnpop (s : State) (c i : Nat) (e : W128) : State :=
  let m := mbox s c i
  let h := (m.head + (m.slots - 1)) % (max m.slots 1)
  if m.valid then setMbox (writeBytes s (scratchLoc c (m.base + 16 * h)) 16 e.toNat) c i { m with head := h, count := m.count + 1 } else s

/-- The location of the slot that the next entry of a mailbox takes. -/
def mboxNext (s : State) (c i : Nat) : Nat :=
  let m := mbox s c i
  scratchLoc c (m.base + 16 * ((m.head + m.count) % (max m.slots 1)))

/-- A line of a core's queue area is copied now, and what writes the queue area waits (R262, R347). -/
def areaHeld (s : State) (c : Nat) : Bool :=
  let k := coreAt s c
  scratch k.part != 0 && (List.range 20).any (fun b =>
    let u := poolBank k b
    copying u && u.logical == some (regf k.part + scratch k.part - 1) && decide (112 ≤ u.pointer))

/-! ## Bindings (R263) -/

/-- The fields of a binding word. -/
def bKind (w : W64) : Nat := bits w 60 4
def bEntry (w : W64) : Nat := bits w 56 4
def bPrio (w : W64) : Nat := bits w 54 2
def bExcl (w : W64) : Bool := bits w 47 1 == 1 || bKind w == 4
def bCore (w : W64) : Nat := bits w 16 13
def bArg (w : W64) : Nat := bits w 0 16

/-- A port of a core. -/
def portAt (s : State) (c p : Nat) : Port := tget {} (coreAt s c).ports p

/-- A port of a core changed. -/
def modPort (s : State) (c p : Nat) (f : Port → Port) : State :=
  modCore s c (fun k => { k with ports := tput k.ports p (f (tget {} k.ports p)) })

/-- The core a NEIGHBOUR push goes to: i + 1 for DIR 0, i - 1 for DIR 1, modulo 32 in the cluster (R261, R263). -/
def nbTarget (c : Nat) (dir : Nat) : Nat :=
  clusterOf c * 32 + (if dir = 0 then (c % 32 + 1) % 32 else (c % 32 + 31) % 32)

/-- The mailboxes of an MBRECV set, in the order a pop tries them: the highest PRIO, then ascending from the entry after
the one last popped (R270). -/
def mbChoice (s : State) (c : Nat) (set last : Nat) : Option Nat :=
  let order := (List.range 16).map (fun i => (last + 1 + i) % 16)
  let live := order.filter (fun i => set / 2 ^ i % 2 = 1 && (mbox s c i).valid && decide (0 < (mbox s c i).count))
  let best := live.foldl (fun b i => max b (mbox s c i).prio) 0
  live.find? (fun i => (mbox s c i).prio == best)

/-- The entry a pop through a port would take (R267, R270). -/
def portFront (s : State) (c p : Nat) : Option W128 :=
  let b := portAt s c p
  match bKind b.word with
  | 1 => if areaHeld s c then none else nbFront s c (bArg b.word % 2 == 0)
  | 2 => if areaHeld s c then none else (mbChoice s c (bArg b.word) b.last).map (mboxFront s c)
  | 5 => (cluAt s (clusterOf c)).arr.resq.head?
  | _ => none

/-- The entry of a port's queue popped (R267, R270). -/
def portPop (s : State) (c p : Nat) : State :=
  let b := portAt s c p
  match bKind b.word with
  | 1 => nbPop s c (bArg b.word % 2 == 0)
  | 2 =>
    match mbChoice s c (bArg b.word) b.last with
    | some i => modPort (mboxPop s c i) c p (fun b => { b with last := i })
    | none => s
  | 5 => modArr (carry s (.clu (clusterOf c)) (.core c)) (clusterOf c) (fun a => { a with resq := a.resq.drop 1 })
  | _ => s

/-- The entry that a pop through a port takes, with the queue it stands in (R267, R270). -/
def popSource (s : State) (c p : Nat) : Option Popped :=
  let b := portAt s c p
  (portFront s c p).map (fun e => ⟨p, bKind b.word,
    match bKind b.word with
    | 1 => if bArg b.word % 2 = 0 then 1 else 0
    | 2 => (mbChoice s c (bArg b.word) b.last).getD 0
    | _ => 0, e, b.last⟩)

/-- The head of the queue of an entry leaves it. -/
def takeEntry (s : State) (c : Nat) (q : Popped) : State :=
  match q.kind with
  | 1 => nbPop s c (q.idx == 1)
  | 2 => modPort (mboxPop s c q.idx) c q.port (fun b => { b with last := q.idx })
  | 5 => modArr (carry s (.clu (clusterOf c)) (.core c)) (clusterOf c) (fun a => { a with resq := a.resq.drop 1 })
  | _ => s

/-- An entry returns to the head of its queue (R82). -/
def returnEntry (s : State) (c : Nat) (q : Popped) : State :=
  match q.kind with
  | 1 => nbUnpop s c (q.idx == 1) q.entry
  | 2 => modPort (mboxUnpop s c q.idx q.entry) c q.port (fun b => { b with last := if b.last = q.idx then q.last else b.last })
  | 5 => modArr s (clusterOf c) (fun a => { a with resq := q.entry :: a.resq })
  | _ => s

/-- The entries that a bundle in a wait of its effect has popped stand at the heads of their queues again, since it has no effect (R82). -/
def unpop (s : State) (c t : Nat) : State :=
  match (thrAt s c t).keep with
  | some k =>
    k.back.reverse.foldl (fun s q => returnEntry s c q) (modThr s c t (fun th => { th with keep := some { k with popped := false, back := [] } }))
  | none => s

/-- The slot whose reservations serve a thread's pushes: the leading thread's in a twin (R259, R268). -/
def resvSlot (s : State) (c t : Nat) : Nat := if isTrail (thrAt s c t) then t - 1 else t

/-- Whether a push through a port would be accepted; an MBSEND push needs the thread's reservation (R267, R268). -/
def portRoom (s : State) (c t p : Nat) : Bool :=
  let b := portAt s c p
  match bKind b.word with
  | 1 => decide (nbLoad s (nbTarget c (bArg b.word % 2)) (bArg b.word % 2 == 1) < 8)
  | 3 => (thrAt s c (resvSlot s c t)).resv.any (fun q => q.1 == p)
  | 4 =>
    let a := (cluAt s (clusterOf c)).arr
    decide (a.cmdq.length * 2 + a.half.length < 16)
  | _ => false

/-! ## Waking -/

/-- A port's queue can serve a waiter: aux 0 waits to pop, 1 to push. -/
def portReady (s : State) (c t p aux : Nat) : Bool :=
  if aux = 0 then (portFront s c p).isSome else portRoom s c t p

/-- Wake, on each port of a core, the thread that has waited longest and can now go on (R267). waitOrd lists the waiters
in the order they parked. -/
def wakePorts (s : State) (c : Nat) : State :=
  (List.range 8).foldl (fun s key =>
    match (coreAt s c).waitOrd.find? (fun q => q.1 == key) with
    | none => s
    | some (_, t) =>
      if portReady s c t (key / 2) (key % 2) then
        wakeThr (modCore s c (fun k => { k with waitOrd := k.waitOrd.filter (fun q => !(q.1 == key && q.2 == t)) })) c t
      else s) s

/-- A thread waits on no port any more. -/
def leavePorts (s : State) (c t : Nat) : State :=
  modCore s c (fun k => { k with waitOrd := k.waitOrd.filter (fun q => q.2 != t) })

/-- Park a thread on a port: aux 0 to pop, 1 to push (R242, R267). -/
def parkPort (s : State) (c t p aux : Nat) : State :=
  let s := modThr (leavePorts s c t) c t (fun th => { th with probed := [] })
  let s := modCore s c (fun k => { k with waitOrd := k.waitOrd ++ [(p * 2 + aux, t)] })
  parkThr s c t .port (BitVec.ofNat 64 p) (BitVec.ofNat 64 aux)

/-- An arrival in a queue of a core: each port that pops it latches $events.QUEUE in its owner, and waiters wake
(R267). -/
def queueArrival (s : State) (c : Nat) (pops : W64 → Bool) : State :=
  let s := (List.range 4).foldl (fun s p =>
    let b := portAt s c p
    if pops b.word then raiseEvent s c b.owner evQueue else s) s
  wakePorts s c

/-- The bindings that pop the up or down queue. -/
def popsNb (up : Bool) (w : W64) : Bool := bKind w == 1 && (bArg w % 2 == 0) == up

/-- The bindings that pop mailbox i. -/
def popsMb (i : Nat) (w : W64) : Bool := bKind w == 2 && bArg w / 2 ^ i % 2 == 1

/-- The bindings that pop the array's result queue. -/
def popsRes (w : W64) : Bool := bKind w == 5

/-- Entries whose reservations stand first in a mailbox enter it, in the order of acceptance (R268), unless a line that they write is copied
now (R347). The fuel bounds the reservations there are. -/
def mboxSettle : Nat → State → Nat → Nat → State
  | 0, s, _, _ => s
  | n + 1, s, c, i =>
    match (coreAt s c).resvs.find? (fun r => r.entry == i) with
    | none => s
    | some r => match r.got with
      | none => s
      | some e =>
        if areaHeld s c || lineHeld s (mboxNext s c i) then s
        else
        let s := modCore s c (fun k => { k with resvs := k.resvs.erase r })
        mboxSettle n (queueArrival (mboxAppend s c i e) c (popsMb i)) c i

/-- A mailbox takes what can enter it. -/
def mboxFlush (s : State) (c i : Nat) : State := mboxSettle (coreAt s c).resvs.length s c i

/-- Every mailbox of a core for which an entry has come takes what can enter it: a line of its queue area, or of a mailbox, has been copied
(R347). -/
def flushAll (s : State) (c : Nat) : State :=
  ((coreAt s c).resvs.filterMap (fun r => r.got.map (fun _ => r.entry))).eraseDups.foldl (fun s i => mboxFlush s c i) s

/-- An entry that hardware pushes into a mailbox, behind the reservations accepted before it (R269) (log 34, DEDUCED). -/
def mboxPush (s : State) (c i : Nat) (e : W128) : State :=
  mboxFlush (modCore s c (fun k => { k with resvs := k.resvs ++ [⟨i, c, 0, 0, 0, some e⟩] })) c i

/-- The reservation of a thread through a port whose push has not come. -/
def isResvOf (c t uid p : Nat) (r : MbResv) : Bool := r.core == c && r.slot == t && r.uid == uid && r.port == p && r.got.isNone

/-- An arrival in the result queue of a cluster's array, seen by every core of the cluster. -/
def resultPush (s : State) (k : Nat) (e : W128) : State :=
  (coresOfCluster k).foldl (fun s c => queueArrival s c popsRes) (modArr s k (fun a => { a with resq := a.resq ++ [e] }))

/-- An entry pushed through a port as a bundle completes (R92, R267, R268). The array's command queue takes two halves
to a command; the lease count falls with the first (R189, R193, R194). A twin's push has the leading thread's reservation and counts as its own. The entry carries its sender's stamp to the unit that holds the queue
(R29). -/
def portPush (s : State) (c t p : Nat) (e : W128) : State :=
  let b := portAt s c p
  match bKind b.word with
  | 1 =>
    let d := nbTarget c (bArg b.word % 2)
    let up := bArg b.word % 2 == 1
    let (m, s) := stampCore s c
    modCore s d (fun k => { k with nb := k.nb ++ [⟨up, e, k.time + 8, m⟩] })
  | 3 =>
    let t := resvSlot s c t
    match (thrAt s c t).resv.find? (fun q => q.1 == p) with
    | none => s
    | some (_, i) =>
      let d := bCore b.word
      let uid := (thrAt s c t).uid
      let s := modThr (carry s (.core c) (.core d)) c t (fun th => { th with resv := th.resv.filter (fun q => q.1 != p) })
      let s := modCore s d (fun k => { k with resvs := k.resvs.map (fun r => if isResvOf c t uid p r then { r with got := some e } else r) })
      mboxFlush s d i
  | 4 =>
    let k := clusterOf c
    let s := carry s (.core c) (.clu k)
    let t := resvSlot s c t
    let th := thrAt s c t
    let a := (cluAt s k).arr
    match a.half.find? (fun h => h.1 == th.uid) with
    | none => modArr s k (fun a => { a with half := a.half ++ [(th.uid, th.ctx, e)], cmds := a.cmds - 1 })
    | some (_, _, lo) =>
      let (n, s) := withFresh s
      let cmd : ArrayCmd := { id := n, bits := e ++ lo, core := c, slot := t, uid := th.uid, ctx := th.ctx }
      modArr s k (fun a => { a with half := a.half.filter (fun h => h.1 != th.uid), cmdq := a.cmdq ++ [cmd] })
  | _ => s

/-- A thread's accepted reservation through a port is cancelled (R268). -/
def cancelOne (s : State) (c t : Nat) (q : Nat × Nat) : State :=
  let uid := (thrAt s c t).uid
  let d := bCore (portAt s c q.1).word
  let s := modThr s c t (fun th => { th with resv := th.resv.filter (fun r => r.1 != q.1) })
  mboxFlush (modCore s d (fun k => { k with resvs := k.resvs.filter (fun r => !isResvOf c t uid q.1 r) })) d q.2

/-- A thread's accepted reservations are cancelled (R268). -/
def cancelResv (s : State) (c t : Nat) : State := (thrAt s c t).resv.foldl (fun s q => cancelOne s c t q) s

/-- The first of some ports whose queue has no entry left for it once the ports before it have popped theirs (R81, R267). -/
def firstDry (s : State) (c : Nat) : List Nat → Option Nat
  | [] => none
  | p :: r => if (portFront s c p).isNone then some p else firstDry (portPop s c p) c r

/-- The entries that some ports pop, one for each, in the order of the ports (R81). -/
def popAll (s : State) (c : Nat) : List Nat → List (Nat × W128)
  | [] => []
  | p :: r => (p, (portFront s c p).getD 0) :: popAll (portPop s c p) c r

/-- The queues in which the entries that some ports pop stand (R81, R267, R270). -/
def popSources (s : State) (c : Nat) : List Nat → List Popped
  | [] => []
  | p :: r => (popSource s c p).toList ++ popSources (portPop s c p) c r

/-- The first of some ports whose queue has no room left for it once the ports before it have pushed theirs (R267, R268). -/
def firstFull (s : State) (c t : Nat) : List Nat → Option Nat
  | [] => none
  | p :: r => if portRoom s c t p then firstFull (portPush s c t p 0) c t r else some p

/-- Every thread parked on a port reissues (R265). -/
def wakePort (s : State) (c p : Nat) : State :=
  slots.foldl (fun s u =>
    let th := thrAt s c u
    match th.park with
    | some q => if parkedFor th .port && q.obj.toNat == p && decide (q.aux.toNat < 16) then wakeThr (leavePorts s c u) c u else s
    | none => s) s

/-! ## Status (R272) -/

/-- STATE of a queue by its count and capacity: 1 EMPTY, 2 PARTIAL, 3 FULL (R271). -/
def fillState (n cap : Nat) : Nat := if n = 0 then 1 else if cap ≤ n then 3 else 2

/-- The counts of a binding: capacity of the queue that decides STATE, entries of the queue pushed into, of the queue popped. The queues of a
core that is not live for the context are unreachable and count as empty (R302). -/
def portCounts (s : State) (c : Nat) (b : Port) : Nat × Nat × Nat :=
  match bKind b.word with
  | 1 =>
    let dir := bArg b.word % 2
    (8, if liveFor s (nbTarget c dir) (coreAt s c).ctx then nbLoad s (nbTarget c dir) (dir == 1) else 0, nbCount s c (dir == 0))
  | 2 =>
    let l := (List.range 16).filter (fun i => bArg b.word / 2 ^ i % 2 == 1 && (mbox s c i).valid)
    (l.foldl (fun n i => n + (mbox s c i).slots) 0, 0, l.foldl (fun n i => n + (mbox s c i).count) 0)
  | 3 =>
    let d := bCore b.word
    match (if liveFor s d (coreAt s c).ctx then mboxById s d (bArg b.word) else none) with
    | some i => ((mbox s d i).slots, (mbox s d i).count, 0)
    | none => (0, 0, 0)
  | 4 =>
    let a := (cluAt s (clusterOf c)).arr
    (16, a.cmdq.length * 2 + a.half.length, 0)
  | 5 => (8, 0, (cluAt s (clusterOf c)).arr.resq.length)
  | _ => (0, 0, 0)

/-- The status word of QSTAT (R272). CAP of a set whose mailboxes together have more than 4,095 slots is the sum modulo 4,096 (log 87,
DESIGN CHOICE). -/
def qstatWord (s : State) (c p : Nat) : W64 :=
  let b := portAt s c p
  let k := bKind b.word
  if k = 0 then 0
  else
    let (cap, out, in_) := portCounts s c b
    let n := if k = 3 ∨ k = 4 then out else in_
    let st := if b.faulted then 4 else fillState n cap
    BitVec.ofNat 64 (k * 2 ^ 60 + st * 2 ^ 57 + b.owner * 2 ^ 48 + (if bExcl b.word then 2 ^ 47 else 0)
      + cap % 4096 * 2 ^ 32 + out % 65536 * 65536 + in_ % 65536)

/-! ## Supervisor messages (R248, R269) -/

/-- A core's scratchpad is mapped: its group is claimed and has not exited (R68). -/
def coreLive (s : State) (c : Nat) : Bool := liveFor s c (coreAt s c).ctx

/-- A supervisor message enters its mailbox when two slots are free, both entries together; otherwise, at a core that is not live, and while
the clock of the core's cluster is stopped (R420), it is held. -/
def supDeliver (s : State) (m : SupMsg) : Option State :=
  match (if coreLive s m.core && !(cluAt s (clusterOf m.core)).stopped then mboxById s m.core 0 else none) with
  | none => none
  | some i =>
    if 2 ≤ mboxFree s m.core i then
      let w := fun n => (m.words[n]?.getD 0).setWidth 128
      let e0 : W128 := w 0 ||| (w 1 <<< 64)
      let e1 : W128 := w 2 ||| (w 3 <<< 64)
      let s := receiveCore s m.core (m.words[0]?.getD 0)
      some (mboxPush (mboxPush s m.core i e0) m.core i e1)
    else none

/-- Send a supervisor message: delivered at once or held by its sender, which retries (R248). -/
def supSend (s : State) (m : SupMsg) : State :=
  match supDeliver s m with
  | some s => s
  | none => { s with sups := s.sups ++ [m] }

/-- The thread word of a supervisor message (R248). -/
def threadWord (level : Nat) (parked : Bool) (cause thread core ctx : Nat) : W64 :=
  BitVec.ofNat 64 (level * 2 ^ 38 + (if parked then 2 ^ 37 else 0) + cause * 2 ^ 29 + thread * 2 ^ 25 + core * 2 ^ 12 + ctx)

/-- A message about a thread, stamped by its core (R248). -/
def supThread (s : State) (c t cause : Nat) (parked : Bool) (pc operand : W64) : State :=
  let th := thrAt s c t
  let (m, s) := stampCore s c
  supSend s { ctx := th.ctx, core := (ctxAt s th.ctx).supcore, words := [m, threadWord th.tl parked cause t c th.ctx, pc, operand], record := [] }

/-- A message about a command of a thread found by an engine of a cluster (R183, R195, R205): PARKED 0, LEVEL the level at which the
thread stands. -/
def supEngine (s : State) (k ctx core slot cause : Nat) (pc operand : W64) : State :=
  let (m, s) := stampClu s k
  let th := thrAt s core slot
  supSend s { ctx := ctx, core := (ctxAt s ctx).supcore
              words := [m, threadWord (if th.ctx = ctx then th.tl else 0) false cause slot core ctx, pc, operand], record := [] }

/-- A packet enters the send window of a port that is UP and has room (R379); psn is its place among the messages sent, those of the ROD
sessions counted by themselves. -/
def enterWindow (s : State) (p : Nat) (rod : Bool) (psn : Nat) : State :=
  if (ueAt s p).st = LinkState.up ∧ (ueAt s p).window.length < 256 then
    modUe s p (fun u => { u with window := u.window ++ [⟨u.seq, psn, false, rod, Config.packetCheck rod psn⟩], seq := u.seq + 1 })
  else s

/-- A YCP message of the device, with the stamp of the link agent of its session's port (R29, R385). -/
def hostSend (s : State) (m : HostMsg) : State :=
  let psn := s.hostOut.length
  let (w, s) := stampClu s (uePortCluster m.port)
  enterWindow { s with hostOut := s.hostOut ++ [{ m with stamp := w }] } m.port true psn

/-- CONTEXT_KILL and PEER_FAILED also reach the host as YCP NOTIFY, operation 0x0C, on the first session admitted with host role (R248,
R385; log 79, DESIGN CHOICE). -/
def notify (s : State) (ctx : Nat) (words : List W64) : State :=
  hostSend s { op := 0x0C, status := 0, reqid := 0, ctx := ctx, body := words, port := s.hosts.headD 0 }

end Sys2Proof.Machine
end

