-- ==== Sys2Proof/Machine/Translate.lean ====
section
/-!
DEFINITION. Translation of an address to a place (R58 to R77, R323 to R333): the static check of a prefix, the page-table walk
and its caches, the mapping kinds, the cluster mask, and the backing of physical names.
-/

namespace Sys2Proof.Machine

/-! ## Trap causes (R243) -/

def cILLEGAL : Nat := 0x01
def cPRIV : Nat := 0x02
def cUNSETTLED : Nat := 0x03
def cMISALIGNED : Nat := 0x04
def cSTRADDLE : Nat := 0x05
def cFOREIGN : Nat := 0x06
def cPEERGONE : Nat := 0x07
def cVPINVALID : Nat := 0x08
def cTRANSLATION : Nat := 0x09
def cPROTECTION : Nat := 0x0A
def cGROUPMASK : Nat := 0x0B
def cREPLICA : Nat := 0x0C
def cDIV0 : Nat := 0x0D
def cFETIMEOUT : Nat := 0x0E
def cLINKATOMIC : Nat := 0x0F
def cNEVER : Nat := 0x10
def cOVERCAP : Nat := 0x11
def cLEASE : Nat := 0x12
def cSOFTWARE : Nat := 0x13
def cREBOUND : Nat := 0x14

/-! ## The physical space -/

/-- A field of a number. -/
def nbits (w lo n : Nat) : Nat := w / 2 ^ lo % 2 ^ n

/-- How a physical name answers: at once; after a wait (moving, R336; waking, R355, R415), with the cluster in VIGIL that the request has
reached, if any; or not at all (R323). -/
inductive Answer where
  | now | wait (k : Option Nat) | unbacked
  deriving DecidableEq, Repr

/-- A swap of the name's group names it (R336). -/
def isMoving (s : State) (g i : Nat) : Bool := s.swaps.any (fun w => w.group == g && (w.m == i || w.n == i))

/-- The home cluster of a physical address: of its channel, or of its CXL port (R343, R427). -/
def homeCluster (pa : Nat) : Nat :=
  if pa < hbmEnd then clusterOnDie (pa / dieBytes) (channelOf (pa % dieBytes) % 40)
  else cxlPortCluster ((pa - cxlBase) / 65536 / cxlWindow)

/-- An access that reaches a cluster in VIGIL, or leaving it, is answered waking (R355). -/
def isWaking (s : State) (pa : Nat) : Bool :=
  let k := homeCluster pa
  (cluAt s k).vigil != 0 && !s.gated.getLsbD (dieOf k)

/-- The cluster in VIGIL that a request for a name reaches (R355). -/
def wakes (s : State) (pa : Nat) : Option Nat := if isWaking s pa then some (homeCluster pa) else none

/-- A request has reached a cluster in VIGIL: its exit starts (R355). -/
def startExit (s : State) (k : Option Nat) : State :=
  match k with
  | some k => if (cluAt s k).vigil = 1 then modClu s k (fun c => { c with vigil := 2 }) else s
  | none => s

/-- CXLRDY of a port: it is UP and its names are wiped, or it has no expander (R416). -/
def cxlReady (s : State) (p : Nat) : Bool :=
  s.cxlrdy.getLsbD p && (((cxlAt s p).st == .up && (cxlAt s p).wiped) || (cxlAt s p).bytes == 0)

/-- The answer of the storage behind a physical address (log 98, DEDUCED; R323, R336, R353, R355, R415, R427). -/
def answerOf (s : State) (pa : Nat) : Answer :=
  let (g, i) := congruence pa
  let d := groupDie g
  let ready := if slotOfName (tget remapIdentity s.remap g) i = 0 then s.dierdy.getLsbD d || s.gated.getLsbD d
    else cxlReady s d
  if pa < hbmEnd then
    if !(dieAt s d).domain then .unbacked
    else if isMoving s g i || !ready || isWaking s pa then .wait (wakes s pa)
    else .now
  else if cxlBase ≤ pa ∧ pa < cxlEnd then
    let p := (pa - cxlBase) / 65536 / cxlWindow
    if !cxlReady s p then .wait none
    else if min ((cxlAt s p).bytes / 65536) cxlWindow ≤ (pa - cxlBase) / 65536 % cxlWindow then .unbacked
    else if isMoving s g i || !ready || isWaking s pa then .wait (wakes s pa)
    else .now
  else .unbacked

/-! ## Addresses -/

/-- The window of an address (R58). -/
def winOf (a : W64) : Nat := bits a 44 4

/-- VLEVEL and VINDEX (R58). -/
def vLevel (a : W64) : Nat := bits a 61 3
def vIndex (a : W64) : Nat := bits a 48 13

/-- STATE of a route-map entry: 0 ABSENT, 1 UP, 2 FAILED, 3 PROBING (R376). -/
def routeState (s : State) (n : Nat) : Nat := bits (tget 0 s.routes n) 62 2

/-- The static check of a prefix (R59). device is the DEVICE of the requester's seat. -/
def prefixOk (s : State) (device : Nat) (a : W64) : Bool :=
  let n := vIndex a
  match vLevel a with
  | 0 => n == 0
  | 1 => decide (n < 5120)
  | 2 => decide (n < 160)
  | 3 => decide (n < 4)
  | 4 => decide (n < 512) && (n == device || routeState s n != 0)
  | _ => false

/-- The region of an address (R69): prefix, window class, slot or minting core. -/
def region (a : W64) : Nat × Nat × Nat :=
  let p := bits a 48 16
  let w := winOf a
  if w ≤ 0xB then (p, 0, 0)
  else if w = 0xC then (p, 1, 0)
  else if w = 0xD then (p, 2, bits a 20 24)
  else if w = 0xE then (p, 3, bits a 31 13)
  else (p, 4, 0)

/-- Bytes from a to the last of n straddle two regions (R69). -/
def straddles (a : W64) (n : Nat) : Bool := region (a + BitVec.ofNat 64 (n - 1)) != region a

/-- WinCode of R77. -/
def winCode (s : State) (device : Nat) (a : W64) : Nat :=
  if !prefixOk s device a || (decide (0xD ≤ winOf a) && bits a 48 16 != 0) || winOf a == 0xC then 4
  else if winOf a ≤ 0xB then 0
  else if winOf a = 0xD then 1
  else if winOf a = 0xE then 2
  else 3

/-! ## Page tables -/

/-- Who translates: context, private identity, seat, executing core (R70), and for a copy its cluster and channel, whose cache
it uses (R332). -/
structure Who where
  ctx    : Nat
  privid : Nat
  seat   : W64
  core   : Nat
  chan   : Option (Nat × Nat) := none
  deriving DecidableEq, Repr

/-- What an access needs (R327); rights are only checked by an access that needs some. -/
structure Rights where
  r : Bool := false
  w : Bool := false
  x : Bool := false
  deriving DecidableEq, Repr

/-- A valid entry is malformed for its level (R326). -/
def entryBad (lvl word comp : Nat) : Bool :=
  let leaf := nbits word 1 1 == 1
  let addr := nbits word 6 37 * 64
  let kind := nbits comp 0 2
  let level := nbits comp 8 2
  nbits word 48 16 != 0 || nbits word 43 3 != 0 || nbits comp 48 8 != 0 || nbits comp 10 30 != 0 || nbits comp 2 6 != 0
    || nbits word 46 2 == 3 || kind == 3 || (leaf && decide (lvl ≤ 2)) || (!leaf && lvl == 4)
    || (!leaf && (comp != 0 || nbits word 2 4 != 0 || addr % (if lvl = 3 then 512 else 8192) != 0))
    || (leaf && kind == 0 && addr % (if lvl = 3 then 2 ^ 21 else 2 ^ 16) != 0)
    || (leaf && (if kind = 1 then level == 0 else level != 0))

/-- The outcome of a walk: a leaf with its entry's address and the bits of its page; or why there is none. -/
inductive Walk where
  | leaf (entry word comp bits : Nat)
  | absent | bad | wait (k : Option Nat) | unbacked
  deriving DecidableEq, Repr

/-- The index of a level (R324). -/
def walkIdx (va lvl : Nat) : Nat := if lvl = 4 then nbits va 16 5 else nbits va (48 - 9 * lvl) 9

/-- The walk from a table at one level on (R324). -/
def walkFrom (s : State) (va : Nat) : Nat → Nat → Walk
  | 0, _ => .absent
  | n + 1, t =>
    let lvl := 4 - n
    let e := t + 16 * walkIdx va lvl
    match answerOf s e with
    | .unbacked => .unbacked
    | .wait k => .wait k
    | .now =>
      let word := readBytes s e 8
      let comp := readBytes s (e + 8) 8
      if nbits word 0 1 = 0 ∨ nbits word 46 2 = 2 then .absent
      else if entryBad lvl word comp then .bad
      else if nbits word 1 1 = 1 then .leaf e word comp (if lvl = 3 then 21 else 16)
      else walkFrom s va n (nbits word 6 37 * 64)

/-- The leaf of a global address (R324). -/
def leafGlobal (s : State) (ctx va : Nat) : Walk := walkFrom s va 4 (ctxAt s ctx).groot.toNat

/-- The leaf of a thread-private offset (R328). -/
def leafPrivate (s : State) (ctx id va : Nat) : Walk :=
  let e := (ctxAt s ctx).proot.toNat + 8 * id
  match answerOf s e with
  | .unbacked => .unbacked
  | .wait k => .wait k
  | .now =>
    let root := readBytes s e 8
    if root = 0 then .absent
    else match walkFrom s va 4 (nbits root 13 30 * 8192) with
      | .leaf e w c b => if nbits c 0 2 != 0 || nbits c 8 2 != 0 || nbits c 40 8 != 0 then .bad else .leaf e w c b
      | r => r

/-! ## Translation caches (R332, R333) -/

/-- The cache a requester uses. -/
def tlbOf (s : State) (w : Who) : List TlbEntry :=
  match w.chan with
  | none => (coreAt s w.core).tlb
  | some (k, ch) => tget [] (cluAt s k).tlbs ch

/-- The cache a requester uses, replaced. -/
def setTlb (s : State) (w : Who) (l : List TlbEntry) : State :=
  match w.chan with
  | none => modCore s w.core (fun k => { k with tlb := l })
  | some (k, ch) => modClu s k (fun c => { c with tlbs := tput c.tlbs ch l })

/-- A cached leaf serves an address. -/
def covers (k : LeafKey) (ctx : Nat) (priv : Option Nat) (va : Nat) : Bool :=
  k.ctx == ctx && k.priv == priv && k.va == va / 2 ^ k.bits * 2 ^ k.bits

/-- One more access by a cached leaf: the count rises once in 64 and stops at 255 (R333). -/
def TlbEntry.use (e : TlbEntry) : TlbEntry :=
  if e.pre = 63 then { e with pre := 0, count := min 255 (e.count + 1) } else { e with pre := e.pre + 1 }

/-- A count added to HOT of an entry's companion word (R333). -/
def addHot (s : State) (entry count : Nat) : State :=
  let h := (readByte s (entry + 15)).toNat
  if count = 0 then s else writeByte s (entry + 15) (BitVec.ofNat 8 (min 255 (h + count)))

/-- The cached leaves of one cache split by a set: those kept, and the state after the others' counts are written back. -/
def dropFrom (s : State) (l : List TlbEntry) (inSet : LeafKey → Bool) : List TlbEntry × State :=
  (l.filter (fun e => !inSet e.key), (l.filter (fun e => inSet e.key)).foldl (fun s e => addHot s e.entry e.count) s)

/-- Drop a set of leaves from every cache of the device (R332, R333, R340). -/
def dropLeaves (s : State) (inSet : LeafKey → Bool) : State :=
  let s := s.cores.foldl (fun s p =>
    let (l, s) := dropFrom s p.2.tlb inSet
    if p.2.tlb.length = l.length then s else modCore s p.1 (fun k => { k with tlb := l })) s
  s.clusters.foldl (fun s p => p.2.tlbs.foldl (fun s q =>
    let (l, s) := dropFrom s q.2 inSet
    if q.2.length = l.length then s else modClu s p.1 (fun c => { c with tlbs := tput c.tlbs q.1 l })) s) s

/-- The leaf of an address through the requester's cache; a walk fills the cache (R332) (log 5, DEDUCED). -/
def lookup (s : State) (w : Who) (priv : Option Nat) (va : Nat) : Walk × State :=
  let l := tlbOf s w
  match l.find? (fun e => covers e.key w.ctx priv va) with
  | some e =>
    let l := l.map (fun f => if f.key = e.key then f.use else f)
    (.leaf e.entry e.word.toNat e.comp.toNat e.key.bits, setTlb s w l)
  | none =>
    let r := match priv with
      | none => leafGlobal s w.ctx va
      | some i => leafPrivate s w.ctx i va
    match r with
    | .leaf e wd c b =>
      let f : TlbEntry := { key := ⟨w.ctx, priv, va / 2 ^ b * 2 ^ b, b⟩, entry := e, word := BitVec.ofNat 64 wd, comp := BitVec.ofNat 64 c }
      (r, setTlb s w (l ++ [f.use]))
    | _ => (r, s)

/-! ## Masks and instances -/

/-- The mask of an index: its 160 bits, or why it cannot be had (R331). -/
def maskOf (s : State) (ctx ix : Nat) : Except Answer (Option Nat) :=
  if ix = 0 then .ok (some (2 ^ 160 - 1))
  else
    let e := (ctxAt s ctx).groot.toNat + 16 * 0x180
    match answerOf s e with
    | .now =>
      let w := readBytes s e 8
      if nbits w 0 1 = 0 then .ok (some 0)
      else
        let m := nbits w 13 30 * 8192 + 32 * ix
        match answerOf s m with
        | .now =>
          let v := readBytes s m 32
          if v / 2 ^ 160 != 0 then .ok none else .ok (some v)
        | r => .error r
    | r => .error r

/-- A cluster is in a mask. -/
def inMask (m k : Nat) : Bool := m / 2 ^ k % 2 == 1

/-- The result of a translation: a place with the leaf it used, a trap (R70), a wait (R337), or a walk that meets unbacked
memory. -/
inductive Xl where
  | reaches (p : Place) (leafs : List LeafKey)
  | trap (cause : Nat)
  | wait (k : Option Nat)
  | unbacked
  deriving DecidableEq, Repr

/-- A frame and offset reached under a leaf: the last checks of R70, R330 and R337. -/
def reach (s : State) (key : LeafKey) (priv : Bool) (rt : Rights) (word frame off : Nat) : Xl :=
  let ok := (!rt.r || nbits word 2 1 == 1) && (!rt.w || nbits word 3 1 == 1) && (!rt.x || nbits word 4 1 == 1)
    && (nbits word 5 1 == 0 || priv)
  if !ok then .trap cPROTECTION
  else match answerOf s (frame + off) with
    | .unbacked => .trap cPROTECTION
    | .wait k => .wait k
    | .now => .reaches (.here (frame + off)) [key]

/-- An instance entry read for a page (R329). -/
def throughInstance (s : State) (key : LeafKey) (priv : Bool) (rt : Rights) (word g bitsN off : Nat) : Xl :=
  let e := nbits word 6 37 * 64 + 8 * g
  match answerOf s e with
  | .unbacked => .unbacked
  | .wait k => .wait k
  | .now =>
    let v := readBytes s e 8
    if nbits v 0 1 = 0 then .trap cTRANSLATION
    else if nbits v 43 21 != 0 || nbits v 1 15 != 0 || nbits v 16 27 * 65536 % 2 ^ bitsN != 0 then .trap cPROTECTION
    else reach s key priv rt word (nbits v 16 27 * 65536) off

/-- The group-mask check of a page (R70, R331), then what follows it. -/
def withMask (s : State) (w : Who) (comp : Nat) (k : Nat → Xl) : Xl :=
  match maskOf s w.ctx (nbits comp 40 8) with
  | .error .unbacked => .unbacked
  | .error (.wait k) => .wait k
  | .error .now => .wait none
  | .ok none => .trap cPROTECTION
  | .ok (some m) => if inMask m (seatCluster w.seat) then k m else .trap cGROUPMASK

/-- The global window under a leaf (R70). -/
def throughLeaf (s : State) (w : Who) (rt : Rights) (a : W64) (key : LeafKey) (word comp bitsN : Nat) : Xl :=
  let v := vLevel a
  let n := vIndex a
  let off := bits a 0 48 % 2 ^ bitsN
  let pr := (ctxAt s w.ctx).priv
  if nbits word 46 2 = 1 then .wait none
  else withMask s w comp (fun m =>
    match nbits comp 0 2 with
    | 0 => reach s key pr rt word (nbits word 6 37 * 64) off
    | 1 =>
      let l := nbits comp 8 2
      if l < v then .trap cVPINVALID
      else
        let g := if v = 0 then seatGroup w.seat l else up v n l
        let inM := if l = 1 then inMask m (clusterOf g) else if l = 2 then inMask m g
          else (clustersOfDie g).any (inMask m)
        if !inM then .trap cGROUPMASK else throughInstance s key pr rt word g bitsN off
    | _ =>
      if rt.w then .trap cREPLICA
      else throughInstance s key pr rt word (if v = 0 ∨ v = 4 then seatDie w.seat else up v n 3) bitsN off)

/-- An offset of a core's scratchpad (R66). -/
def scratchAt (s : State) (k o : Nat) : Xl :=
  if o < shareBytes (coreAt s k) then .reaches (.here (scratchLoc k o)) []
  else .trap cPROTECTION

/-- A cause that R70 gives at a remote device (R74): VP_INVALID, TRANSLATION, PROTECTION, GROUP_MASK, and REPLICA_STORE for a
writing access. -/
def remoteCause (writes : Bool) (c : Nat) : Bool := decide (cVPINVALID ≤ c) && decide (c ≤ cGROUPMASK) || (writes && c == cREPLICA)

/-- What a peer device finds in a request carried to it: a fault of the access, or nothing (R74; log 14, DESIGN CHOICE). -/
def atPeer (rt : Rights) (r : Xl × State) : Xl × State :=
  match r with
  | (.reaches (.peer d a) ks, s) =>
    let c := Config.peerFault s.free
    (if remoteCause rt.w c then .trap c else .reaches (.peer d a) ks, { s with free := s.free + 1 })
  | r => r

/-- Translation of an access of n bytes on this device (R70, R324 to R331). A scratchpad whose core is live for the context no more gives
PEER_GONE, through its own pointers too: a binding, a record or a copy may outlast its core's exit (R302, R305, R307). -/
def place (s : State) (w : Who) (rt : Rights) (a : W64) (n : Nat) : Xl × State :=
  let win := winOf a
  if straddles a n then (.trap cSTRADDLE, s)
  else if !prefixOk s (seatDevice w.seat) a then (.trap cVPINVALID, s)
  else if 0xD ≤ win ∧ bits a 48 16 ≠ 0 then (.trap cVPINVALID, s)
  else if win = 0xC then (.trap cTRANSLATION, s)
  else if rt.x ∧ (win = 0xD ∨ win = 0xE) then (.trap cPROTECTION, s)
  else if win = 0xF then
    let (r, s) := lookup s w (some w.privid) (bits a 0 44)
    match r with
    | .leaf _ wd _ b =>
      let va := bits a 0 44
      if nbits wd 46 2 = 1 then (.wait none, s)
      else (reach s ⟨w.ctx, some w.privid, va / 2 ^ b * 2 ^ b, b⟩ (ctxAt s w.ctx).priv rt wd (nbits wd 6 37 * 64) (va % 2 ^ b), s)
    | .absent => (.trap cTRANSLATION, s)
    | .bad => (.trap cPROTECTION, s)
    | .wait k => (.wait k, s)
    | .unbacked => (.unbacked, s)
  else if win = 0xE then
    if bits a 31 13 ≠ w.core then (.trap cFOREIGN, s)
    else if !liveFor s w.core w.ctx then (.trap cPEERGONE, s)
    else (scratchAt s w.core (bits a 0 31), s)
  else if win = 0xD then
    if bits a 25 19 ≠ 0 then (.trap cPROTECTION, s)
    else
      let k := clusterOf w.core * 32 + bits a 20 5
      if !liveFor s k w.ctx then (.trap cPEERGONE, s) else (scratchAt s k (bits a 0 20), s)
  else if vLevel a = 4 ∧ vIndex a ≠ seatDevice w.seat then
    if routeState s (vIndex a) = 2 then (.trap cPEERGONE, s) else (.reaches (.peer (vIndex a) a) [], s)
  else
    let va := bits a 0 48
    let (r, s) := lookup s w none va
    match r with
    | .leaf _ wd c b => (throughLeaf s w rt a ⟨w.ctx, none, va / 2 ^ b * 2 ^ b, b⟩ wd c b, s)
    | .absent => (.trap cTRANSLATION, s)
    | .bad => (.trap cPROTECTION, s)
    | .wait k => (.wait k, s)
    | .unbacked => (.unbacked, s)

/-- Translation of an access, and the exit of a cluster in VIGIL that it has reached (R70, R355). -/
def translate (s : State) (w : Who) (rt : Rights) (a : W64) (n : Nat) : Xl × State :=
  match place s w rt a n with
  | (.wait k, s) => (.wait k, startExit s k)
  | r => r

/-- Translation of an access that nothing checks before it is carried to a peer device (R70, R74). -/
def translateFar (s : State) (w : Who) (rt : Rights) (a : W64) (n : Nat) : Xl × State := atPeer rt (translate s w rt a n)

/-- The places of a REPLICA page's bytes, one for each die, for a broadcast copy (R73, R183); none when the address is on no
REPLICA page. -/
def replicas (s : State) (w : Who) (a : W64) : Except Xl (List Nat × List LeafKey) :=
  let va := bits a 0 48
  match (lookup s w none va).1 with
  | .leaf _ wd c b =>
    let key : LeafKey := ⟨w.ctx, none, va / 2 ^ b * 2 ^ b, b⟩
    if nbits wd 46 2 = 1 then .error (.wait none)
    else match withMask s w c (fun _ => .reaches (.here 0) []) with
      | .trap x => .error (.trap x)
      | .unbacked => .error .unbacked
      | .wait k => .error (.wait k)
      | .reaches _ _ =>
        if nbits c 0 2 ≠ 2 then .error (.trap cPROTECTION)
        else (List.range 4).foldl (fun acc d => match acc with
          | .error e => .error e
          | .ok (l, ks) =>
            match throughInstance s key (ctxAt s w.ctx).priv { w := true } wd d b (va % 2 ^ b) with
            | .reaches (.here p) _ => .ok (l ++ [p], ks)
            | r => .error r) (.ok ([], [key]))
  | .absent => .error (.trap cTRANSLATION)
  | .bad => .error (.trap cPROTECTION)
  | .wait k => .error (.wait k)
  | .unbacked => .error .unbacked

end Sys2Proof.Machine
end

