-- ==== Sys2Proof/Machine/Access.lean ====
section
/-!
DEFINITION. Outstanding accesses: the loose buffer (R161, R228), performing an access at its target (R160, R167, R170, R177),
release records and drains (R162), forcing what must be performed (R227, R228, R340), and the arrival of results (R86).
-/

namespace Sys2Proof.Machine

/-! ## The loose buffer -/

/-- Bytes of two places overlap: n from the first and m from the second. -/
def placesOverlap (n : Nat) (p : Place) (m : Nat) (q : Place) : Bool :=
  match p, q with
  | .here a, .here b => decide (a < b + m) && decide (b < a + n)
  | .peer d a, .peer e b => d == e && decide (a.toNat < b.toNat + m) && decide (b.toNat < a.toNat + n)
  | _, _ => false

/-- An entry of a loose buffer overlaps n bytes at a place. -/
def looseOverlaps (p : Place) (n : Nat) (e : LooseEntry) : Bool := placesOverlap e.size e.place n p

/-- How many bytes a place lies beyond another of the same device. -/
def placeGap : Place → Place → Nat
  | .here a, .here b => b - a
  | .peer _ a, .peer _ b => b.toNat - a.toNat
  | _, _ => 0

/-- A place some bytes further on. -/
def shiftPlace (p : Place) (n : Nat) : Place :=
  match p with
  | .here l => .here (l + n)
  | .peer d a => .peer d (a + BitVec.ofNat 64 n)

/-- One byte as the threads of a core see it: the youngest entry that covers it, else what lies there (R161). -/
def seenByte (s : State) (core : Nat) (p : Place) (there : Nat) : Nat :=
  match (coreAt s core).loose.reverse.find? (looseOverlaps p 1) with
  | some e => e.data / 256 ^ placeGap e.place p % 256
  | none => there

/-- n bytes as the threads of a core see them; there is the number of the bytes that lie there. -/
def seenBytes (s : State) (core : Nat) (p : Place) (there : Nat) : Nat → Nat
  | 0 => 0
  | n + 1 => seenByte s core p (there % 256) + 256 * seenBytes s core (shiftPlace p 1) (there / 256) n

/-- The device a message goes to, and the port when the sender names it (R366). -/
def linkTo : LinkMsg → Nat × Option Nat
  | .access d _ _ _ _ _ _ _ _ _ => (d, none)
  | .start d _ => (d, none)
  | .interest p d _ _ _ => (d, some p)
  | .tile p d _ _ _ => (d, some p)
  | .reply d p _ _ _ => (d, some p)

/-- The cluster whose link agents reach a device first. -/
def portClusterOf (s : State) (dev : Nat) : Nat :=
  uePortCluster ((firstBelow 16 (fun p => (tget 0 s.routes dev).getLsbD (32 + p))).getD 0)

/-- The count that the silence of a peer is measured on: that of the die whose link agents reach it first (R382). -/
def peerNs (s : State) (dev : Nat) : Nat := (dieAt s (dieOf (portClusterOf s dev))).ns

/-- Traffic to a peer is pending from now on, if none was (R382). -/
def quietFrom (s : State) (d : Nat) : State :=
  if tget 0 s.quiet d = 0 then { s with quiet := tput s.quiet d (peerNs s d + 1) } else s

/-- A session of a peer has carried a packet or an acknowledgement: its silence starts again, while traffic to it is pending (R382). -/
def heardFrom (s : State) (d : Nat) : State :=
  if tget 0 s.quiet d = 0 then s else { s with quiet := tput s.quiet d (peerNs s d + 1) }

/-- A message carried to a peer device, on a port that the route map gives for it, any of them (R74, R374, R375). A message that finds
no port waits in the transport. -/
def linkSend (s : State) (m : LinkMsg) : State :=
  let (d, p) := linkTo m
  let psn := s.linkOut.length
  let ports := (List.range 16).filter (fun p => (tget 0 s.routes d).getLsbD (32 + p) && (ueAt s p).st == LinkState.up)
  let n := Config.sprayPort s.free
  let s := quietFrom { s with linkOut := s.linkOut ++ [m], free := s.free + 1 } d
  match p with
  | some p => enterWindow s p false psn
  | none => match ports[n % max ports.length 1]? with
    | some p => enterWindow s p false psn
    | none => s

/-- The CXL port behind which a location's storage lies is not UP: a request waits at its agent (R375). -/
def cxlDown (s : State) (loc : Nat) : Bool :=
  if isScratch loc then false
  else
    let (g, i) := congruence loc
    slotOfName (tget remapIdentity s.remap g) i != 0 && (cxlAt s (groupDie g)).st != LinkState.up

/-- The frame name of a location is marked moving (R336). -/
def nameMoving (s : State) (loc : Nat) : Bool :=
  if isScratch loc then false
  else
    let (g, i) := congruence loc
    isMoving s g i

/-- The cluster that a request for a location goes to. -/
def placeCluster (loc : Nat) : Nat := if isScratch loc then clusterOf (scratchCore loc) else homeCluster loc

/-- The cluster of a location is in VIGIL, or leaving it: a request is answered "waking" (R355). -/
def wakingAt (s : State) (loc : Nat) : Bool := !isScratch loc && isWaking s loc

/-- The clock of a location's cluster is stopped, and requests to it wait (R420). -/
def stoppedAt (s : State) (loc : Nat) : Bool := (cluAt s (placeCluster loc)).stopped

/-- A request for a location is not performed now: it waits at an agent whose port is not UP, is answered "moving" or "waking", or waits for
its cluster's clock (R336, R355, R375, R420). -/
def blockedAt (s : State) (loc : Nat) : Bool := cxlDown s loc || nameMoving s loc || wakingAt s loc || stoppedAt s loc

/-- A request for a place is not performed now (R336, R355, R375, R420). -/
def outOfReach (s : State) : Place → Bool
  | .here l => blockedAt s l
  | .peer _ _ => false

/-- A request has reached a place: if that lies in a cluster in VIGIL, its exit starts (R355). -/
def reachPlace (s : State) : Place → State
  | .here l => if isScratch l then s else startExit s (wakes s l)
  | .peer _ _ => s

/-- A request for a place has been answered, "moving" or "waking", and waits for no timeout (R173, R337, R355). -/
def answeredLater (s : State) : Place → Bool
  | .here l => nameMoving s l || wakingAt s l
  | .peer _ _ => false

/-- A write of a place is held while its line is copied (R347). -/
def heldWrite (s : State) : Place → Bool
  | .here l => lineHeld s l
  | .peer _ _ => false

/-- A trap that the thread takes at its next issue; a second OVERCAP is not raised while one waits (R168, R244). -/
def pend (s : State) (c t cause : Nat) (eaddr : W64) : State :=
  modThr s c t (fun th =>
    if cause = cOVERCAP ∧ th.traps.any (fun p => p.cause == cOVERCAP) then th
    else { th with traps := th.traps ++ [⟨cause, eaddr⟩] })

/-- A store reaches a scratchpad that is live for its context no more (R68, R304). -/
def deadFor (s : State) (ctx loc : Nat) : Bool := isScratch loc && !liveFor s (scratchCore loc) ctx

/-- The first entry of a core's loose buffer is written to memory (R161). One for a scratchpad that is gone is dropped, and its thread
traps PEER_GONE at its next issue (R68; log 3, DESIGN CHOICE). -/
def drainEntry (s : State) (core : Nat) (e : LooseEntry) : State :=
  match e.place with
  | .here l =>
    if deadFor s e.ctx l then (if isThread s core e.slot e.uid then pend s core e.slot cPEERGONE e.addr else s)
    else
      holdIdentity (storeAt (some core) (receiveAt s (locClk l) e.stamp) l e.size e.data) s.number core e.slot e.stamp 0 (dieOfLoc l)
  | .peer d a => linkSend s (.access d core e.slot e.id a .store .loose e.size e.data e.stamp)

/-- The head entry of a core's loose buffer leaves it, unless a request for its place is not performed now (R336, R355, R375). -/
def drainOne (s : State) (core : Nat) : State :=
  match (coreAt s core).loose with
  | [] => s
  | e :: r =>
    if outOfReach s e.place || heldWrite s e.place then reachPlace s e.place else drainEntry (modCore s core (fun k => { k with loose := r })) core e

/-- The first n entries of a core's loose buffer are written to memory, in order. -/
def drainN : Nat → State → Nat → State
  | 0, s, _ => s
  | n + 1, s, core => drainN n (drainOne s core) core

/-- A core's loose buffer drains all its entries (R161), unless its clock stands (R420). -/
def drainAll (s : State) (core : Nat) : State :=
  if (cluAt s (clusterOf core)).stopped then s else drainN (coreAt s core).loose.length s core

/-- Entries up to and including the youngest that overlaps bytes drain (R228). -/
def drainOverlap (s : State) (core : Nat) (p : Place) (n : Nat) : State :=
  let l := (coreAt s core).loose
  drainN (l.length - (l.reverse.takeWhile (fun e => !looseOverlaps p n e)).length) s core

/-- A core's buffer still holds an entry that overlaps bytes: its drain is not done. -/
def overlapLeft (s : State) (core : Nat) (p : Place) (n : Nat) : Bool := (coreAt s core).loose.any (looseOverlaps p n)

/-! ## The bytes that an access acts on -/

/-- An operation on the full/empty bit acts on the whole 64-bit word (R163, R165). -/
def wordOp : AccOp → Bool
  | .feLoad _ | .feStore _ | .feEmpty | .feStat => true
  | _ => false

/-- The first of the bytes that a piece of an access acts on. -/
def footPlace (op : AccOp) (p : Place) : Place :=
  match p with
  | .here l => if wordOp op then .here (wordNo l * 8) else p
  | .peer _ _ => p

/-- How many bytes a piece of n bytes of an access acts on. -/
def footSize (op : AccOp) (n : Nat) : Nat := if wordOp op then 8 else n

/-- The pieces of an access, each with the first of the bytes it acts on. -/
def footLanes (op : AccOp) (ls : List Lane) : List Lane := ls.map (fun l => { l with place := footPlace op l.place })

/-! ## Performing -/

/-- An access that writes when it is performed. -/
def isWriting (a : Access) : Bool :=
  match a.op with
  | .store | .scatter | .amo _ _ | .feStore true | .feEmpty => true
  | _ => false

/-- An access that can change its word (R347, R348). -/
def mayWrite (a : Access) : Bool :=
  match a.op with
  | .feLoad take => take
  | .feStore _ => true
  | _ => isWriting a

/-- The access of a thread is held at the comparator of its twin (R172). -/
def heldAcc (th : Thread) (id : Nat) : Bool := th.cmp.any (fun e => e.acc == some id)

/-- An access that takes values from the loose buffer of its core: a loose load (R161, R228). -/
def seesBuffer (a : Access) : Bool := a.order == .loose && (match a.op with
  | .load _ | .loadV | .gather => true
  | _ => false)

/-- One piece of an access performed by a thread of a core, whose buffer holds nothing that must go before it: the value it returns and
the state after. -/
def performHere (s : State) (c : Nat) (a : Access) (loc data : Nat) : Nat × State :=
  let rel := isRelCore a.order
  match a.op with
  | .load _ | .loadV | .gather =>
    (if a.order = .loose then seenBytes s c (.here loc) (loadAt s loc a.size) a.size else loadAt s loc a.size, s)
  | .store | .scatter => (0, storeAt (some c) s loc a.size data rel)
  | .amo op cmp => amoAt c s loc a.size op data cmp rel
  | .feStore _ => (0, fill s c loc a.size data rel)
  | .feEmpty => (0, if isEmpty s (wordNo loc) then s else emptyWord s c (wordNo loc))
  | .feLoad _ | .feStat | .qstat _ => (0, s)

/-- One piece of an access performed by a thread of a core: the value it returns and the state after. Entries of the core's buffer that
it overlaps drain first (R228); a stamp that it carries reaches its target (R29). -/
def performLane (s : State) (c : Nat) (t : Nat) (a : Access) (l : Lane) : Nat × State :=
  let s := if seesBuffer a then s else drainOverlap s c (footPlace a.op l.place) (footSize a.op a.size)
  match l.place with
  | .peer d x =>
    let s := linkSend s (.access d c t a.id x a.op a.order a.size l.data a.stamp)
    (if seesBuffer a then seenBytes s c l.place (Config.peerData a.id l.off) a.size else Config.peerData a.id l.off % 256 ^ a.size, s)
  | .here loc => performHere (receiveAt s (locClk loc) a.stamp) c a loc l.data

/-- The pieces of an access performed in order, with the values they return. -/
def performLanes (s : State) (c t : Nat) (a : Access) : List Lane → List Nat × State
  | [] => ([], s)
  | l :: r =>
    let (v, s) := performLane s c t a l
    let (vs, s) := performLanes s c t a r
    (v :: vs, s)

/-- The cores that a promoting acquire must drain: those the records of the words it reads name (R162). -/
def recordHits (s : State) (a : Access) : List Nat :=
  if !isPacq a.order then []
  else (a.lanes.flatMap (fun l => match l.place with
    | .here loc => (List.range ((a.size + 7) / 8)).filterMap (fun i => recordOf s (wordNo loc + i))
    | .peer _ _ => [])).eraseDups

/-- The 256-bit value of an access's results: a scalar in its low bits, a vector by its pieces. -/
def resultBits (a : Access) (vs : List Nat) : W256 :=
  if a.lanes = [] then BitVec.ofNat 256 (vs.headD 0)
  else (List.zip a.lanes vs).foldl (fun w p => w ||| (BitVec.ofNat 256 p.2 <<< (8 * p.1.off))) 0

/-- The load-value queue of a twin leader receives the value of an access (R259). -/
def lvqFill (th : Thread) (id : Nat) (v : W256) : Thread :=
  { th with lvq := th.lvq.map (fun q => if q.1 = id ∧ q.2 = none then (id, some v) else q) }

/-- The trailing thread of a leader keeps the same result (R172). -/
def mirrorResult (s : State) (c t id : Nat) (r : List Nat) : State :=
  if isTwin (thrAt s c t) && !isTrail (thrAt s c t) then
    modThr s c (t + 1) (fun th => modAcc th id (fun a => { a with result := some r }))
  else s

/-- A release side waits for the earlier loose reads of its thread (R228): one stands before it without a result. -/
def relBlocked (th : Thread) (a : Access) : Bool :=
  (match a.order with
    | .rel _ => true
    | _ => false) &&
  (th.accs.takeWhile (fun b => b.id != a.id)).any (fun b => b.order == .loose && b.result.isNone && !b.lanes.isEmpty)

/-- A loose read of the thread has not returned: a release side that issues now waits for it (R228). -/
def looseOpen (th : Thread) : Bool := th.accs.any (fun b => b.order == .loose && b.result.isNone && !b.lanes.isEmpty)

/-- An access whose request for a place is not performed now (R336, R347, R355, R375, R420). -/
def waitsAtPlace (s : State) (a : Access) : Bool :=
  a.lanes.any (fun l => outOfReach s l.place || (mayWrite a && heldWrite s l.place))

/-- An entry of the core's buffer that an access must follow cannot drain now. -/
def waitsForBuffer (s : State) (c : Nat) (a : Access) : Bool :=
  !seesBuffer a && (footLanes a.op a.lanes).any (fun l =>
    overlapLeft (drainOverlap s c l.place (footSize a.op a.size)) c l.place (footSize a.op a.size))

/-- The dies whose units keep the identities of an access: those of its pieces on this device. -/
def targetDies (a : Access) : List Nat := (a.lanes.filterMap (fun l => match l.place with
  | .here loc => some (dieOfLoc loc)
  | .peer _ _ => none)).eraseDups

/-- The identity of a writing access is held at each of its targets (R171). -/
def holdAccess (s : State) (c t : Nat) (a : Access) (v : Nat) : State :=
  if isWriting a then (targetDies a).foldl (fun s d => holdIdentity s s.number c t a.stamp v d) s else s

/-- An access is performed at its target, once (R171), a twin's by its leading thread (R172): its result is captured, its identity held,
the stamps of its targets reach its core (R29), a promoting acquire that meets records waits for the drains. One that meets a cluster in
VIGIL starts its exit (R355). -/
def perform (s : State) (c t id : Nat) : State :=
  match accOf (thrAt s c t) id with
  | none => s
  | some a =>
    if a.result.isSome || heldAcc (thrAt s c t) id || (isTrail (thrAt s c t) && isWriting a) || relBlocked (thrAt s c t) a then s
    else if waitsAtPlace s a then a.lanes.foldl (fun s l => reachPlace s l.place) s
    else if waitsForBuffer s c a then s
    else match a.op with
      | .feLoad _ | .feStore false | .feStat | .qstat _ => s
      | _ =>
        let d := recordHits s a
        let (vs, s) := performLanes s c t a a.lanes
        let s := modThr (answered s c a) c t (fun th =>
          lvqFill (modAcc th id (fun a => { a with result := some vs, drain := d })) id (resultBits a vs))
        holdAccess (mirrorResult s c t id vs) c t a (vs.headD 0)

/-- A promoting acquire's drain is done: the recorded core's buffer drains and the acquire is acknowledged (R162). -/
def ackDrain (s : State) (c t id : Nat) : State :=
  match accOf (thrAt s c t) id with
  | none => s
  | some a => a.drain.foldl (fun s k =>
      let s := drainAll s k
      if (coreAt s k).loose = [] ∧ !(cluAt s (clusterOf k)).stopped then
        modThr (carry s (.core k) (.core c)) c t (fun th => modAcc th id (fun a => { a with drain := a.drain.filter (· != k) }))
      else s) s

/-- The accesses of one thread that satisfy a condition are performed, oldest first, and their drains made. -/
def forceThr (s : State) (c t : Nat) (p : Access → Bool) : State :=
  ((thrAt s c t).accs.filter p).foldl (fun s a => ackDrain (perform s c t a.id) c t a.id) s

/-- The plain access of a thread is performed before its next issue (log 2, DESIGN CHOICE). -/
def forcePlain (s : State) (c t : Nat) : State := forceThr s c t (fun a => a.order != .loose && a.result.isNone)

/-- Every access of a thread is performed: what a release side or fence needs (R227, R228). -/
def forceThread (s : State) (c t : Nat) : State := forceThr s c t (fun _ => true)

/-- Two sets of bytes overlap. -/
def lanesOverlap (n : Nat) (l : List Lane) (m : Nat) (k : List Lane) : Bool :=
  l.any (fun x => k.any (fun y => placesOverlap n x.place m y.place))

/-- An access acts on bytes that n bytes of some pieces of an operation act on too. -/
def feetOverlap (op : AccOp) (n : Nat) (l : List Lane) (a : Access) : Bool :=
  lanesOverlap (footSize op n) (footLanes op l) (footSize a.op a.size) (footLanes a.op a.lanes)

/-- Earlier accesses of the thread to the same bytes are performed first (R229). -/
def forceOverlap (s : State) (c t : Nat) (op : AccOp) (n : Nat) (l : List Lane) : State := forceThr s c t (feetOverlap op n l)

/-- A store of the thread to the same bytes stands at the comparator of its twin. -/
def cmpOverlaps (th : Thread) (op : AccOp) (n : Nat) (l : List Lane) : Bool :=
  th.cmp.any (fun e => lanesOverlap (footSize op n) (footLanes op l) e.width e.lanes)

/-- An earlier access of the thread to the same bytes could not be performed yet, or a store of it to them stands at the comparator
of its twin: what follows it waits (R229, R232). -/
def overlapWaits (s : State) (c t : Nat) (op : AccOp) (n : Nat) (l : List Lane) : Bool :=
  let th := thrAt s c t
  th.accs.any (fun a => a.result.isNone && feetOverlap op n l a) || cmpOverlaps th op n l

/-- An access, not loose, that is still to be performed, or whose drain is still to be acknowledged: what it orders after it waits (R162,
R227). -/
def unperformed (th : Thread) : Bool :=
  th.accs.any (fun a => a.order != .loose && (a.result.isNone || !a.drain.isEmpty) && !a.lanes.isEmpty && !heldAcc th a.id)

/-- The thread, or the leading thread of a twin whose trailing thread it is, has such an access. -/
def unitUnperformed (s : State) (c t : Nat) : Bool := unperformed (thrAt s c t) || (isTrail (thrAt s c t) && unperformed (thrAt s c (t - 1)))

/-- A write of the thread, not loose, is held while the line it writes is copied (R347). -/
def heldAtLine (s : State) (th : Thread) : Bool :=
  th.accs.any (fun a => a.order != .loose && a.result.isNone && mayWrite a && !heldAcc th a.id && a.lanes.any (fun l => heldWrite s l.place))

/-- Every access of the device that satisfies a condition is performed. -/
def forceWhere (s : State) (p : Access → Bool) : State :=
  s.cores.foldl (fun s k => k.2.threads.foldl (fun s q => if q.2.accs.any p then forceThr s k.1 q.1 p else s) s) s

/-- An access touches the scratchpad of a core. -/
def touchesCore (k : Nat) (a : Access) : Bool :=
  a.lanes.any (fun l => match l.place with
    | .here loc => isScratch loc && scratchCore loc == k
    | .peer _ _ => false)

/-- An access translated through a leaf of a set (R340). -/
def throughSet (inSet : LeafKey → Bool) (a : Access) : Bool := a.leafs.any inSet

/-! ## Marks and arrivals (R86) -/

/-- The bit of a register in the marks of a thread. -/
def markBit (r : Reg) : BitVec 32 := 1 <<< r.toNat

/-- The thread's marks all clear. -/
def noMarks (th : Thread) : Bool := th.marksX == 0 && th.marksV == 0

/-- A mark set as the producing bundle issues. -/
def setMark (th : Thread) : Dest → Thread
  | .none => th
  | .scalar r => { th with marksX := th.marksX ||| markBit r }
  | .vector r => { th with marksV := th.marksV ||| markBit r }

/-- A mark cleared as the result is written. -/
def clearMark (th : Thread) : Dest → Thread
  | .none => th
  | .scalar r => { th with marksX := th.marksX &&& ~~~markBit r }
  | .vector r => { th with marksV := th.marksV &&& ~~~markBit r }

/-- Of some bytes of a shared register, those that no higher-numbered thread has written in this cycle (R91, R135). -/
def keptBytes (k : Core) (reg t bytes : Nat) : Nat :=
  k.wrote.foldl (fun m w => if w.1 = reg ∧ t < w.2.1 then m - (m &&& w.2.2) else m) bytes

/-- A write of a shared register is noted for its cycle. -/
def noteWrite (k : Core) (reg t bytes : Nat) : Core := { k with wrote := k.wrote ++ [(reg, t, bytes)] }

/-- A scalar result written: a private register, a shared one, s0 ignored; ports receive no late result (R85, R91). Of the writes of one
cycle to a shared register that of the highest-numbered thread persists. -/
def putX (s : State) (c t : Nat) (r : Reg) (v : W64) : State :=
  let n := r.toNat
  if n < 16 then modThr s c t (fun th => { th with x := tput th.x n v })
  else if n = 16 then s
  else modCore s c (fun k =>
    noteWrite (if keptBytes k n t 0xFF = 0 then k else { k with s := tput k.s (n - 16) v }) n t 0xFF)

/-- The low and high halves of a 256-bit value. -/
def lo128 (v : W256) : W128 := v.setWidth 128
def hi128 (v : W256) : W128 := (v >>> 128).setWidth 128

/-- A 256-bit value from its halves. -/
def join128 (lo hi : W128) : W256 := lo.setWidth 256 ||| (hi.setWidth 256 <<< 128)

/-- The state of a slot, seen through a halt (R255). -/
def slotSeen (th : Thread) : SlotState := if th.slot = .halted then th.halted else th.slot

/-- The value whose bytes come from new where a bit of a number is set, else from old. -/
def mixBytes (bytes : Nat) (old new : W128) : W128 :=
  let m : W128 := (List.range 16).foldl (fun w i => if bytes.testBit i then w ||| ((0xFF : W128) <<< (8 * i)) else w) 0
  (old &&& ~~~m) ||| (new &&& m)

/-- A vector result written; the high half of a gang goes to the odd slot while that holds high halves (R94). bytes names the bytes of
a shared register that are written; of the writes of one cycle to a byte that of the highest-numbered thread persists (R135). -/
def putV (s : State) (c t : Nat) (r : Reg) (gang : Bool) (v : W256) (bytes : Nat := 0xFFFF) : State :=
  let n := r.toNat
  if n < 16 then
    let s := modThr s c t (fun th => { th with v := tput th.v n (lo128 v) })
    let odd := slotSeen (thrAt s c (t + 1))
    if gang && (odd == .ganghigh || odd == .split) then
      modThr s c (t + 1) (fun th => { th with v := tput th.v n (hi128 v) })
    else s
  else modCore s c (fun k =>
    noteWrite { k with y := tput k.y (n - 16) (mixBytes (keptBytes k (32 + n) t bytes) (tget 0 k.y (n - 16)) (lo128 v)) } (32 + n) t bytes)

/-- The register's present value as 256 bits. -/
def curV (s : State) (c t : Nat) (r : Reg) : W256 :=
  let n := r.toNat
  if n < 16 then join128 (tget 0 (thrAt s c t).v n) (tget 0 (thrAt s c (t + 1)).v n)
  else join128 (tget 0 (coreAt s c).y (n - 16)) 0

/-- A value with n bytes at an offset replaced. -/
def pokeBytes (w : W256) (off n v : Nat) : W256 :=
  let m : W256 := BitVec.ofNat 256 ((256 ^ n - 1) * 256 ^ off)
  (w &&& ~~~m) ||| (BitVec.ofNat 256 (v % 256 ^ n * 256 ^ off) &&& m)

/-- A thread whose last mark has cleared leaves the switch marker's park (R88). -/
def wakeMarks (s : State) (c t : Nat) : State :=
  let th := thrAt s c t
  if parkedFor th .marks && noMarks th then wakeThr (modThr s c t (fun th => { th with marker := false })) c t
  else if th.marker && noMarks th then modThr s c t (fun th => { th with marker := false })
  else s

/-- A thread parked for an access slot, a queue or its own completions goes on when one completes, and so does the trailing thread of its
twin (R89, R242). -/
def wakeAccess (s : State) (c t : Nat) : State :=
  let s := if parkedFor (thrAt s c t) .access then wakeThr s c t else s
  if isTwin (thrAt s c t) && !isTrail (thrAt s c t) && parkedFor (thrAt s c (t + 1)) .access then wakeThr s c (t + 1) else s

/-- The result of an access is written to its destination, the mark clears and the access leaves (R86). -/
def deliver (s : State) (c t : Nat) (a : Access) (vs : List Nat) : State :=
  let s := match a.dest, a.op with
    | .scalar r, .load sgn => putX s c t r (if sgn then sext (vs.headD 0) (8 * a.size) else BitVec.ofNat 64 (vs.headD 0))
    | .scalar r, _ => putX s c t r (sext (vs.headD 0) (8 * a.size))
    | .vector r, .gather =>
      putV s c t r true ((List.zip a.lanes vs).foldl (fun w p => pokeBytes w p.1.off a.size p.2) (curV s c t r))
        (a.lanes.foldl (fun m l => m ||| (2 ^ a.size - 1) * 2 ^ l.off) 0)
    | .vector r, _ => putV s c t r (decide (1 < a.lanes.length)) (resultBits a vs)
    | .none, _ => s
  let s := modThr s c t (fun th => lvqFill (clearMark (dropAcc th a.id) a.dest) a.id (resultBits a vs))
  wakeAccess (wakeMarks s c t) c t

/-- An access reads bytes of a poisoned line: its thread consumes the error (R257). -/
def consumesPoison (s : State) (a : Access) : Bool :=
  (match a.op with
    | .load _ | .loadV | .gather | .amo _ _ | .feLoad _ => true
    | _ => false) && a.lanes.any (fun l => match l.place with
    | .here loc => poisonedAt s loc a.size
    | .peer _ _ => false)

/-- A peer device has answered: a PROBING route is UP (R382). -/
def peerUp (s : State) (d : Nat) : State :=
  let s := heardFrom s d
  if routeState s d = 3 then { s with routes := tput s.routes d (tget 0 s.routes d &&& ~~~(1 <<< 63 : W64)) } else s

/-- What holds a place has answered (R382). -/
def placeAnswered (s : State) : Place → State
  | .here _ => s
  | .peer d _ => peerUp s d

/-- The answer of the peer devices that an access goes to. -/
def peerAnswered (s : State) (a : Access) : State := a.lanes.foldl (fun s l => placeAnswered s l.place) s

/-- An access is done: its result, captured, is delivered, unless a drain is still to be acknowledged (R162). -/
def arrive (s : State) (c t id : Nat) : State :=
  let s := perform s c t id
  match accOf (thrAt s c t) id with
  | none => s
  | some a => match a.result with
    | some vs => if a.drain ≠ [] then s else deliver (peerAnswered s a) c t a vs
    | none => s

/-- An access leaves without a result: its mark clears and its destination keeps its value (R168, R304). -/
def dropAccess (s : State) (c t id : Nat) : State :=
  match accOf (thrAt s c t) id with
  | none => s
  | some a => wakeAccess (wakeMarks (modThr s c t (fun th => clearMark (dropAcc th id) a.dest)) c t) c t

/-- The accesses of a thread leave without results, and their marks clear. -/
def dropAccesses (s : State) (c t : Nat) (p : Access → Bool) : State :=
  ((thrAt s c t).accs.filter p).foldl (fun s a => dropAccess s c t a.id) s

end Sys2Proof.Machine
end

