-- ==== Sys2Proof/Machine/Lease.lean ====
section
/-!
DEFINITION. The lease of a cluster array (R188 to R193) and the discard of pushed work (R206).
-/

namespace Sys2Proof.Machine

/-- The key of a thread: core × 16 + thread (R190). -/
def leaseKey (c t : Nat) : Nat := c * 16 + t

/-- The next holder: the smallest key above the previous holder's, else the smallest (R190). -/
def nextWaiter (a : MtxArray) : Option Nat :=
  let ks := a.waiters.map (·.1)
  let least := fun (l : List Nat) => l.foldl (fun m k => match m with
    | none => some k
    | some x => some (min x k)) none
  match least (ks.filter (fun k => decide (a.prev < k))) with
  | some k => some k
  | none => least ks

/-- The lease granted to a key, and the thread woken when it is parked for it (R192). -/
def grantLease (s : State) (k key : Nat) : State :=
  let s := modArr s k (fun a => { a with
    holder := some key, cmds := 64, cycles := 4096, prev := key, waiters := a.waiters.filter (·.1 != key) })
  if parkedFor (thrAt s (key / 16) (key % 16)) .lease then wakeThr s (key / 16) (key % 16) else s

/-- A free lease goes to the next waiter, unless the array is frozen (R190, R206). -/
def passLease (s : State) (k : Nat) : State :=
  let a := (cluAt s k).arr
  if a.holder.isSome || a.frozen.isSome then s
  else match nextWaiter a with
    | some key => grantLease s k key
    | none => s

/-- The thread holds the lease of its cluster's array; while the array is frozen only a thread of the context it is frozen for does
(R206). -/
def holdsLease (s : State) (c t : Nat) : Bool :=
  let a := (cluAt s (clusterOf c)).arr
  a.holder == some (leaseKey c t) && (match a.frozen with
    | some x => x == (thrAt s c t).ctx
    | none => true)

/-- The thread is lapsed: it waits for a lease whose grant it used up (R189). -/
def lapsed (s : State) (c t : Nat) : Bool := (cluAt s (clusterOf c)).arr.waiters.contains (leaseKey c t, true)

/-- LREL (R192). -/
def leaseRelease (s : State) (c t : Nat) : State :=
  let k := clusterOf c
  if holdsLease s c t then passLease (modArr s k (fun a => { a with holder := none, cmds := 0, cycles := 0 })) k
  else modArr s k (fun a => { a with waiters := a.waiters.filter (·.1 != leaseKey c t) })

/-- A used-up grant reloads, or passes on and leaves its holder lapsed (R189). -/
def leaseUsed (s : State) (k : Nat) : State :=
  let a := (cluAt s k).arr
  match a.holder with
  | none => s
  | some key =>
    if (0 < a.cmds ∧ 0 < a.cycles) ∨ a.frozen.isSome then s
    else if a.waiters = [] then modArr s k (fun a => { a with cmds := 64, cycles := 4096 })
    else passLease (modArr s k (fun a => { a with holder := none, cmds := 0, cycles := 0, waiters := a.waiters ++ [(key, true)] })) k

/-- A cycle of the lease's count, with a turn of its holder's core (R189). -/
def leaseTick (s : State) (c : Nat) : State :=
  let k := clusterOf c
  match (cluAt s k).arr.holder with
  | none => s
  | some key =>
    if key / 16 = c ∧ (cluAt s k).arr.frozen.isNone then leaseUsed (modArr s k (fun a => { a with cycles := a.cycles - 1 })) k else s

/-- The pushed work of threads that satisfy a condition is discarded (R206): queued commands, the command under way with its buffers, FIFO
elements, and copies still bound for a FIFO. A buffer that another thread's chunk or drain uses stays, and so does the status of a command
that has landed its last row (R196). -/
def discardWork (s : State) (k : Nat) (p : Nat → Nat → Bool) : State :=
  modClu s k (fun cl =>
    let a := cl.arr
    let mine := fun (q : ArrayCmd) => p q.uid q.ctx
    let curGone := match a.cur with
      | some (q, _, _) => mine q
      | none => false
    let drainGone := match a.drain with
      | some d => mine d.cmd
      | none => false
    let drain := if drainGone then none else a.drain
    let free := curGone || (drainGone && a.cur.isNone)
    let ends := fun (b : Bool) =>
      let draining := match drain with
        | some d => d.buf == b
        | none => false
      let drained := match a.drain with
        | some d => drainGone && d.buf == b
        | none => false
      drained || (free && !draining)
    let chans := cl.chans.map (fun q => (q.1, q.2.filter (fun m => !((m.dk == 1 || m.dk == 2) && p m.uid m.ctx))))
    { cl with
      chans := chans
      arr := { a with
        half := a.half.filter (fun h => !p h.1 h.2.1)
        cmdq := a.cmdq.filter (fun q => !mine q)
        fifoA := a.fifoA.filter (fun e => !p e.uid e.ctx)
        fifoB := a.fifoB.filter (fun e => !p e.uid e.ctx)
        cur := if curGone then none else a.cur
        rowOvf := if curGone then [] else a.rowOvf
        buf0 := if ends false then [] else a.buf0
        buf1 := if ends true then [] else a.buf1
        lastBuf := if free then none else a.lastBuf
        drain := drain
        dones := a.dones.filter (fun d => d.ready || !mine d.cmd) } })

/-- A killed thread leaves its lease: as LREL, with the discard of its pushed work when it holds it (R192, R206). -/
def leaseKill (s : State) (c t : Nat) : State :=
  let uid := (thrAt s c t).uid
  let held := holdsLease s c t
  let s := leaseRelease s c t
  if held then discardWork s (clusterOf c) (fun u _ => u == uid) else s

end Sys2Proof.Machine
end

