-- ==== Sys2Proof/Machine/Threads.lean ====
section
/-!
DEFINITION. How threads begin and end: starts and run queues (R281 to R283), the steps of QUIT (R286), the kill of a thread
(R251, R257), the withdrawal of names (R359), and the kill of a context (R247).
-/

namespace Sys2Proof.Machine

/-! ## Beginning -/

/-- Run-queue entries of a core (R283). -/
def runqSize (k : Core) : Nat := (regf k.part * 8192 - 8960) / 128

/-- The run queue of a core has room for one more entry; a migrating thread may have reserved one (R292). -/
def runqRoom (s : State) (c : Nat) : Bool :=
  let k := coreAt s c
  decide (k.runq.length + ((s.packets ++ s.starts).filter (fun q => q.core == c && q.queued)).length < runqSize k)

/-- A slot is reserved by a start in flight (R289, R292). -/
def isReserved (s : State) (c t : Nat) : Bool :=
  s.starts.any (fun q => q.core == c && q.slot == some t) || s.packets.any (fun q => q.core == c && q.slot == some t)

/-- The lowest slot of a core that is free and not reserved (R282, R289). -/
def freeSlot (s : State) (c : Nat) : Option Nat :=
  firstBelow 16 (fun t => (thrAt s c t).slot == .free && !isReserved s c t)

/-- The slot that a core offers: free in the sense of R282. -/
def idleSlot (s : State) (ctx c : Nat) : Option Nat :=
  if openFor s c ctx && (coreAt s c).runq.isEmpty then freeSlot s c else none

/-- The lowest private identity of a context that nothing holds (R281; log 23, DESIGN CHOICE). -/
def lowestId (ids : List Nat) : Nat := (firstBelow (ids.length + 1) (fun i => !ids.contains i)).getD 0

/-- A private identity taken from the context's pool. -/
def takeId (s : State) (ctx : Nat) : Nat × State :=
  let i := lowestId (ctxAt s ctx).ids
  (i, modCtx s ctx (fun x => { x with ids := x.ids ++ [i] }))

/-- A private identity returned to the pool. -/
def dropId (s : State) (ctx id : Nat) : State := modCtx s ctx (fun x => { x with ids := x.ids.filter (· != id) })

/-- Registers from a list of values, x0 first. -/
def regsOf (l : List W64) : Tbl W64 := (List.range l.length).map (fun i => (i, l[i]?.getD 0))

/-- The registers of a thread that arrives by MIGR (R292, R293) (log 46, DEDUCED). -/
def migrThread (s : State) (c : Nat) (st : Start) : Thread :=
  let w := st.status
  let anch := bits w 43 1 == 1
  { slot := .loading, uid := st.uid, ctx := st.ctx, pc := st.pc, x := regsOf st.x
    m1 := (st.pred >>> 16).setWidth 16, m2 := (st.pred >>> 32).setWidth 16, m3 := (st.pred >>> 48).setWidth 16
    privid := BitVec.ofNat 20 (bits w 44 20)
    seat := match st.anchor with
      | some x => x
      | none => mkSeat s.number c
    mode := if anch then 8 else 0, tags := st.tags, fflags := BitVec.ofNat 5 (bits w 38 5)
    fen := BitVec.ofNat 5 (bits w 33 5), rm := BitVec.ofNat 2 (bits w 31 2), pdeg := BitVec.ofNat 6 (bits w 25 6)
    hbase := (ctxAt s st.ctx).hbase, row := st.row }

/-- The thread of a start takes a slot, which enters LOADING (R281, R282). -/
def beginThread (s : State) (c t : Nat) (st : Start) : State :=
  let s := modCtx s st.ctx (fun x => if x.kern = .launched then { x with kern := .running } else x)
  if st.kind = 3 then setThr s c t (migrThread s c st)
  else
    let (id, s) := takeId s st.ctx
    let (uid, s) := withFresh s
    setThr s c t { slot := .loading, uid := uid, ctx := st.ctx, pc := st.pc, x := regsOf st.x, seat := mkSeat s.number c
                   privid := BitVec.ofNat 20 id, hbase := (ctxAt s st.ctx).hbase }

/-- A start reaches its core: 0 into a slot, 1 into the run queue, none when refused (R282, R283). The caller has checked
that the core is open. -/
def acceptStart (s : State) (st : Start) : Option (Nat × State) :=
  let c := st.core
  let k := coreAt s c
  match (if k.runq = [] then freeSlot s c else none) with
  | some t => some (0, beginThread s c t st)
  | none => if runqRoom s c then some (1, modCore s c (fun k => { k with runq := k.runq ++ [st] })) else none

/-- A slot that became FREE goes first to the head of the run queue (R282). -/
def refill (s : State) (c : Nat) : State :=
  let k := coreAt s c
  match k.runq with
  | [] => s
  | st :: r =>
    if !openFor s c st.ctx then s
    else match freeSlot s c with
      | none => s
      | some t => beginThread (modCore s c (fun k => { k with runq := r })) c t st

/-! ## Ending -/

/-- A slot that belongs to the even thread beside it. -/
def isUpper (th : Thread) : Bool := slotSeen th == .ganghigh || slotSeen th == .split || (isTrail th && th.slot != .free)

/-- The slots that live and end together with a slot: a gang, a split gang, a twin (R251, R257). -/
def unitSlots (s : State) (c t : Nat) : List Nat :=
  if t % 2 = 1 then (if isUpper (thrAt s c t) then [t - 1, t] else [t])
  else if isUpper (thrAt s c (t + 1)) then [t, t + 1] else [t]

/-- The landing slot of a row handler is released, and its claim on the row ends; the release reaches the array with its core's stamp
(R29, R203). -/
def releaseRow (s : State) (c t : Nat) : State :=
  match (thrAt s c t).row with
  | none => s
  | some r =>
    let uid := (thrAt s c t).uid
    let s := carry s (.core c) (.clu r.cluster)
    let s := modThr s c t (fun th => { th with row := none })
    let s := (coresOfCluster r.cluster).foldl (fun s d =>
      if (coreAt s d).landed.any (·.uid == uid) then
        modCore s d (fun k => { k with landed := k.landed.filter (·.uid != uid) })
      else s) s
    modArr s r.cluster (fun a => { a with openRow := a.openRow.filter (fun o => o.2.2 != uid) })

/-- EXCL bindings that a thread owns become UNBOUND; threads parked on such a port reissue (R271, R286). -/
def unbindExcl (s : State) (c t : Nat) : State :=
  (List.range 4).foldl (fun s p =>
    let b := portAt s c p
    if bExcl b.word && b.owner == t && bKind b.word != 0 then
      let s := modPort s c p (fun _ => {})
      wakePort s c p
    else s) s

/-- A full/empty request that waits at its owner is withdrawn (R168). -/
def withdrawFe (s : State) (uid : Nat) : State := { s with feWait := s.feWait.filter (·.uid != uid) }

/-- The waits of a thread are withdrawn: at a full/empty word, on a port, a reservation, a semaphore (R168, R267, R268). -/
def withdrawWaits (s : State) (c t : Nat) : State :=
  let s := withdrawFe s (thrAt s c t).uid
  let s := cancelResv s c t
  let s := leavePorts s c t
  modCore s c (fun k => { k with semWait := k.semWait.filter (fun q => q.2 != t) })

/-- Steps 4 to 7 of QUIT: landing slot, EXCL bindings, private identity, slot (R286). -/
def vacate (s : State) (c t : Nat) (keepId : Bool) : State :=
  let th := thrAt s c t
  let s := unbindExcl (releaseRow s c t) c t
  let s := if keepId then s else dropId s th.ctx th.privid.toNat
  setThr s c t {}

/-- The end of a thread by QUIT, JOIN or FORK, after its waits and drains (R286, R288, R290): its slot, with the high slot
of a gang or twin, becomes FREE. -/
def endThread (s : State) (c t : Nat) (keepId : Bool) : State :=
  let us := unitSlots s c t
  let s := leaseRelease s c t
  let s := us.foldl (fun s u => if u = t then vacate s c u keepId else setThr s c u {}) s
  us.foldl (fun s _ => refill s c) s

/-- The special-function requests of a thread are taken out (R154). A new head begins in the next cycle. -/
def dropSfu (s : State) (c uid : Nat) : State :=
  modCore s c (fun k =>
    let l := k.sfu.filter (·.uid != uid)
    { k with sfu := l, sfuStart := if l.head? = k.sfu.head? then k.sfuStart else k.time + 1 })

/-- The head operation of the product-polynomial unit is under way (R214). -/
def ppaBegun (k : Core) : Bool := decide (k.ppaStart ≤ k.time)

/-- The product-polynomial operations of a thread that have not begun are taken out (R215). -/
def dropPpa (s : State) (c uid : Nat) : State :=
  modCore s c (fun k => match k.ppa with
    | [] => k
    | q :: r =>
      let r := r.filter (·.uid != uid)
      if q.uid = uid ∧ !ppaBegun k then { k with ppa := r, ppaStart := k.time + 1 } else { k with ppa := q :: r })

/-- A start that belongs to a thread until it has gone: a migration of the thread, or a SPAWN of it that was refused. -/
def ownStart (c t uid : Nat) (q : Start) : Bool := q.back == some (c, t, uid) && (q.kind == 3 || (q.kind == 1 && q.refused.isSome))

/-- One thread killed: what it issued is performed, its results and waits are discarded, the entries that its bundle has popped stand in
their queues again, its queue entries, lease, bindings and identity go, its migration and the SPAWN it would send again go, and its slot
takes the state given, scrubbed (R82, R247, R251, R257). -/
def killOne (s : State) (c t : Nat) (tgt : SlotState) : State :=
  let th := thrAt s c t
  if th.slot = .free then s
  else
    let s := withdrawWaits (forceThr (unpop s c t) c t isWriting) c t
    let s := { s with starts := s.starts.filter (fun q => !ownStart c t th.uid q) }
    let s := wakeUnits (dropPpa (dropSfu s c th.uid) c th.uid) c
    let s := if th.slot = .killed then s else leaseKill s c t
    let own := !(isUpper th) && th.slot != .killed
    let s := if own then dropId (unbindExcl (releaseRow s c t) c t) th.ctx th.privid.toNat else s
    setThr s c t (if tgt = .killed then { slot := .killed, uid := th.uid, ctx := th.ctx, fewait := 0, pdeg := 0 } else {})

/-- The kill of a thread with its partner slot (R251, R257). A SPLIT slot beside it becomes FREE (R241). -/
def killThread (s : State) (c t : Nat) (tgt : SlotState) : State :=
  let us := unitSlots s c t
  let s := us.foldl (fun s u => killOne s c u (if slotSeen (thrAt s c u) = .split then .free else tgt)) s
  if tgt = .killed then s else us.foldl (fun s _ => refill s c) s

/-- The thread is killed by an uncorrectable error: UE_KILL is sent and its slots become KILLED (R257; log 36, DEDUCED). -/
def ueKill (s : State) (c t : Nat) : State :=
  if !occupied (thrAt s c t) || (thrAt s c t).slot == .killed then s
  else killThread (supThread s c t 0x42 false (thrAt s c t).pc 0) c t .killed

/-! ## Names and cells of a context -/

/-- The withdrawal of a binding: a purge goes to every tarn of the device (R359). -/
def withdrawBinding (s : State) (k : Nat) (name : W64) : State :=
  let s := modAgent s k (fun a => { a with binds := a.binds.map (fun b => if b.name = name then { b with withdrawn := true, acks := 0 } else b) })
  { s with purges := s.purges ++ (List.range 160).map (fun t => ⟨name, k, t⟩) }

/-- A KILLED or FREE context loses its bindings and consumer records (R372). -/
def dropNames (s : State) (ctx : Nat) : State :=
  s.clusters.foldl (fun s p =>
    let s := modAgent s p.1 (fun a => { a with cons := a.cons.filter (fun r => match r with
      | .want w => w.ctx != ctx
      | .remote _ _ _ _ => true) })
    (p.2.agent.binds.filter (fun b => b.ctx == ctx && !b.withdrawn)).foldl (fun s b => withdrawBinding s p.1 b.name) s) s

/-- The number of a barrier cell: 16 for each cluster, then each die, then the device (R308). -/
def cellNo (level index cell : Nat) : Nat :=
  if level = 2 then index * 16 + cell else if level = 3 then 2560 + index * 16 + cell else 2624 + cell

/-- The group of a numbered cell: level and index, the device's own number for level 4. -/
def cellGroup (n : Nat) : Nat × Nat :=
  if n < 2560 then (2, n / 16) else if n < 2624 then (3, (n - 2560) / 16) else (4, 0)

/-- A core lies in the group of a cell. -/
def inCellGroup (n core : Nat) : Bool :=
  match cellGroup n with
  | (2, i) => clusterOf core == i
  | (3, i) => dieOfCore core == i
  | _ => true

/-- The cells of a context that satisfy a condition become FREE (R310). -/
def freeCells (s : State) (ctx : Nat) (p : Nat → Bool) : State :=
  { s with cells := s.cells.filter (fun q => !(q.2.st != 0 && q.2.ctx == ctx && p q.1)) }

/-! ## The kill of a context (R247) -/

/-- Where a kill record goes: to a location, nowhere since its write faults, or not yet, while its page is moving or a cluster wakes
(R247, R337, R355). -/
inductive RecordPlace where
  | at (loc : Nat)
  | nowhere
  | wait (k : Option Nat)
  deriving DecidableEq, Repr

/-- What the page of a context's kill record is found by (R247). -/
def rootOf (x : Ctx) : RecordRoot := { groot := x.groot, killrec := x.killrec, priv := x.priv }

/-- The place of a kill record through its context's global page table: a SHARED, writable page of the global window (R247). -/
def recordPlace (s : State) (r : RecordRoot) : RecordPlace :=
  let a := r.killrec
  if 0xB < winOf a ∨ !prefixOk s s.number a ∨ (vLevel a = 4 ∧ vIndex a ≠ s.number) then .nowhere
  else match walkFrom s (bits a 0 48) 4 r.groot.toNat with
    | .leaf _ wd c b =>
      if nbits wd 46 2 = 1 then .wait none
      else if nbits c 0 2 = 0 ∧ nbits wd 3 1 = 1 ∧ (nbits wd 5 1 = 0 ∨ r.priv) then
        let loc := nbits wd 6 37 * 64 + bits a 0 48 % 2 ^ b
        match answerOf s loc with
        | .now => if blockedAt s loc || lineHeld s loc then .wait none else .at loc
        | .wait k => .wait k
        | .unbacked => .nowhere
      else .nowhere
    | .wait k => .wait k
    | _ => .nowhere

/-- The eight words of a kill record written. -/
def writeRecord (s : State) (loc : Nat) (words : List W64) : State :=
  (List.range 8).foldl (fun s i => storeAt none s (loc + 8 * i) 8 (words[i]?.getD 0).toNat) s

/-- What the kill record of a message is found by. -/
def msgRoot (s : State) (m : SupMsg) : RecordRoot := m.root.getD (rootOf (ctxAt s m.ctx))

/-- The message that follows a kill record; none for a context that is FREE by now. -/
def recordDone (s : State) (m : SupMsg) : State := if m.words = [] then s else supSend s { m with record := [] }

/-- A kill record, then the message that follows it; while the record waits for its page, both are held (R247, R248; log 53, DEDUCED). -/
def sendRecord (s : State) (m : SupMsg) : State :=
  match recordPlace s (msgRoot s m) with
  | .at loc => recordDone (writeRecord s loc m.record) m
  | .nowhere => recordDone s m
  | .wait k => let s := startExit s k; { s with sups := s.sups ++ [m] }

/-- The held messages as a context leaves them that becomes FREE: its own go, but for a kill record that still waits for its page (R240,
R247). -/
def supsWithout (l : List SupMsg) (ctx : Nat) : List SupMsg :=
  l.filterMap (fun m => if m.ctx ≠ ctx then some m else if m.record = [] then none else some { m with words := [] })

/-- A context's engine work is discarded, and its tags never complete (R247). -/
def dropCommands (s : State) (ctx : Nat) : State :=
  let s := s.clusters.foldl (fun s p =>
    let s := modClu s p.1 (fun c => { c with chans := c.chans.map (fun q => (q.1, q.2.filter (·.ctx != ctx))) })
    discardWork s p.1 (fun _ x => x == ctx)) s
  { s with scans := s.scans.filter (·.ctx != ctx), ams := s.ams.filter (·.ctx != ctx)
           starts := s.starts.filter (·.ctx != ctx), packets := s.packets.filter (·.ctx != ctx) }

/-- Every thread of a context on a core stops, and its core group exits (R247, R301). -/
def stopCore (s : State) (ctx c : Nat) : State :=
  let s := slots.foldl (fun s t => if (thrAt s c t).ctx = ctx then killOne s c t .free else s) s
  modCore s c (fun k => { k with runq := k.runq.filter (·.ctx != ctx), landed := [], group := .exited, stopping := false })

/-- The kill of a context: threads, commands, names and cells go, groups exit; an array frozen for it goes on with what other threads have
pushed (R206, R240, R247, R301). -/
def killContext (s : State) (ctx : Nat) : State :=
  let cs := coresOf s ctx
  let s := dropCommands s ctx
  let s := cs.foldl (fun s c => if (coreAt s c).group = .exited then s else stopCore s ctx c) s
  let s := freeCells (dropNames s ctx) ctx (fun _ => true)
  let s := s.clusters.foldl (fun s p => if p.2.arr.frozen = some ctx then
    passLease (modArr s p.1 (fun a => { a with frozen := none, holder := none, cmds := 0, cycles := 0 })) p.1 else s) s
  let s := modCtx s ctx (fun x => { x with st := .killed, kern := .complete, image := none, shrink := [] })
  if cs = [] then { modCtx s ctx (fun _ => {}) with sups := supsWithout s.sups ctx } else s

/-- The kill of a context with its record and messages: the record first, then CONTEXT_KILL to the supervisor and the host,
then the kill (R247, R248) (log 53, DEDUCED). -/
def killContextWith (s : State) (ctx : Nat) (stamp word1 pc : W64) (rest : List W64) : State :=
  let x := ctxAt s ctx
  let ws := [stamp, (word1 &&& ~~~(0xFF <<< 29 : W64)) ||| (0x43 <<< 29 : W64), pc, x.killrec]
  killContext (notify (sendRecord s ⟨ctx, x.supcore, ws, [stamp, word1, pc] ++ rest, some (rootOf x)⟩) ctx ws) ctx

end Sys2Proof.Machine
end

