-- ==== Sys2Proof/Machine/Ops.lean ====
section
/-!
DEFINITION. The operations that the meanings share: reading operands from the latch and writing results (R79, R90 to R94),
parking a bundle (R82, R242), TAKING A TRAP and returning from one (R123, R245 to R247), the effects of a twin (R259).
-/

namespace Sys2Proof.Machine

/-- What exec answers. -/
abbrev Out := Host.Outcome State Fault Refusal

/-! ## The bundle under way -/

/-- Core and slot of the bundle under way. -/
def myCore (s : State) : Nat := s.iss.core
def mySlot (s : State) : Nat := s.iss.slot

/-- The thread of the bundle under way, as it is now. -/
def me (s : State) : Thread := thrAt s s.iss.core s.iss.slot

/-- The core as it stood before either word wrote (R79). -/
def latched (s : State) : Core := s.iss.latch.getD (coreAt s s.iss.core)

/-- The thread as it stood before either word wrote. -/
def was (s : State) : Thread := thrOf (latched s) s.iss.slot

/-- The thread changed. -/
def modMe (s : State) (f : Thread → Thread) : State := modThr s s.iss.core s.iss.slot f

/-- The context of the thread. -/
def myCtx (s : State) : Nat := (was s).ctx

/-- The bundle's thread runs ganged (R94). -/
def ganged (s : State) : Bool := isGang (was s)

/-- The entry that the bundle pops from a port (R81). -/
def popped (s : State) (p : Nat) : W128 := ((s.iss.pops.find? (fun q => q.1 == p)).map (·.2)).getD 0

/-- A scalar operand (R90 to R92). -/
def readX (s : State) (r : Reg) : W64 :=
  let n := r.toNat
  if n < 16 then tget 0 (was s).x n
  else if n = 16 then 0
  else if n < 28 then tget 0 (latched s).s (n - 16)
  else (popped s (n - 28)).setWidth 64

/-- A vector operand: 256 bits in a gang (R94), else 128 with zeros above. -/
def readV (s : State) (r : Reg) : W256 :=
  let n := r.toNat
  if n < 16 then
    join128 (tget 0 (was s).v n) (if ganged s then tget 0 (thrOf (latched s) (s.iss.slot + 1)).v n else 0)
  else if n < 28 then (tget 0 (latched s).y (n - 16)).setWidth 256
  else (popped s (n - 28)).setWidth 256

/-- A mask of one thread (R93). -/
def maskOfThr (th : Thread) (m : MaskNo) : BitVec 16 :=
  match m.toNat with
  | 0 => 0xFFFF
  | 1 => th.m1
  | 2 => th.m2
  | _ => th.m3

/-- A mask operand: 32 bits in a gang, the odd thread's mask above (R94). -/
def readM (s : State) (m : MaskNo) : BitVec 32 :=
  let lo := (maskOfThr (was s) m).setWidth 32
  if ganged s then lo ||| ((maskOfThr (thrOf (latched s) (s.iss.slot + 1)) m).setWidth 32 <<< 16) else lo

/-! ## The store comparator of a twin (R172, R259) -/

/-- A new entry of the comparator of the leading thread in slot t. -/
def cmpPush (s : State) (c t : Nat) (e : CmpEntry) : State := modThr s c t (fun th => { th with cmp := th.cmp ++ [e] })

/-- Wake a thread that waits for the other thread of its twin, unless it holds a trap there (R242, R259). -/
def wakeTwin (s : State) (c t : Nat) : State :=
  let th := thrAt s c t
  match th.park with
  | some q => if parkedFor th .twin && decide (q.aux.toNat < 65536) then wakeThr s c t else s
  | none => s

/-- A mismatch kills the pair before any effect and sends SDC (R259). -/
def mismatch (s : State) (addr : W64) : State :=
  let c := s.iss.core
  let t := s.iss.slot / 2 * 2
  let s := supThread s c t 0x41 false s.iss.pc addr
  let s := killThread s c t .killed
  { s with iss := { s.iss with phase := .ended } }

/-- Two comparator entries agree in encoding, address, size, order code and data (R259). -/
def sameEffect (a b : CmpEntry) : Bool :=
  a.enc == b.enc && a.addr == b.addr && a.size == b.size && a.ord == b.ord && a.data == b.data

/-! ## Writing results -/

/-- A push through a port. In a twin it waits at the comparator and is made once, by the leading thread's binding (R259). What the
leading thread has issued before it is performed first (R218, R227). -/
def pushPort (s : State) (p : Nat) (e : W128) : State :=
  let c := s.iss.core
  let t := s.iss.slot
  let th := me s
  if !isTwin th then portPush s c t p e
  else
    let q : CmpEntry := { enc := s.iss.word.toNat, addr := BitVec.ofNat 64 p, size := 16, ord := 0, data := e.toNat, acc := none }
    if !isTrail th then cmpPush s c t q
    else match (thrAt s c (t - 1)).cmp with
      | [] => mismatch s q.addr
      | f :: r =>
        if sameEffect f q then
          portPush (forcePlain (modThr s c (t - 1) (fun th => { th with cmp := r })) c (t - 1)) c t p e
        else mismatch s q.addr

/-- A scalar result (R90 to R92). -/
def writeX (s : State) (r : Reg) (v : W64) : State :=
  if r.toNat < 28 then putX s s.iss.core s.iss.slot r v else pushPort s (r.toNat - 28) (v.setWidth 128)

/-- A vector result (R90 to R94); bytes names the bytes of a shared register that are written (R135). -/
def writeV (s : State) (r : Reg) (v : W256) (bytes : Nat := 0xFFFF) : State :=
  if r.toNat < 28 then putV s s.iss.core s.iss.slot r (ganged s) v bytes else pushPort s (r.toNat - 28) (lo128 v)

/-- The bytes of the lanes of a mask, w bits to a lane. -/
def laneBytes (w : Nat) (m : BitVec 32) : Nat :=
  (List.range (256 / w)).foldl (fun b i => if m.getLsbD i then b ||| (2 ^ (w / 8) - 1) * 2 ^ (w / 8 * i) else b) 0

/-- A mask of one thread written; m0 keeps its ones (R93, R150). -/
def putMask (th : Thread) (m : MaskNo) (v : BitVec 16) : Thread :=
  match m.toNat with
  | 0 => th
  | 1 => { th with m1 := v }
  | 2 => { th with m2 := v }
  | _ => { th with m3 := v }

/-- A mask result (R93, R94). -/
def writeM (s : State) (m : MaskNo) (v : BitVec 32) : State :=
  let g := ganged s
  let s := modMe s (fun th => putMask th m (v.setWidth 16))
  if g then modThr s s.iss.core (s.iss.slot + 1) (fun th => putMask th m ((v >>> 16).setWidth 16)) else s

/-- Flags raised by a word of the bundle (R43, R249). -/
def addFlags (s : State) (f : BitVec 5) : State := { s with iss := { s.iss with flags := s.iss.flags ||| f } }

/-! ## Pops -/

/-- The entries a bundle has read leave their queues (R81, R267). -/
def commitPops (s : State) : State :=
  if s.iss.popped || isTrail (me s) then { s with iss := { s.iss with popped := true } }
  else { s.iss.src.foldl (fun s q => takeEntry s s.iss.core q) s with iss := { s.iss with popped := true } }

/-- The entries that a bundle pops leave their queues as its thread begins to wait in its effect: the bundle has issued. They return if it
has no effect after all (R82, R267). -/
def popHeld (s : State) : State :=
  if s.iss.popped || isTrail (me s) then s
  else modMe (commitPops s) (fun th => { th with keep := th.keep.map (fun k => { k with popped := true, back := s.iss.src }) })

/-! ## Parking -/

/-- The thread parks with no effect, and the bundle reissues when it is woken (R82, R242). -/
def parkMe (s : State) (r : Reason) (obj : W64 := 0) (aux : W64 := 0) : State :=
  let s := modMe s (fun th => { th with pc := s.iss.pc })
  let s := parkThr s s.iss.core s.iss.slot r obj aux
  { s with iss := { s.iss with phase := .parked } }

/-- The thread parks in a wait of the instruction's effect: the bundle has issued, and reissues when it is woken. -/
def holdMe (s : State) (r : Reason) (obj : W64 := 0) (aux : W64 := 0) : State :=
  let k := latched s
  let s := modMe (parkMe s r obj aux) (fun th => { th with
    inside := some s.iss.word, keep := some ⟨k.s, k.y, s.iss.pops, s.iss.popped, (th.keep.map (·.back)).getD []⟩ })
  { s with iss := { s.iss with phase := .held } }

/-- A wait of the instruction's effect as an answer of exec (log 67, DEDUCED). -/
def hold (s : State) (r : Reason) (obj : W64 := 0) (aux : W64 := 0) : Out := .next (holdMe s r obj aux)

/-- The wait of a thread parked ENGINE until a unit that it has sent a request answers (R242): its reply marks that the request is out.
With the answer, which comes by a later cycle of the core, k acts (log 75, DESIGN CHOICE). -/
def unitAnswers (s : State) (k : State → Out) : Out :=
  match (me s).reply with
  | some _ => k (modMe s (fun th => { th with reply := none }))
  | none => hold (modMe s (fun th => { th with reply := some 0 })) .engine 0 6

/-- The park of step 5 of R82 as an answer of exec. -/
def wait (s : State) (r : Reason) (obj : W64 := 0) (aux : W64 := 0) : Out := .next (parkMe s r obj aux)

/-! ## Taking a trap (R245) -/

/-- Loose accesses of a thread that await results (R130). -/
def looseCount (th : Thread) : Nat :=
  (th.accs.filter (fun a => a.order == .loose && (match a.op with
    | .qstat _ => false
    | _ => true))).length

/-- $estat of a trap (R245). -/
def estatOf (th : Thread) : W64 :=
  BitVec.ofNat 64 (looseCount th * 2 ^ 56 + th.mode.toNat * 2 ^ 48 + th.m3.toNat * 2 ^ 32 + th.m2.toNat * 2 ^ 16 + th.m1.toNat)

/-- $ecause of a trap (R245). -/
def ecauseOf (split : Bool) (word cause : Nat) : W64 :=
  BitVec.ofNat 64 ((if split then 2 ^ 9 else 0) + word * 2 ^ 8 + cause)

/-- REFER of a context has a cause's bit set (R246). -/
def referred (s : State) (ctx cause : Nat) : Bool := bits (ctxAt s ctx).refer cause 1 == 1

/-- The head request of the special-function queue moves to the tail when its thread, one of those that trap, traps (R154). -/
def withdrawSfu (s : State) (c : Nat) (uids : List Nat) : State :=
  modCore s c (fun k => match k.sfu with
    | [] => k
    | q :: r => if uids.contains q.uid then { k with sfu := r ++ [q], sfuStart := k.time + 1 } else k)

/-- The registers of a trap level (R130). -/
def levelOf (th : Thread) (n : Nat) : Level := if n = 1 then th.l1 else th.l2

/-- The registers of a trap level, replaced. -/
def setLevel (th : Thread) (n : Nat) (l : Level) : Thread := if n = 1 then { th with l1 := l } else { th with l2 := l }

/-- A trap at level 2 kills the context (R245, R247). In a context that is not LIVE the event has no effect (R240): the thread stays at its
bundle (log 51, DEDUCED). -/
def escalate (s : State) (c t cause : Nat) (eaddr pc : W64) : State :=
  let th := thrAt s c t
  if (ctxAt s th.ctx).st ≠ .live then
    modThr s c t (fun th => { th with slot := readySlot th, park := none, reply := none, inside := none, keep := none, pc := pc })
  else
  let (m, s) := stampCore s c
  killContextWith s th.ctx m (threadWord 2 false cause t c th.ctx) pc
    [eaddr, th.l1.epc, th.l2.epc, BitVec.ofNat 64 (bits th.l2.ecause 0 8 * 2 ^ 8 + bits th.l1.ecause 0 8), 0]

/-- The trap of one thread whose special-function request has been withdrawn: the new level's registers, the split of a gang, and then the
handler's address, or the referral to the supervisor, in which the PC stays that of the trapping bundle (R245, R246). -/
def enterLevel (s : State) (c t word cause : Nat) (eaddr pc : W64) : State :=
  let th := thrAt s c t
  let s := unpop (cancelResv s c t) c t
  if 2 ≤ th.tl then escalate s c t cause eaddr pc
  else
    let g := isGang th
    let n := th.tl + 1
    let s := if g then modThr s c (t + 1) (fun o => { o with slot := .split }) else s
    let s := modThr s c t (fun th => setLevel { th with
      tl := n, mode := th.mode &&& 0xE, slot := readySlot th, park := none, reply := none, inside := none, keep := none, pc := if referred s th.ctx cause then pc else th.hbase + BitVec.ofNat 64 (64 * cause) }
      n ⟨pc, ecauseOf g word cause, eaddr, estatOf th⟩)
    if referred s th.ctx cause then
      parkThr (supThread s c t cause true pc eaddr) c t .supervisor
    else s

/-- The trap of one thread (R154, R245). -/
def enterTrap (s : State) (c t word cause : Nat) (eaddr pc : W64) : State :=
  enterLevel (withdrawSfu s c [(thrAt s c t).uid]) c t word cause eaddr pc

/-- The trap of both threads of a twin, the trailing one in slot t: at level 2 it kills the context, once (R245, R259). -/
def enterTwin (s : State) (c t word cause : Nat) (eaddr pc : W64) : State :=
  let s := withdrawSfu s c [(thrAt s c (t - 1)).uid, (thrAt s c t).uid]
  let s' := enterLevel s c (t - 1) word cause eaddr pc
  if 2 ≤ (thrAt s c (t - 1)).tl ∧ (ctxAt s (thrAt s c (t - 1)).ctx).st = .live then s' else enterLevel s' c t word cause eaddr pc

/-- What a leading thread of a twin waits with after a trap: the word, the cause, and whether the bundle's own words raised it. -/
def trapCode (async : Bool) (word cause : Nat) : W64 :=
  BitVec.ofNat 64 (65536 + (if async then 131072 else 0) + word * 256 + cause)

/-- The trap of a thread, with the rule of twins: the leading thread waits for the trailing one, and both enter the handler
when the trailing thread traps at the same bundle with the same cause and address (R259). A trap that the bundle's words do
not raise is taken by both at the same bundle (R244). -/
def takeTrapAs (s : State) (async : Bool) (word cause : Nat) (eaddr : W64) : State :=
  let c := s.iss.core
  let t := s.iss.slot
  let pc := s.iss.pc
  let th := me s
  let code := trapCode async word cause
  let trapped := fun (s : State) => { s with iss := { s.iss with phase := .trapped } }
  if !isTwin th then trapped (enterTrap s c t word cause eaddr pc)
  else if !isTrail th then
    trapped (parkThr (wakeTwin (modMe (unpop s c t) (fun th => { th with pc := pc, reply := none, inside := none, keep := none })) c (t + 1)) c t .twin eaddr code)
  else
    let l := thrAt s c (t - 1)
    match l.park with
    | some q =>
      if parkedFor l .twin && l.pc == pc && q.aux == code && q.obj == eaddr then
        trapped (enterTwin s c t word cause eaddr pc)
      else mismatch s eaddr
    | none => mismatch s eaddr

/-- A trap that the bundle's words raise. -/
def takeTrap (s : State) (word cause : Nat) (eaddr : W64) : State := takeTrapAs s false word cause eaddr

/-- A trap that comes to a thread from outside its bundle: at its pc, before it issues (R168, R244, R382). -/
def trapOutside (s : State) (c t cause : Nat) (eaddr : W64) : State :=
  let s0 := s.iss
  let s := modThr s c t (fun th => { th with cmp := match th.cmp with
    | f :: r => if th.inside.isSome && f.acc.isNone then r else f :: r
    | [] => [] })
  let s := { s with iss := { core := c, slot := t, pc := (thrAt s c t).pc, phase := .going } }
  { takeTrapAs s true 0 cause eaddr with iss := s0 }

/-- The park of a thread that meets a moving page in the effect of its bundle: the bundle reissues from its fetch (R337). -/
def waitAnew (s : State) (obj : W64 := 0) : Out :=
  wait (modMe (unpop s s.iss.core s.iss.slot) (fun th => { th with inside := none, keep := none })) .pageMove obj

/-- A fault of the C-word or of the A-word (R82, steps 6 and 7). -/
def trapC (s : State) (cause : Nat) (eaddr : W64) : Out := .next (takeTrap s 0 cause eaddr)
def trapA (s : State) (cause : Nat) (eaddr : W64) : Out := .next (takeTrap s 1 cause eaddr)

/-- The check of R12: a PRIV instruction at user privilege traps PRIV. -/
def privOnly (s : State) (k : State → Out) : Out := if privileged s (was s) then k s else trapC s cPRIV 0

/-! ## Returning from a trap (R123) -/

/-- The thread after RETT at its level: the masks of $estat, the level below, the pc of $epc (R123). -/
def returned (th : Thread) : Thread :=
  let l := levelOf th th.tl
  { th with m1 := l.estat.setWidth 16, m2 := (l.estat >>> 16).setWidth 16, m3 := (l.estat >>> 32).setWidth 16
            tl := th.tl - 1, pc := l.epc }

/-! ## Effects that a twin makes once (R259) -/

/-- The scalar that a register of a thread holds. -/
def curX (s : State) (c t : Nat) (r : Reg) : W64 :=
  let n := r.toNat
  if n < 16 then tget 0 (thrAt s c t).x n else tget 0 (coreAt s c).s (n - 16)

/-- A result taken from a reply that has come (R82): the reply is used up and written to rd. -/
def takeReply (s : State) (rd : Option Reg) (v : W64) : State :=
  let s := modMe s (fun th => { th with reply := none })
  match rd with
  | some r => writeX s r v
  | none => s

/-- The leading thread has made the pair's effect: the entry leaves, and the trailing thread receives the result; one for a port stands
last at the comparator, where the push has put it. -/
def onceDone (s : State) (rd : Option Reg) : State :=
  let c := s.iss.core
  let t := s.iss.slot
  let v := match rd with
    | some r => if r.toNat < 28 then curX s c t r else BitVec.ofNat 64 (((thrAt s c t).cmp.getLast?.map (·.data)).getD 0)
    | none => 0
  let s := modThr s c t (fun th => { th with cmp := th.cmp.drop 1 })
  if isTwin (thrAt s c t) then wakeTwin (modThr s c (t + 1) (fun th => { th with reply := some v })) c (t + 1) else s

/-- The pair's effect trapped as the leading thread made it: the trailing thread takes the same trap at this bundle. -/
def onceTrapped (s : State) : State :=
  modMe s (fun th => { th with
    cmp := th.cmp.drop 1
    park := th.park.map (fun q => if q.aux.toNat < 196608 then { q with aux := q.aux + 131072 } else q) })

/-- An effect that leaves a twin waits at the comparator until both threads have issued it, is made once, by the leading
thread, and gives both its result (R259). body makes it for a thread of no twin (log 17, DEDUCED). -/
def once (s : State) (rd : Option Reg) (addr : W64) (size ord data : Nat) (body : State → Out) : Out :=
  let c := s.iss.core
  let t := s.iss.slot
  let th := me s
  let q : CmpEntry := { enc := s.iss.word.toNat, addr := addr, size := size, ord := ord, data := data, acc := none }
  if !isTwin th then body s
  else if isTrail th then
    match th.reply with
    | some v => .next (takeReply s rd v)
    | none => match (thrAt s c (t - 1)).cmp with
      | [] => hold s .twin
      | f :: r =>
        if !sameEffect f q then .next (mismatch s addr)
        else if f.met then hold s .twin
        else hold (wakeTwin (modThr s c (t - 1) (fun th => { th with cmp := { f with met := true } :: r })) c (t - 1)) .twin
  else match th.cmp with
    | f :: _ =>
      if sameEffect f q && f.acc.isNone then
        if f.met then
          match body s with
          | .next s' => .next (if s'.iss.phase = .going then onceDone s' rd else if s'.iss.phase = .trapped then onceTrapped s' else s')
          | r => r
        else hold s .twin
      else if th.cmp.length < 16 ∧ !th.cmp.any (sameEffect q) then hold (wakeTwin (cmpPush s c t q) c (t + 1)) .twin
      else hold s .twin
    | [] => hold (wakeTwin (cmpPush s c t q) c (t + 1)) .twin

/-- A value that only the leading thread of a twin reads: it enters the load-value queue, and the trailing thread takes it from
there (R129, R259). -/
def shared (s : State) (v : W256) (k : State → W256 → Out) : Out :=
  let c := s.iss.core
  let t := s.iss.slot
  let th := me s
  if !isTwin th then k s v
  else if isTrail th then
    match (thrAt s c (t - 1)).lvq with
    | (_, some x) :: r => k (wakeTwin (modThr s c (t - 1) (fun th => { th with lvq := r })) c (t - 1)) x
    | _ => hold s .twin
  else if 32 ≤ th.lvq.length then hold s .twin
  else k (wakeTwin (modMe s (fun th => { th with lvq := th.lvq ++ [(0, some v)] })) c (t + 1)) v

end Sys2Proof.Machine
end

