-- ==== Sys2Proof/Machine/Alu.lean ====
section
/-!
DEFINITION. The scalar integer instructions: ALU, MULDIV, BIT, the immediate forms and MOVL (R106 to R112).
-/

namespace Sys2Proof.Machine

/-- A result of two scalar operands. -/
def alu2 (s : State) (rd ra rb : Reg) (f : W64 → W64 → W64) : Out := .next (writeX s rd (f (readX s ra) (readX s rb)))

/-- A result of one scalar operand. -/
def alu1 (s : State) (rd ra : Reg) (f : W64 → W64) : Out := .next (writeX s rd (f (readX s ra)))

/-- The integer 1 or 0 of a condition. -/
def ofBool (b : Bool) : W64 := if b then 1 else 0

/-- The shift count of a scalar shift (R107). -/
def shamt (b : W64) : Nat := bits b 0 6

/-- ADD (R107). -/
def execAdd (rd ra rb : Reg) (s : State) : Out := alu2 s rd ra rb (fun a b => a + b)

/-- SUB (R107). -/
def execSub (rd ra rb : Reg) (s : State) : Out := alu2 s rd ra rb (fun a b => a - b)

/-- AND (R107). -/
def execAnd (rd ra rb : Reg) (s : State) : Out := alu2 s rd ra rb (fun a b => a &&& b)

/-- OR (R107). -/
def execOr (rd ra rb : Reg) (s : State) : Out := alu2 s rd ra rb (fun a b => a ||| b)

/-- XOR (R107). -/
def execXor (rd ra rb : Reg) (s : State) : Out := alu2 s rd ra rb (fun a b => a ^^^ b)

/-- SHL (R107). -/
def execShl (rd ra rb : Reg) (s : State) : Out := alu2 s rd ra rb (fun a b => a <<< shamt b)

/-- SHR (R107). -/
def execShr (rd ra rb : Reg) (s : State) : Out := alu2 s rd ra rb (fun a b => a >>> shamt b)

/-- SAR (R107). -/
def execSar (rd ra rb : Reg) (s : State) : Out := alu2 s rd ra rb (fun a b => a.sshiftRight (shamt b))

/-- ROL (R107). -/
def execRol (rd ra rb : Reg) (s : State) : Out := alu2 s rd ra rb (fun a b => a.rotateLeft (shamt b))

/-- MIN (R107). -/
def execMin (rd ra rb : Reg) (s : State) : Out := alu2 s rd ra rb (fun a b => if a.slt b then a else b)

/-- MAX (R107). -/
def execMax (rd ra rb : Reg) (s : State) : Out := alu2 s rd ra rb (fun a b => if a.slt b then b else a)

/-- MINU (R107). -/
def execMinu (rd ra rb : Reg) (s : State) : Out := alu2 s rd ra rb (fun a b => if a.ult b then a else b)

/-- MAXU (R107). -/
def execMaxu (rd ra rb : Reg) (s : State) : Out := alu2 s rd ra rb (fun a b => if a.ult b then b else a)

/-- SLT (R107). -/
def execSlt (rd ra rb : Reg) (s : State) : Out := alu2 s rd ra rb (fun a b => ofBool (a.slt b))

/-- SLTU (R107). -/
def execSltu (rd ra rb : Reg) (s : State) : Out := alu2 s rd ra rb (fun a b => ofBool (a.ult b))

/-- SEQ (R107). -/
def execSeq (rd ra rb : Reg) (s : State) : Out := alu2 s rd ra rb (fun a b => ofBool (a == b))

/-- CSEL: a when the value of rc is not 0, else b (R107). -/
def execCsel (rd rc ra rb : Reg) (s : State) : Out :=
  .next (writeX s rd (if readX s rc != 0 then readX s ra else readX s rb))

/-! ## MULDIV (R108, R109) -/

/-- MUL (R108). -/
def execMul (rd ra rb : Reg) (s : State) : Out := alu2 s rd ra rb (fun a b => a * b)

/-- Bits 127 to 64 of a product (R108). -/
def highProduct (i : Int) : W64 := BitVec.ofInt 64 (i / 2 ^ 64)

/-- MULH (R108). -/
def execMulh (rd ra rb : Reg) (s : State) : Out := alu2 s rd ra rb (fun a b => highProduct (a.toInt * b.toInt))

/-- MULHU (R108). -/
def execMulhu (rd ra rb : Reg) (s : State) : Out := alu2 s rd ra rb (fun a b => highProduct ((a.toNat * b.toNat : Nat) : Int))

/-- The thread is not ready until a cycle of its core (R109, R127): aux 0 for the divider, 1 for YIELD. -/
def busy (s : State) (n : Nat) (aux : W64) : State :=
  let til := max (me s).busyTil ((coreAt s (myCore s)).time + n)
  modMe (parkThr s (myCore s) (mySlot s) .busy 0 aux) (fun th => { th with busyTil := til })

/-- A division: DIV0 with the dividend, else the result and 24 cycles of the divider (R109). -/
def divide (s : State) (rd ra rb : Reg) (f : W64 → W64 → W64) : Out :=
  let a := readX s ra
  let b := readX s rb
  if b = 0 then trapA s cDIV0 a else .next (busy (writeX s rd (f a b)) 24 0)

/-- DIV (R109). -/
def execDiv (rd ra rb : Reg) (s : State) : Out := divide s rd ra rb (fun a b => a.sdiv b)

/-- DIVU (R109). -/
def execDivu (rd ra rb : Reg) (s : State) : Out := divide s rd ra rb (fun a b => a / b)

/-- REM (R109). -/
def execRem (rd ra rb : Reg) (s : State) : Out := divide s rd ra rb (fun a b => a.srem b)

/-- REMU (R109). -/
def execRemu (rd ra rb : Reg) (s : State) : Out := divide s rd ra rb (fun a b => a % b)

/-! ## BIT (R110) -/

/-- Leading zero bits (R110). -/
def clz64 (a : W64) : Nat := ((List.range 64).find? (fun i => a.getLsbD (63 - i))).getD 64

/-- Trailing zero bits (R110). -/
def ctz64 (a : W64) : Nat := ((List.range 64).find? (fun i => a.getLsbD i)).getD 64

/-- One bits (R110). -/
def popc64 (a : W64) : Nat := ((List.range 64).filter (fun i => a.getLsbD i)).length

/-- CLZ (R110). -/
def execClz (rd ra : Reg) (s : State) : Out := alu1 s rd ra (fun a => BitVec.ofNat 64 (clz64 a))

/-- CTZ (R110). -/
def execCtz (rd ra : Reg) (s : State) : Out := alu1 s rd ra (fun a => BitVec.ofNat 64 (ctz64 a))

/-- POPC (R110). -/
def execPopc (rd ra : Reg) (s : State) : Out := alu1 s rd ra (fun a => BitVec.ofNat 64 (popc64 a))

/-- pos and len of a field operand (R110). -/
def fieldPos (f : W64) : Nat := bits f 0 6
def fieldLen (f : W64) : Nat := min (bits f 8 7) 64

/-- EXT (R110). -/
def execExt (rd ra rb : Reg) (s : State) : Out :=
  alu2 s rd ra rb (fun a f => BitVec.ofNat 64 (a.toNat / 2 ^ fieldPos f % 2 ^ fieldLen f))

/-- The mask of a field, clipped at bit 63 (R110). -/
def fieldMask (f : W64) : W64 := BitVec.ofNat 64 ((2 ^ fieldLen f - 1) * 2 ^ fieldPos f)

/-- INS reads rd (R110). -/
def execIns (rd ra rb : Reg) (s : State) : Out :=
  let d := readX s rd
  alu2 s rd ra rb (fun a f => (d &&& ~~~fieldMask f) ||| ((a <<< fieldPos f) &&& fieldMask f))

/-- ABS (R110). -/
def execAbs (rd ra : Reg) (s : State) : Out := alu1 s rd ra (fun a => if a.msb then -a else a)

/-! ## Immediates (R111) -/

/-- ADDI (R111). -/
def execAddi (rd ra : Reg) (imm : BitVec 16) (s : State) : Out := alu1 s rd ra (fun a => a + imm.signExtend 64)

/-- ANDI (R111). -/
def execAndi (rd ra : Reg) (imm : BitVec 16) (s : State) : Out := alu1 s rd ra (fun a => a &&& imm.signExtend 64)

/-- ORI (R111). -/
def execOri (rd ra : Reg) (imm : BitVec 16) (s : State) : Out := alu1 s rd ra (fun a => a ||| imm.setWidth 64)

/-- XORI (R111). -/
def execXori (rd ra : Reg) (imm : BitVec 16) (s : State) : Out := alu1 s rd ra (fun a => a ^^^ imm.setWidth 64)

/-- SLTI (R111). -/
def execSlti (rd ra : Reg) (imm : BitVec 16) (s : State) : Out := alu1 s rd ra (fun a => ofBool (a.slt (imm.signExtend 64)))

/-- SHLI (R111). -/
def execShli (rd ra : Reg) (n : BitVec 6) (s : State) : Out := alu1 s rd ra (fun a => a <<< n.toNat)

/-- SHRI (R111). -/
def execShri (rd ra : Reg) (n : BitVec 6) (s : State) : Out := alu1 s rd ra (fun a => a >>> n.toNat)

/-- SARI (R111). -/
def execSari (rd ra : Reg) (n : BitVec 6) (s : State) : Out := alu1 s rd ra (fun a => a.sshiftRight n.toNat)

/-- MOVI (R111). -/
def execMovi (rd : Reg) (imm : BitVec 16) (s : State) : Out := .next (writeX s rd (imm.signExtend 64))

/-- MOVHI reads rd and replaces its bits 16h + 15 to 16h (R111). -/
def execMovhi (rd : Reg) (h : BitVec 2) (imm : BitVec 16) (s : State) : Out :=
  let m : W64 := 0xFFFF <<< (16 * h.toNat)
  .next (writeX s rd ((readX s rd &&& ~~~m) ||| (imm.setWidth 64 <<< (16 * h.toNat))))

/-! ## MOVL (R112) -/

/-- MOVL (R112). -/
def execMovl (rd : Reg) (imm : BitVec 32) (s : State) : Out := .next (writeX s rd (imm.signExtend 64))

/-- MOVL.U (R112). -/
def execMovlU (rd : Reg) (imm : BitVec 32) (s : State) : Out := .next (writeX s rd (imm.setWidth 64))

/-- MOVL.H reads rd and keeps its low half (R112). -/
def execMovlH (rd : Reg) (imm : BitVec 32) (s : State) : Out :=
  .next (writeX s rd ((imm.setWidth 64 <<< 32) ||| (readX s rd &&& 0xFFFFFFFF)))

/-! ## No operation (R79) -/

/-- NOP. -/
def execNop (s : State) : Out := .next s

/-- ANOP. -/
def execAnop (s : State) : Out := .next s

end Sys2Proof.Machine
end

