-- ==== Sys2Proof/WellFormed.lean ====
section
/-!
DEFINITION. Which terms of Instr stand for an encoding the spec assigns: the order codes, element formats, immediates and
zero fields that the owning chapters accept (R102). What depends on the thread's mode (R94, R148) or on the other word of
the bundle (R81) is checked when the bundle is decoded, not here.
-/

namespace Sys2Proof

/-- Lane width in bits of an element format (R98, R132). -/
def Fmt.width : Fmt → Nat
  | .b8 _ _ _ | .int8 | .uint8 => 8
  | .int16 | .uint16 | .fp16 | .bf16 => 16
  | .int32 | .uint32 | .fp32 => 32
  | .int64 | .uint64 | .bs64 => 64

/-- Integer formats with a sign. -/
def Fmt.isSInt : Fmt → Bool
  | .int8 | .int16 | .int32 | .int64 => true
  | _ => false

/-- Integer formats of R98; uint64 is FCVT's alone (R115). -/
def Fmt.isInt : Fmt → Bool
  | .int8 | .int16 | .int32 | .int64 | .uint8 | .uint16 | .uint32 => true
  | _ => false

/-- FP16, BF16 and FP32: the set F of R133. -/
def Fmt.isFloat : Fmt → Bool
  | .fp16 | .bf16 | .fp32 => true
  | _ => false

/-- A binary8 code with a precision from 1 to 7 (R98): the set B of R133. -/
def Fmt.isB8 : Fmt → Bool
  | .b8 _ _ p => p != 0
  | _ => false

/-- Every code that R98 does not reserve: the set A of R133. -/
def Fmt.isAny (f : Fmt) : Bool := f.isInt || f.isFloat || f.isB8 || f == .bs64

/-- An order code that exists: a promoting acquire has no core scope (R157, R158). -/
def Order.exists? : Order → Bool
  | .pacq .core => false
  | _ => true

/-- The codes a load accepts (R96, R158, R164). -/
def Order.forLoad : Order → Bool
  | .plain | .loose | .acq _ => true
  | .pacq s => s != .core
  | .rel _ => false

/-- The codes a store of the CM format accepts (R96). -/
def Order.forStore : Order → Bool
  | .plain | .loose | .rel _ => true
  | _ => false

/-- The codes a full/empty store accepts: 0 and 7-11 (R164). -/
def Order.forFes : Order → Bool
  | .plain | .rel _ => true
  | _ => false

/-- The codes FSTAT accepts: 0 and 2-6 (R164). -/
def Order.forFstat : Order → Bool
  | .plain | .acq _ => true
  | _ => false

/-- The codes a gather or a scatter accepts: 0 and 1 (R176). -/
def Order.forGather : Order → Bool
  | .plain | .loose => true
  | _ => false

/-- A long form leaves the short field zero (R118, R284, R295). -/
def Ext.zeroWhenLong {n : Nat} (ext : Ext) (field : BitVec n) : Bool := ext.isNone || field == 0

/-- The formats a conversion FCVT reads (R115). -/
def Fmt.forFcvt (f : Fmt) : Bool := f.isInt || f.isFloat || f.isB8 || f == .uint64

/-- The checks of R115 on FCVT. -/
def fcvtOk (d s : Fmt) (sat : Bool) : Bool :=
  d.forFcvt && s.forFcvt && !((d.isInt || d == .uint64) && (s.isInt || s == .uint64)) && (!sat || d.isB8)

/-- The checks of R144 and R145 on VCVT: dst and src are the two formats in the roles that D gives them. -/
def vcvtOk (dst src : Fmt) (sat : Bool) (q : BitVec 2) : Bool :=
  (!sat || dst.isB8 || (dst.isInt && src.isInt)) &&
  q.toNat < max (dst.width / src.width) (src.width / dst.width)

/-- A partner code of R144: 0-6 or 8-10. -/
def Fmt.forPartner (f : Fmt) : Bool := f.isInt || f.isFloat

/-- The formats fmt accepts in VCVT: B, I and F (R144). -/
def Fmt.forVcvt (f : Fmt) : Bool := f.isInt || f.isFloat || f.isB8

/-- The formats VDOT accepts (R147). -/
def Fmt.forVdot (f : Fmt) : Bool := f.isB8 || f == .int8 || f == .uint8

/-- The encoding checks of one instruction; for an event, that the objects it names exist on the device. -/
def instrOk : Instr → Bool
  | .nop => true
  | .trap _ => true
  | .rett => true
  | .gets _ _ => true
  | .sets _ _ => true
  | .tstamp _ => true
  | .waitev _ _ => true
  | .yield => true
  | .beq _ _ _ => true
  | .bne _ _ _ => true
  | .blt _ _ _ => true
  | .bge _ _ _ => true
  | .bltu _ _ _ => true
  | .bgeu _ _ _ => true
  | .br off ext => ext.zeroWhenLong off
  | .call off ext => ext.zeroWhenLong off
  | .jr _ => true
  | .callr _ => true
  | .ldb _ _ _ ord => ord.forLoad
  | .ldbu _ _ _ ord => ord.forLoad
  | .ldh _ _ _ ord => ord.forLoad
  | .ldhu _ _ _ ord => ord.forLoad
  | .ldw _ _ _ ord => ord.forLoad
  | .ldwu _ _ _ ord => ord.forLoad
  | .ldd _ _ _ ord => ord.forLoad
  | .ldv _ _ _ ord => ord.forLoad
  | .stb _ _ _ ord => ord.forStore
  | .sth _ _ _ ord => ord.forStore
  | .stw _ _ _ ord => ord.forStore
  | .std _ _ _ ord => ord.forStore
  | .stv _ _ _ ord => ord.forStore
  | .ldwF _ _ ord _ => ord.forLoad
  | .lddF _ _ ord _ => ord.forLoad
  | .ldwT _ _ ord _ => ord.forLoad
  | .lddT _ _ ord _ => ord.forLoad
  | .stwE _ _ ord _ => ord.forFes
  | .stdE _ _ ord _ => ord.forFes
  | .stwX _ _ ord _ => ord.forFes
  | .stdX _ _ ord _ => ord.forFes
  | .fempty _ ord _ => ord.forFes
  | .fstat _ _ ord _ => ord.forFstat
  | .amoadd _ _ _ ord _ _ => ord.exists?
  | .amoand _ _ _ ord _ _ => ord.exists?
  | .amoor _ _ _ ord _ _ => ord.exists?
  | .amoxor _ _ _ ord _ _ => ord.exists?
  | .amomin _ _ _ ord _ _ => ord.exists?
  | .amomax _ _ _ ord _ _ => ord.exists?
  | .amominu _ _ _ ord _ _ => ord.exists?
  | .amomaxu _ _ _ ord _ _ => ord.exists?
  | .amoswap _ _ _ ord _ _ => ord.exists?
  | .amocas _ _ _ ord _ _ => ord.exists?
  | .amoCombine core slot core2 slot2 => core < 5120 && slot < 16 && core2 < 5120 && slot2 < 16
  | .fence _ => true
  | .xfence frm tgt _ => frm != 0 && tgt != 0
  | .vgath _ _ _ ord _ _ _ => ord.forGather
  | .vscat _ _ _ ord _ _ _ => ord.forGather
  | .sptst _ _ => true
  | .spcast _ _ => true
  | .vpin _ _ lvl => lvl.toNat ≤ 4
  | .cpy rd _ _ dk _ => (dk != 1 && dk != 2) || rd == 0
  | .cpys rd _ _ dk _ => (dk != 1 && dk != 2) || rd == 0
  | .copyStart cluster chan => cluster < 160 && chan < 8
  | .copyComplete cluster chan => cluster < 160 && chan < 8
  | .cpwaitany _ _ => true
  | .cpwaitall _ => true
  | .cpfirst _ _ => true
  | .cpclr _ => true
  | .scanq _ _ => true
  | .scanComplete _ _ => true
  | .annc _ _ _ ext => ext.toNat < 2 ^ 18
  | .want _ _ _ ext => ext.toNat < 2 ^ 23
  | .retrc _ _ => true
  | .portUnbind _ _ _ _ => true
  | .portNeighbour _ _ _ _ => true
  | .portMbrecv _ _ _ _ => true
  | .portMbsend _ _ _ _ => true
  | .portArraycmd _ _ _ _ => true
  | .portArrayres _ _ _ _ => true
  | .portMbdef _ _ _ _ => true
  | .qstat _ _ => true
  | .neighbourArrival core _ => core < 5120
  | .mbReservation core slot => core < 5120 && slot < 16
  | .mbReservationResend core slot => core < 5120 && slot < 16
  | .qwatchExpiry core slot => core < 5120 && slot < 16
  | .queueProbe _ => true
  | .rinit _ _ _ _ => true
  | .racq _ _ _ => true
  | .rcommit _ _ _ => true
  | .rpeek _ _ _ => true
  | .rrel _ _ => true
  | .racqResend core slot => core < 5120 && slot < 16
  | .lease => true
  | .lrel => true
  | .mhset _ _ => true
  | .rowdone _ => true
  | .leaseExpiry cluster => cluster < 160
  | .arrayCommandCheck cluster => cluster < 160
  | .arrayChunkComplete cluster => cluster < 160
  | .rowLanding cluster => cluster < 160
  | .arrayStatusPush cluster => cluster < 160
  | .spawn _ _ rb ext => ext.zeroWhenLong rb
  | .quit => true
  | .fork _ _ sc _ => sc != .core && sc != .system
  | .join _ => true
  | .migr _ => true
  | .anchor _ => true
  | .startMessage _ => true
  | .startResend core slot => core < 5120 && slot < 16
  | .slotLoaded core slot => core < 5120 && slot < 16
  | .migrArrival _ => true
  | .amsend _ rb _ ext => ext.zeroWhenLong rb
  | .amsendRetry _ => true
  | .kernelRelaunch ctx => ctx < 4096
  | .kernelComplete ctx => ctx < 4096
  | .barinit _ _ _ => true
  | .bararr _ _ _ => true
  | .barwait _ _ _ => true
  | .baraw _ _ _ => true
  | .semp _ _ => true
  | .semv _ _ => true
  | .barrierWake _ => true
  | .syncTimeout core slot => core < 5120 && slot < 16
  | .gang _ => true
  | .ungang => true
  | .twin _ => true
  | .untwin => true
  | .killThread _ _ _ => true
  | .killContext _ _ _ => true
  | .wake _ _ => true
  | .resumeRetry _ _ _ => true
  | .resumeSkip _ _ _ => true
  | .resumeHandler _ _ _ => true
  | .preempt _ _ => true
  | .mapset _ _ _ => true
  | .mapinvUnmap _ _ _ => true
  | .mapinvRetire _ _ _ => true
  | .pghotRead _ _ _ => true
  | .pghotHalve _ _ _ => true
  | .pghotClear _ _ _ => true
  | .pghotPromote _ _ _ => true
  | .tlbflPage _ _ _ => true
  | .tlbflGlobal _ _ _ => true
  | .tlbflPrivate _ _ _ => true
  | .tlbflContext _ _ _ => true
  | .tlbflDevice _ _ _ => true
  | .tlbEvict core _ => core < 5120
  | .swapComplete _ => true
  | .bankret _ _ => true
  | .bankretDomain _ _ => true
  | .bankq _ _ => true
  | .evacLineCopy _ _ _ => true
  | .evacSwitchover _ _ _ => true
  | .drainHorizon _ _ _ => true
  | .vigilEntry cluster => cluster < 160
  | .vigilExit cluster => cluster < 160
  | .lkctlEnable _ _ _ => true
  | .lkctlDisable _ _ _ => true
  | .lkctlRetrain _ _ _ => true
  | .lkctlWriteRoute _ _ _ => true
  | .lkctlClearLoss _ _ _ => true
  | .lkctlRevive _ _ _ => true
  | .lkqStatus _ _ => true
  | .lkqCap _ _ => true
  | .lkqLoss _ _ => true
  | .lkqRoute _ _ => true
  | .lkqWindow _ _ => true
  | .namerouteWriteRoute _ _ _ => true
  | .namerouteReadRoute _ _ _ => true
  | .namerouteSetTarn _ _ _ => true
  | .namerouteReadDrops _ _ _ => true
  | .movl _ _ => true
  | .movlU _ _ => true
  | .movlH _ _ => true
  | .anop => true
  | .add _ _ _ => true
  | .sub _ _ _ => true
  | .and _ _ _ => true
  | .or _ _ _ => true
  | .xor _ _ _ => true
  | .shl _ _ _ => true
  | .shr _ _ _ => true
  | .sar _ _ _ => true
  | .rol _ _ _ => true
  | .min _ _ _ => true
  | .max _ _ _ => true
  | .minu _ _ _ => true
  | .maxu _ _ _ => true
  | .slt _ _ _ => true
  | .sltu _ _ _ => true
  | .seq _ _ _ => true
  | .csel _ _ _ _ => true
  | .mul _ _ _ => true
  | .mulh _ _ _ => true
  | .mulhu _ _ _ => true
  | .div _ _ _ => true
  | .divu _ _ _ => true
  | .rem _ _ _ => true
  | .remu _ _ _ => true
  | .dividerDone core slot => core < 5120 && slot < 16
  | .clz _ _ => true
  | .ctz _ _ => true
  | .popc _ _ => true
  | .ext _ _ _ => true
  | .ins _ _ _ => true
  | .abs _ _ => true
  | .addi _ _ _ => true
  | .andi _ _ _ => true
  | .ori _ _ _ => true
  | .xori _ _ _ => true
  | .shli _ _ _ => true
  | .shri _ _ _ => true
  | .sari _ _ _ => true
  | .movi _ _ => true
  | .movhi _ _ _ => true
  | .slti _ _ _ => true
  | .fadd _ _ _ _ => true
  | .fsub _ _ _ _ => true
  | .fmul _ _ _ _ => true
  | .ffma _ _ _ _ _ => true
  | .fmin _ _ _ _ => true
  | .fmax _ _ _ _ => true
  | .fcmpeq _ _ _ _ => true
  | .fcmplt _ _ _ _ => true
  | .fcmple _ _ _ _ => true
  | .fsgn _ _ _ _ kind => kind != 3
  | .fcvt _ _ dfmt sfmt sat => fcvtOk dfmt sfmt sat
  | .fexp2 _ _ _ => true
  | .flog2 _ _ _ => true
  | .frcp _ _ _ => true
  | .frsq _ _ _ => true
  | .fsqrt _ _ _ => true
  | .ftanh _ _ _ => true
  | .fsin _ _ _ => true
  | .fcos _ _ _ => true
  | .vfexp2 _ _ _ fmt => fmt.isFloat
  | .vflog2 _ _ _ fmt => fmt.isFloat
  | .vfrcp _ _ _ fmt => fmt.isFloat
  | .vfrsq _ _ _ fmt => fmt.isFloat
  | .vfsqrt _ _ _ fmt => fmt.isFloat
  | .vftanh _ _ _ fmt => fmt.isFloat
  | .vfsin _ _ _ fmt => fmt.isFloat
  | .vfcos _ _ _ fmt => fmt.isFloat
  | .sfuResult core => core < 5120
  | .vadd _ _ _ _ fmt => fmt.isInt
  | .vsub _ _ _ _ fmt => fmt.isInt
  | .vmul _ _ _ _ fmt => fmt.isInt
  | .vmulh _ _ _ _ fmt => fmt.isInt
  | .vmin _ _ _ _ fmt => fmt.isInt
  | .vmax _ _ _ _ fmt => fmt.isInt
  | .vabs _ _ _ fmt => fmt.isSInt
  | .vsadd _ _ _ _ fmt => fmt.isInt
  | .vand _ _ _ _ fmt => fmt.isInt
  | .vor _ _ _ _ fmt => fmt.isInt
  | .vxor _ _ _ _ fmt => fmt.isInt
  | .vandn _ _ _ _ fmt => fmt.isInt
  | .vnot _ _ _ fmt => fmt.isInt
  | .vshl _ _ _ _ fmt => fmt.isInt
  | .vshr _ _ _ _ fmt => fmt.isInt
  | .vsar _ _ _ _ fmt => fmt.isInt
  | .vfadd _ _ _ _ fmt => fmt.isFloat
  | .vfsub _ _ _ _ fmt => fmt.isFloat
  | .vfmul _ _ _ _ fmt => fmt.isFloat
  | .vfma _ _ _ _ fmt => fmt.isFloat
  | .vfmin _ _ _ _ fmt => fmt.isFloat
  | .vfmax _ _ _ _ fmt => fmt.isFloat
  | .vfabs _ _ _ fmt => fmt.isFloat
  | .vfneg _ _ _ fmt => fmt.isFloat
  | .vcmpEq _ _ _ _ fmt => fmt.isInt || fmt.isFloat
  | .vcmpNe _ _ _ _ fmt => fmt.isInt || fmt.isFloat
  | .vcmpLt _ _ _ _ fmt => fmt.isSInt
  | .vcmpLe _ _ _ _ fmt => fmt.isSInt
  | .vcmpLtu _ _ _ _ fmt => fmt.isInt
  | .vcmpLeu _ _ _ _ fmt => fmt.isInt
  | .vcmpFlt _ _ _ _ fmt => fmt.isFloat
  | .vcmpFle _ _ _ _ fmt => fmt.isFloat
  | .vsel _ _ _ _ fmt => fmt.isAny
  | .vsplat _ _ _ fmt => fmt.isAny
  | .vperm _ _ _ _ fmt => fmt.isAny
  | .vcomp _ _ _ fmt => fmt.isAny
  | .vexpd _ _ _ fmt => fmt.isAny
  | .vshuf _ _ _ _ fmt => fmt.isAny
  | .vrot _ _ _ _ fmt => fmt.isAny
  | .vrev _ _ _ fmt => fmt.isAny
  | .vredadd _ _ _ fmt => fmt.isInt || fmt.isFloat
  | .vredmax _ _ _ fmt => fmt.isInt || fmt.isFloat
  | .vredmin _ _ _ fmt => fmt.isInt || fmt.isFloat
  | .vredand _ _ _ fmt => fmt.isInt
  | .vredor _ _ _ fmt => fmt.isInt
  | .vcvt _ _ sat partner _ fmt srcIsFmt q => partner.forPartner && fmt.forVcvt &&
      (if srcIsFmt then vcvtOk partner fmt sat q else vcvtOk fmt partner sat q)
  | .vdot4 _ _ _ _ fmt => fmt.forVdot
  | .vdota _ _ _ _ fmt => fmt.forVdot
  | .vgetl _ _ k fmt => fmt.isAny && k.toNat < 256 / fmt.width
  | .vsetl _ _ k fmt => fmt.isAny && k.toNat < 256 / fmt.width
  | .bsalign _ _ => true
  | .scaccL _ _ _ _ => true
  | .scaccH _ _ _ _ => true
  | .bsnormL _ _ _ => true
  | .bsnormH _ _ _ => true
  | .bsnormR _ _ _ => true
  | .ppinit _ _ => true
  | .ppmul _ _ _ => true
  | .ppmulv _ _ _ _ => true
  | .ppdiv _ _ _ => true
  | .ppmerge _ _ _ => true
  | .pprd _ _ g _ => g.toNat ≤ 15
  | .ppld _ _ g _ => g.toNat ≤ 15
  | .ppexp _ _ => true
  | .ppnorm _ => true
  | .ppaOpComplete core => core < 5120
  | .mand _ _ _ => true
  | .mor _ _ _ => true
  | .mnot _ _ => true
  | .mpopc _ _ _ => true
  | .mfirst _ _ _ => true
  | .mset _ _ => true
  | .mget _ _ => true
  | .resultArrival core slot _ => core < 5120 && slot < 16
  | .accessComplete core slot => core < 5120 && slot < 16
  | .looseBufferDrain core => core < 5120
  | .drainRequest core slot => core < 5120 && slot < 16
  | .feRequestArrival core slot _ => core < 5120 && slot < 16
  | .feResend core slot _ => core < 5120 && slot < 16
  | .feTimeout core slot _ => core < 5120 && slot < 16
  | .feCancel core slot _ => core < 5120 && slot < 16
  | .eventTimeout core slot => core < 5120 && slot < 16
  | .requestReissue core slot _ => core < 5120 && slot < 16
  | .requestFail core slot _ => core < 5120 && slot < 16
  | .identityExpiry _ => true
  | .supervisorMessageRetry _ => true
  | .preemptRequest core => core < 5120
  | .threadHalt core slot => core < 5120 && slot < 16
  | .imageDone ctx => ctx < 4096
  | .arraySpillDone cluster => cluster < 160
  | .coreBlockLoaded core => core < 5120
  | .ueKill core slot => core < 5120 && slot < 16
  | .poison ctx _ => ctx < 4096
  | .claimWipeComplete core => core < 5120
  | .groupExit core => core < 5120
  | .engineWriteDrop cluster chan => cluster < 160 && chan < 8
  | .interestArrival _ => true
  | .tileDelivery _ => true
  | .interestExpiry cluster _ => cluster < 160
  | .neverProduced cluster _ => cluster < 160
  | .purgeAck _ => true
  | .linkUp cxl port _ _ => port < (if cxl then 4 else 16)
  | .trainingTimeout cxl port => port < (if cxl then 4 else 16)
  | .llrReplay port _ _ => port < 16
  | .rudRetransmit port _ => port < 16
  | .peerFailed dev => dev < 512
  | .packetDrop _ _ => true
  | .ycpCreate y => y.ctx < 4096 && y.port < 16
  | .ycpLaunch y => y.ctx < 4096 && y.port < 16
  | .ycpAmsend y => y.ctx < 4096 && y.port < 16
  | .ycpKill y => y.ctx < 4096 && y.port < 16
  | .ycpPreempt y => y.ctx < 4096 && y.port < 16
  | .ycpRestore y => y.ctx < 4096 && y.port < 16
  | .ycpShrink y => y.ctx < 4096 && y.port < 16
  | .ycpWrite y => y.ctx < 4096 && y.port < 16
  | .ycpRead y => y.ctx < 4096 && y.port < 16
  | .budgetWrite y => y.ctx < 4096 && y.port < 16
  | .budgetRead y => y.ctx < 4096 && y.port < 16
  | .identity y => y.ctx < 4096 && y.port < 16
  | .attest y => y.ctx < 4096 && y.port < 16
  | .lifeCycleChange cmd _ _ => cmd.port < 16
  | .powerGood _ => true
  | .dieReady die => die < 4
  | .cxlReady found => found.port < 4
  | .warmReset => true
  | .coldReset _ => true
  | .operatingPointChange cluster point => cluster < 160 && point < 3
  | .budgetStep cluster _ => cluster < 160
  | .dieGate die => die < 4
  | .dieUngate die => die < 4
  | .yieldExpiry core slot => core < 5120 && slot < 16
  | .cpwTimeout core slot => core < 5120 && slot < 16
  | .vigilDecodeComplete cluster => cluster < 160
  | .operatingPointSettled cluster => cluster < 160
  | .stackReady stack => stack < 12
  | .remoteRequest dev port ctx _ => ctx < 4096 && dev < 512 && port < 16
  | .llrAcknowledgement port _ => port < 16

/-- The term stands for an encoding, or names an event of the device. -/
def WellFormed (i : Instr) : Prop := instrOk i = true

end Sys2Proof
end

