-- ==== Sys2Proof/Decode.lean ====
section
/-!
DEFINITION. Decoding: from the two words of a bundle to its instructions, total, every rejection under a name with the
word that R428 blames; and the encoder written from the same tables. The formats are those of R95 and R97, the majors
those of R99 and R100.
The compiler of Lean holds at most 244 constructors with fields; Instr has more, so what builds instructions is
noncomputable: the kernel evaluates it, the compiler emits no code for it.
-/

noncomputable section

namespace Sys2Proof

/-- Why a word or a bundle is no instruction (R102). -/
inductive Reject where
  /-- A C-major or A-major of the reserved ranges. -/
  | reservedMajor
  /-- An fn or op value the owning chapter does not assign. -/
  | reservedOp
  /-- A nonzero bit in a field the instruction does not use. -/
  | reservedField
  /-- A reserved fmt, or one the op does not accept (R98). -/
  | badFormat
  /-- Scope 5-7, or a scope or order code illegal for the access (R96, R157). -/
  | badOrder
  /-- An immediate outside the values the owning chapter gives (a lane, a group of coefficients, a part, a level). -/
  | badImmediate
  /-- L = 1 on an instruction without a long form (R80). -/
  | noLongForm
  /-- L = 0 on an instruction that always carries its extension. -/
  | needsLongForm
  /-- A short field that the long form leaves zero is not (R96, R118). -/
  | longField
  /-- A nonzero extension bit the owning chapter leaves unused (R80). -/
  | extensionBits
  /-- The destination of a long-latency result is a port (R85). -/
  | latePort
  /-- A shared vector field in a ganged instruction (R94). -/
  | gangShared
  /-- Both words write one register (R81). -/
  | doubleWrite
  /-- RETT beside an A-word other than ANOP (R123). -/
  | rettPair
  deriving DecidableEq, Repr

/-- An illegal bundle: the word R428 names (0 the C-word, 1 the A-word) and why. -/
structure Illegal where
  word : Nat
  why  : Reject
  deriving DecidableEq, Repr

/-- A bundle: the switch marker, the C-instruction, and the A-instruction, ANOP when word 1 is an extension (R78). -/
structure Bundle where
  s : Bool
  c : Instr
  a : Instr
  deriving DecidableEq, Repr

/-! ## Fields -/

/-- n bits of w from bit lo upward. -/
def fld (w lo n : Nat) : Nat := w / 2 ^ lo % 2 ^ n

/-- A bit of a word. -/
def bit (w k : Nat) : Bool := fld w k 1 == 1

/-- A register field at bit lo. -/
def regAt (w lo : Nat) : Reg := BitVec.ofNat 5 (fld w lo 5)

/-- Go on when a condition holds, reject by name otherwise. -/
def need {α : Type} (c : Bool) (r : Reject) (k : Except Reject α) : Except Reject α := if c then k else .error r

/-- Word of the CR format (R95); S is added by the bundle. -/
def packCR (l : Bool) (maj rd ra rb fn : Nat) : Nat :=
  (if l then 2 ^ 31 else 0) + maj * 2 ^ 24 + rd * 2 ^ 19 + ra * 2 ^ 14 + rb * 2 ^ 9 + fn

/-- Word of the CM format (R95). -/
def packCM (l : Bool) (maj rd base lo scope ord off : Nat) : Nat :=
  (if l then 2 ^ 31 else 0) + maj * 2 ^ 24 + rd * 2 ^ 19 + base * 2 ^ 14 + lo * 2 ^ 13 + scope * 2 ^ 10 + ord * 2 ^ 8
    + off

/-- Word of the CB format (R95). -/
def packCB (maj ra rb off : Nat) : Nat := maj * 2 ^ 24 + ra * 2 ^ 19 + rb * 2 ^ 14 + off

/-- Word of the CJ format (R95). -/
def packCJ (l : Bool) (maj link off : Nat) : Nat := (if l then 2 ^ 31 else 0) + maj * 2 ^ 24 + link * 2 ^ 23 + off

/-- Word of the AR format (R97). -/
def packAR (maj rd ra rb fn : Nat) : Nat := maj * 2 ^ 26 + rd * 2 ^ 21 + ra * 2 ^ 16 + rb * 2 ^ 11 + fn

/-- Word of the AI format (R97). -/
def packAI (maj rd ra imm : Nat) : Nat := maj * 2 ^ 26 + rd * 2 ^ 21 + ra * 2 ^ 16 + imm

/-- Word of the AV format (R97). -/
def packAV (maj vd va vb m fmt op : Nat) : Nat :=
  maj * 2 ^ 26 + vd * 2 ^ 21 + va * 2 ^ 16 + vb * 2 ^ 11 + m * 2 ^ 9 + fmt * 2 ^ 3 + op

/-! ## Operand codes -/

/-- The number of a scope (R96). -/
def Scope.code : Scope → Nat
  | .core => 0 | .cluster => 1 | .die => 2 | .device => 3 | .system => 4

/-- The scope a number names (R96). -/
def scopeOf : Nat → Option Scope
  | 0 => some .core | 1 => some .cluster | 2 => some .die | 3 => some .device | 4 => some .system
  | _ => none

/-- The 4-bit order code (R157). -/
def Order.code : Order → Nat
  | .plain => 0
  | .loose => 1
  | .acq s => 2 + s.code
  | .rel s => 7 + s.code
  | .pacq s => 11 + s.code

/-- The order a 4-bit code names (R157). -/
def orderOf : Nat → Order
  | 0 => .plain
  | 1 => .loose
  | 2 => .acq .core | 3 => .acq .cluster | 4 => .acq .die | 5 => .acq .device | 6 => .acq .system
  | 7 => .rel .core | 8 => .rel .cluster | 9 => .rel .die | 10 => .rel .device | 11 => .rel .system
  | 12 => .pacq .cluster | 13 => .pacq .die | 14 => .pacq .device
  | _ => .pacq .system

/-- The order that lo, scope and ord give in the CM format, when they are legal together (R96, R158). -/
def orderOfCM (lo scope ord : Nat) : Option Order :=
  if lo = 1 then (if ord = 0 ∧ scope = 0 then some .loose else none)
  else if ord = 0 then (if scope = 0 then some .plain else none)
  else match scopeOf scope with
    | none => none
    | some s =>
      if ord = 1 then some (.acq s)
      else if ord = 2 then some (.rel s)
      else if s = .core then none else some (.pacq s)

/-- lo, scope and ord of an order in the CM format (R158). -/
def Order.cm : Order → Nat × Nat × Nat
  | .plain => (0, 0, 0)
  | .loose => (1, 0, 0)
  | .acq s => (0, s.code, 1)
  | .rel s => (0, s.code, 2)
  | .pacq s => (0, s.code, 3)

/-- The fmt selector of a format (R98, R115). -/
def Fmt.code : Fmt → Nat
  | .b8 sgn inf p => 32 + (if sgn then 16 else 0) + (if inf then 8 else 0) + p.toNat
  | .int8 => 0 | .int16 => 1 | .int32 => 2 | .int64 => 3
  | .uint8 => 4 | .uint16 => 5 | .uint32 => 6 | .uint64 => 7
  | .fp16 => 8 | .bf16 => 9 | .fp32 => 10
  | .bs64 => 16

/-- The format a selector names (R98); 7 is read as UINT64, which only FCVT accepts (R115). -/
def fmtOf (n : Nat) : Option Fmt :=
  if n ≥ 32 then
    (if n % 8 = 0 then none else some (.b8 (bit n 4) (bit n 3) (BitVec.ofNat 3 (n % 8))))
  else match n with
    | 0 => some .int8 | 1 => some .int16 | 2 => some .int32 | 3 => some .int64
    | 4 => some .uint8 | 5 => some .uint16 | 6 => some .uint32 | 7 => some .uint64
    | 8 => some .fp16 | 9 => some .bf16 | 10 => some .fp32
    | 16 => some .bs64
    | _ => none

/-- The field F of R113. -/
def FForm.code : FForm → Nat
  | .fp32 => 0 | .fp16 => 1 | .bf16 => 2

/-- The form a value of F names (R113). -/
def fformOf : Nat → Option FForm
  | 0 => some .fp32 | 1 => some .fp16 | 2 => some .bf16
  | _ => none

/-- The number of a state register (R130). -/
def SReg.number : SReg → Nat
  | .seat => 0x000 | .ctx => 0x001 | .tid => 0x002 | .time => 0x003 | .mode => 0x004
  | .tags => 0x008 | .tagerr => 0x009 | .events => 0x00A | .fewait => 0x00B | .qwatch => 0x00C | .lease => 0x00D
  | .fflags => 0x010 | .fenab => 0x011 | .pdeg => 0x012
  | .tl => 0x020 | .epc1 => 0x021 | .epc2 => 0x022 | .ecause1 => 0x023 | .ecause2 => 0x024
  | .eaddr1 => 0x025 | .eaddr2 => 0x026 | .estat1 => 0x027 | .estat2 => 0x028 | .hbase => 0x029
  | .part => 0x030 | .cappool => 0x031 | .capslice => 0x032 | .caphbm => 0x033

/-- The state register a number names; every other number is reserved (R130). -/
def sregOf : Nat → Option SReg
  | 0x000 => some .seat | 0x001 => some .ctx | 0x002 => some .tid | 0x003 => some .time | 0x004 => some .mode
  | 0x008 => some .tags | 0x009 => some .tagerr | 0x00A => some .events | 0x00B => some .fewait
  | 0x00C => some .qwatch | 0x00D => some .lease
  | 0x010 => some .fflags | 0x011 => some .fenab | 0x012 => some .pdeg
  | 0x020 => some .tl | 0x021 => some .epc1 | 0x022 => some .epc2 | 0x023 => some .ecause1 | 0x024 => some .ecause2
  | 0x025 => some .eaddr1 | 0x026 => some .eaddr2 | 0x027 => some .estat1 | 0x028 => some .estat2
  | 0x029 => some .hbase
  | 0x030 => some .part | 0x031 => some .cappool | 0x032 => some .capslice | 0x033 => some .caphbm
  | _ => none

/-- Go on with the value of an option, reject by name when there is none. -/
def withSome {α β : Type} (o : Option α) (r : Reject) (k : α → Except Reject β) : Except Reject β :=
  match o with
  | some a => k a
  | none => .error r

/-- A field that the instruction leaves zero (R7). -/
def zero (w lo n : Nat) (k : Except Reject Instr) : Except Reject Instr := need (fld w lo n == 0) .reservedField k

/-- The destination of a long-latency result is no port (R85): y12-y15 and s12-s15 are fields 28-31 (R90). -/
def noPort (rd : Reg) (k : Except Reject Instr) : Except Reject Instr := need (decide (rd.toNat < 28)) .latePort k

/-! ## C-words -/

/-- SYS (R121). -/
def decodeSys (w : Nat) : Except Reject Instr :=
  match fld w 0 9 with
  | 0 => .ok (.trap (BitVec.ofNat 15 (fld w 9 15)))
  | 1 => zero w 9 15 (.ok .rett)
  | 2 => withSome (sregOf (fld w 9 10)) .reservedOp (fun n => .ok (.gets (regAt w 19) n))
  | 3 => withSome (sregOf (fld w 9 10)) .reservedOp (fun n => .ok (.sets n (regAt w 19)))
  | 4 => zero w 9 10 (.ok (.tstamp (regAt w 19)))
  | 5 => zero w 9 5 (.ok (.waitev (regAt w 19) (regAt w 14)))
  | 6 => zero w 9 15 (.ok .yield)
  | _ => .error .reservedOp

/-- The offset of a CM word: off must be zero in the long form (R96). -/
def decodeOff (l : Bool) (w ext : Nat) (k : Off → Except Reject Instr) : Except Reject Instr :=
  if l then need (fld w 0 8 == 0) .longField (k (.long (BitVec.ofNat 32 ext)))
  else k (.short (BitVec.ofNat 8 (fld w 0 8)))

/-- Loads and stores (R159). -/
def decodeCM (l : Bool) (w ext : Nat) (mk : Reg → Reg → Off → Order → Instr) (accepts : Order → Bool) (late : Bool) :
    Except Reject Instr :=
  withSome (orderOfCM (fld w 13 1) (fld w 10 3) (fld w 8 2)) .badOrder fun o =>
    need (accepts o) .badOrder
      (need (!late || decide (fld w 19 5 < 28)) .latePort
        (decodeOff l w ext fun off => .ok (mk (regAt w 19) (regAt w 14) off o)))

/-- The extension of a CR memory instruction (R155): every fn value has a long form. -/
def extOf (l : Bool) (ext : Nat) : Ext := if l then some (BitVec.ofNat 32 ext) else none

/-- FEL and FES share their layout (R164). -/
def decodeFe (l : Bool) (w ext : Nat) (load : Bool) : Except Reject Instr :=
  let o := orderOf (fld w 5 4)
  let rd := regAt w 19
  let ra := regAt w 14
  let x := extOf l ext
  let lateOk : Except Reject Instr → Except Reject Instr :=
    fun k => need (decide (rd.toNat < 28) || o != .loose) .latePort k
  zero w 9 5 <| zero w 3 2 <|
    if load then
      match fld w 0 3 with
      | 0 => need o.forLoad .badOrder (lateOk (.ok (.ldwF rd ra o x)))
      | 1 => need o.forLoad .badOrder (lateOk (.ok (.lddF rd ra o x)))
      | 2 => need o.forLoad .badOrder (lateOk (.ok (.ldwT rd ra o x)))
      | 3 => need o.forLoad .badOrder (lateOk (.ok (.lddT rd ra o x)))
      | _ => .error .reservedOp
    else
      match fld w 0 3 with
      | 0 => need o.forFes .badOrder (.ok (.stwE rd ra o x))
      | 1 => need o.forFes .badOrder (.ok (.stdE rd ra o x))
      | 2 => need o.forFes .badOrder (.ok (.stwX rd ra o x))
      | 3 => need o.forFes .badOrder (.ok (.stdX rd ra o x))
      | 4 => zero w 19 5 (need o.forFes .badOrder (.ok (.fempty ra o x)))
      | 5 => need o.forFstat .badOrder (.ok (.fstat rd ra o x))
      | _ => .error .reservedOp

/-- AMO (R169). -/
def decodeAmo (l : Bool) (w ext : Nat) : Except Reject Instr :=
  let o := orderOf (fld w 5 4)
  let rd := regAt w 19
  let ra := regAt w 14
  let rb := regAt w 9
  let w4 := bit w 4
  let x := extOf l ext
  match fld w 0 4 with
  | 0 => noPort rd (.ok (.amoadd rd ra rb o w4 x))
  | 1 => noPort rd (.ok (.amoand rd ra rb o w4 x))
  | 2 => noPort rd (.ok (.amoor rd ra rb o w4 x))
  | 3 => noPort rd (.ok (.amoxor rd ra rb o w4 x))
  | 4 => noPort rd (.ok (.amomin rd ra rb o w4 x))
  | 5 => noPort rd (.ok (.amomax rd ra rb o w4 x))
  | 6 => noPort rd (.ok (.amominu rd ra rb o w4 x))
  | 7 => noPort rd (.ok (.amomaxu rd ra rb o w4 x))
  | 8 => noPort rd (.ok (.amoswap rd ra rb o w4 x))
  | 9 => noPort rd (.ok (.amocas rd ra rb o w4 x))
  | _ => .error .reservedOp

/-- VGATH and VSCAT (R176). -/
def decodeGather (l : Bool) (w ext : Nat) : Except Reject Instr :=
  let o := orderOf (fld w 5 4)
  let sz := BitVec.ofNat 2 (fld w 3 2)
  let m := BitVec.ofNat 2 (fld w 1 2)
  need o.forGather .badOrder
    (if bit w 0 then .ok (.vscat (regAt w 19) (regAt w 14) (regAt w 9) o sz m (extOf l ext))
     else noPort (regAt w 19) (.ok (.vgath (regAt w 19) (regAt w 14) (regAt w 9) o sz m (extOf l ext))))

/-- SPACE (R178). -/
def decodeSpace (w : Nat) : Except Reject Instr :=
  zero w 9 5 <| zero w 6 3 <|
    match fld w 0 3 with
    | 0 => zero w 3 3 (.ok (.sptst (regAt w 19) (regAt w 14)))
    | 1 => zero w 3 3 (.ok (.spcast (regAt w 19) (regAt w 14)))
    | 2 => need (fld w 3 3 ≤ 4) .badImmediate (.ok (.vpin (regAt w 19) (regAt w 14) (BitVec.ofNat 3 (fld w 3 3))))
    | _ => .error .reservedOp

/-- CPY and CPYS (R181). -/
def decodeCpy (w : Nat) : Except Reject Instr :=
  let dk := BitVec.ofNat 2 (fld w 6 2)
  need ((dk != 1 && dk != 2) || fld w 19 5 == 0) .reservedField
    (if bit w 8 then .ok (.cpys (regAt w 19) (regAt w 14) (regAt w 9) dk (BitVec.ofNat 6 (fld w 0 6)))
     else .ok (.cpy (regAt w 19) (regAt w 14) (regAt w 9) dk (BitVec.ofNat 6 (fld w 0 6))))

/-- CPW (R184). -/
def decodeCpw (w : Nat) : Except Reject Instr :=
  zero w 9 5 <| zero w 2 7 <|
    match fld w 0 2 with
    | 0 => .ok (.cpwaitany (regAt w 19) (regAt w 14))
    | 1 => zero w 19 5 (.ok (.cpwaitall (regAt w 14)))
    | 2 => .ok (.cpfirst (regAt w 19) (regAt w 14))
    | _ => zero w 19 5 (.ok (.cpclr (regAt w 14)))

/-- NAME (R367 to R369). -/
def decodeName (l : Bool) (w ext : Nat) : Except Reject Instr :=
  match fld w 6 3 with
  | 0 => need l .needsLongForm <| zero w 0 6 <| need (decide (ext < 2 ^ 18)) .extensionBits
      (.ok (.annc (regAt w 19) (regAt w 14) (regAt w 9) (BitVec.ofNat 32 ext)))
  | 1 => need l .needsLongForm <| zero w 19 5 <| need (decide (ext < 2 ^ 23)) .extensionBits
      (.ok (.want (regAt w 14) (regAt w 9) (BitVec.ofNat 6 (fld w 0 6)) (BitVec.ofNat 32 ext)))
  | 2 => need (!l) .noLongForm <| zero w 9 10
      (.ok (.retrc (regAt w 19) (BitVec.ofNat 6 (fld w 0 6))))
  | _ => .error .reservedOp

/-- PORT and QSTAT (R264). The seven PORT rows share one encoding: the binding word in ra, read when the bundle
executes, decides among them (log 11, DEDUCED). -/
def decodePort (w : Nat) : Except Reject Instr :=
  let q := BitVec.ofNat 2 (fld w 0 2)
  zero w 2 4 <|
    match fld w 6 3 with
    | 0 => .ok (.portUnbind (regAt w 19) q (regAt w 14) (regAt w 9))
    | 1 => zero w 9 10 (noPort (regAt w 19) (.ok (.qstat (regAt w 19) q)))
    | _ => .error .reservedOp

/-- RING (R275). -/
def decodeRing (w : Nat) : Except Reject Instr :=
  zero w 6 3 <|
    withSome (scopeOf (fld w 3 3)) .badOrder fun sc =>
      match fld w 0 3 with
      | 0 => .ok (.rinit (regAt w 19) (regAt w 14) (regAt w 9) sc)
      | 1 => zero w 9 5 (.ok (.racq (regAt w 19) (regAt w 14) sc))
      | 2 => zero w 9 5 (.ok (.rcommit (regAt w 19) (regAt w 14) sc))
      | 3 => zero w 9 5 (.ok (.rpeek (regAt w 19) (regAt w 14) sc))
      | 4 => zero w 9 5 (zero w 19 5 (.ok (.rrel (regAt w 14) sc)))
      | _ => .error .reservedOp

/-- MTX (R191). -/
def decodeMtx (w : Nat) : Except Reject Instr :=
  match fld w 0 9 with
  | 0 => zero w 9 15 (.ok .lease)
  | 1 => zero w 9 15 (.ok .lrel)
  | 2 => zero w 19 5 (.ok (.mhset (regAt w 14) (regAt w 9)))
  | 3 => zero w 19 5 (zero w 9 5 (.ok (.rowdone (regAt w 14))))
  | _ => .error .reservedOp

/-- THR (R284). -/
def decodeThr (l : Bool) (w ext : Nat) : Except Reject Instr :=
  zero w 6 3 <|
    match fld w 0 3 with
    | 0 => zero w 3 3 <| need (!l || fld w 9 5 == 0) .longField
        (.ok (.spawn (regAt w 19) (regAt w 14) (regAt w 9) (extOf l ext)))
    | 1 => need (!l) .noLongForm <| zero w 9 15 <| zero w 3 3 (.ok .quit)
    | 2 => need l .needsLongForm <| zero w 19 5 <|
        withSome (scopeOf (fld w 3 3)) .badOrder fun sc =>
          need (sc != .core && sc != .system) .badOrder
            (.ok (.fork (regAt w 14) (regAt w 9) sc (BitVec.ofNat 32 ext)))
    | 3 => need (!l) .noLongForm <| zero w 19 5 <| zero w 9 5 <| zero w 3 3 (.ok (.join (regAt w 14)))
    | 4 => need (!l) .noLongForm <| zero w 19 5 <| zero w 9 5 <| zero w 3 3 (.ok (.migr (regAt w 14)))
    | 5 => need (!l) .noLongForm <| zero w 19 5 <| zero w 9 5 <| zero w 3 3 (.ok (.anchor (regAt w 14)))
    | _ => .error .reservedOp

/-- BAR (R313). -/
def decodeBar (w : Nat) : Except Reject Instr :=
  match fld w 0 9 with
  | 0 => .ok (.barinit (regAt w 19) (regAt w 14) (regAt w 9))
  | 1 => .ok (.bararr (regAt w 19) (regAt w 14) (regAt w 9))
  | 2 => .ok (.barwait (regAt w 19) (regAt w 14) (regAt w 9))
  | 3 => .ok (.baraw (regAt w 19) (regAt w 14) (regAt w 9))
  | 4 => zero w 9 5 (.ok (.semp (regAt w 19) (regAt w 14)))
  | 5 => zero w 19 5 (.ok (.semv (regAt w 14) (regAt w 9)))
  | _ => .error .reservedOp

/-- MODE (R260). -/
def decodeMode (w : Nat) : Except Reject Instr :=
  zero w 9 10 <|
    match fld w 0 9 with
    | 0 => .ok (.gang (regAt w 19))
    | 1 => zero w 19 5 (.ok .ungang)
    | 2 => .ok (.twin (regAt w 19))
    | 3 => zero w 19 5 (.ok .untwin)
    | _ => .error .reservedOp

/-- PRIV (R101, R250, R339, R352, R371, R386). A row that shares its fn with others decodes to the first of them; the
register value it reads decides the rest (log 11, DEDUCED). -/
def decodePriv (w : Nat) : Except Reject Instr :=
  let rd := regAt w 19
  let ra := regAt w 14
  let rb := regAt w 9
  match fld w 0 9 with
  | 0x000 => .ok (.mapset rd ra rb)
  | 0x001 => .ok (.mapinvUnmap rd ra rb)
  | 0x002 => .ok (.pghotRead rd ra rb)
  | 0x003 => .ok (.tlbflPage rd ra rb)
  | 0x010 => zero w 9 5 (.ok (.bankret rd ra))
  | 0x011 => zero w 9 5 (.ok (.bankq rd ra))
  | 0x018 => .ok (.lkctlEnable rd ra rb)
  | 0x019 => zero w 9 5 (.ok (.lkqStatus rd ra))
  | 0x01C => .ok (.namerouteWriteRoute rd ra rb)
  | 0x020 => .ok (.killThread rd ra rb)
  | 0x021 => zero w 9 5 (.ok (.wake rd ra))
  | 0x022 => .ok (.resumeRetry rd ra rb)
  | 0x023 => zero w 9 5 (.ok (.preempt rd ra))
  | _ => .error .reservedOp

/-- MOVL (R112), always long (log 20, DEDUCED). -/
def decodeMovl (l : Bool) (w ext : Nat) : Except Reject Instr :=
  need l .needsLongForm <| zero w 2 17 <|
    match fld w 0 2 with
    | 0 => .ok (.movl (regAt w 19) (BitVec.ofNat 32 ext))
    | 1 => .ok (.movlU (regAt w 19) (BitVec.ofNat 32 ext))
    | 2 => .ok (.movlH (regAt w 19) (BitVec.ofNat 32 ext))
    | _ => .error .reservedOp

/-- The conditional branches (R117). -/
def decodeBranch (w : Nat) (mk : Reg → Reg → BitVec 14 → Instr) : Except Reject Instr :=
  .ok (mk (regAt w 19) (regAt w 14) (BitVec.ofNat 14 (fld w 0 14)))

/-- BRL (R118). -/
def decodeBrl (l : Bool) (w ext : Nat) : Except Reject Instr :=
  need (!l || fld w 0 23 == 0) .longField
    (if bit w 23 then .ok (.call (BitVec.ofNat 23 (fld w 0 23)) (extOf l ext))
     else .ok (.br (BitVec.ofNat 23 (fld w 0 23)) (extOf l ext)))

/-- JR (R119). -/
def decodeJr (w : Nat) : Except Reject Instr :=
  zero w 19 5 <| zero w 9 5 <|
    match fld w 0 9 with
    | 0 => .ok (.jr (regAt w 14))
    | 1 => .ok (.callr (regAt w 14))
    | _ => .error .reservedOp

/-- FENCE (R174). -/
def decodeFence (w : Nat) : Except Reject Instr :=
  zero w 9 15 <| zero w 3 6 <| withSome (scopeOf (fld w 0 3)) .badOrder fun sc => .ok (.fence sc)

/-- XFENCE (R175). -/
def decodeXfence (w : Nat) : Except Reject Instr :=
  zero w 19 5 <| zero w 3 6 <| withSome (scopeOf (fld w 0 3)) .badOrder fun sc =>
    need (fld w 14 5 != 0 && fld w 9 5 != 0) .badImmediate (.ok (.xfence (regAt w 14) (regAt w 9) sc))

/-- SCANQ (R185). -/
def decodeScanq (w : Nat) : Except Reject Instr :=
  zero w 19 5 <| zero w 9 5 <| zero w 6 3 (.ok (.scanq (regAt w 14) (BitVec.ofNat 6 (fld w 0 6))))

/-- AMSEND (R295). -/
def decodeAmsend (l : Bool) (w ext : Nat) : Except Reject Instr :=
  zero w 19 5 <| zero w 6 3 <| need (!l || fld w 9 5 == 0) .longField
    (.ok (.amsend (regAt w 14) (regAt w 9) (BitVec.ofNat 6 (fld w 0 6)) (extOf l ext)))

/-- A C-word without a long form (R99). -/
def short (l : Bool) (k : Except Reject Instr) : Except Reject Instr := need (!l) .noLongForm k

/-- The C-instruction of word 0, with word 1 as its extension when L = 1 (R78, R80, R99). -/
def decodeC (w ext : Nat) : Except Reject Instr :=
  let l := bit w 31
  match fld w 24 6 with
  | 0x00 => short l (zero w 0 24 (.ok .nop))
  | 0x01 => short l (decodeSys w)
  | 0x02 => short l (decodeBranch w .beq)
  | 0x03 => short l (decodeBranch w .bne)
  | 0x04 => short l (decodeBranch w .blt)
  | 0x05 => short l (decodeBranch w .bge)
  | 0x06 => short l (decodeBranch w .bltu)
  | 0x07 => short l (decodeBranch w .bgeu)
  | 0x08 => decodeBrl l w ext
  | 0x09 => short l (decodeJr w)
  | 0x0A => decodeCM l w ext .ldb Order.forLoad true
  | 0x0B => decodeCM l w ext .ldbu Order.forLoad true
  | 0x0C => decodeCM l w ext .ldh Order.forLoad true
  | 0x0D => decodeCM l w ext .ldhu Order.forLoad true
  | 0x0E => decodeCM l w ext .ldw Order.forLoad true
  | 0x0F => decodeCM l w ext .ldwu Order.forLoad true
  | 0x10 => decodeCM l w ext .ldd Order.forLoad true
  | 0x11 => decodeCM l w ext .ldv Order.forLoad true
  | 0x12 => decodeCM l w ext .stb Order.forStore false
  | 0x13 => decodeCM l w ext .sth Order.forStore false
  | 0x14 => decodeCM l w ext .stw Order.forStore false
  | 0x15 => decodeCM l w ext .std Order.forStore false
  | 0x16 => decodeCM l w ext .stv Order.forStore false
  | 0x17 => decodeFe l w ext true
  | 0x18 => decodeFe l w ext false
  | 0x19 => decodeAmo l w ext
  | 0x1B => short l (decodeFence w)
  | 0x1C => short l (decodeXfence w)
  | 0x1D => decodeGather l w ext
  | 0x1E => short l (decodeSpace w)
  | 0x1F => short l (decodeCpy w)
  | 0x20 => short l (decodeCpw w)
  | 0x21 => decodeName l w ext
  | 0x22 => short l (decodeScanq w)
  | 0x23 => short l (decodePort w)
  | 0x24 => short l (decodeRing w)
  | 0x25 => short l (decodeMtx w)
  | 0x26 => decodeThr l w ext
  | 0x27 => short l (decodeBar w)
  | 0x28 => short l (decodeMode w)
  | 0x29 => decodeAmsend l w ext
  | 0x2A => short l (decodePriv w)
  | 0x2B => decodeMovl l w ext
  | _ => .error .reservedMajor

/-! ## A-words -/

/-- Register field at 25:21, 20:16 and 15:11 of an A-word (R97). -/
def rdA (w : Nat) : Reg := regAt w 21
def raA (w : Nat) : Reg := regAt w 16
def rbA (w : Nat) : Reg := regAt w 11

/-- ALU (R106, R107). -/
def decodeAlu (w : Nat) : Except Reject Instr :=
  let d := rdA w
  let a := raA w
  let b := rbA w
  if fld w 5 6 = 32 then .ok (.csel d (regAt w 0) a b)
  else if fld w 5 6 = 0 then
    match fld w 0 5 with
    | 0x00 => .ok (.add d a b) | 0x01 => .ok (.sub d a b) | 0x02 => .ok (.and d a b) | 0x03 => .ok (.or d a b)
    | 0x04 => .ok (.xor d a b) | 0x05 => .ok (.shl d a b) | 0x06 => .ok (.shr d a b) | 0x07 => .ok (.sar d a b)
    | 0x08 => .ok (.rol d a b) | 0x09 => .ok (.min d a b) | 0x0A => .ok (.max d a b) | 0x0B => .ok (.minu d a b)
    | 0x0C => .ok (.maxu d a b) | 0x0D => .ok (.slt d a b) | 0x0E => .ok (.sltu d a b) | 0x0F => .ok (.seq d a b)
    | _ => .error .reservedOp
  else .error .reservedOp

/-- MULDIV (R108). -/
def decodeMulDiv (w : Nat) : Except Reject Instr :=
  let d := rdA w
  let a := raA w
  let b := rbA w
  match fld w 0 11 with
  | 0 => .ok (.mul d a b) | 1 => .ok (.mulh d a b) | 2 => .ok (.mulhu d a b)
  | 3 => .ok (.div d a b) | 4 => .ok (.divu d a b) | 5 => .ok (.rem d a b) | 6 => .ok (.remu d a b)
  | _ => .error .reservedOp

/-- BIT (R110). -/
def decodeBit (w : Nat) : Except Reject Instr :=
  match fld w 0 11 with
  | 0 => zero w 11 5 (.ok (.clz (rdA w) (raA w)))
  | 1 => zero w 11 5 (.ok (.ctz (rdA w) (raA w)))
  | 2 => zero w 11 5 (.ok (.popc (rdA w) (raA w)))
  | 3 => .ok (.ext (rdA w) (raA w) (rbA w))
  | 4 => .ok (.ins (rdA w) (raA w) (rbA w))
  | 5 => zero w 11 5 (.ok (.abs (rdA w) (raA w)))
  | _ => .error .reservedOp

/-- SHI (R111). -/
def decodeShi (w : Nat) : Except Reject Instr :=
  zero w 8 8 <|
    match fld w 6 2 with
    | 0 => .ok (.shli (rdA w) (raA w) (BitVec.ofNat 6 (fld w 0 6)))
    | 1 => .ok (.shri (rdA w) (raA w) (BitVec.ofNat 6 (fld w 0 6)))
    | 2 => .ok (.sari (rdA w) (raA w) (BitVec.ofNat 6 (fld w 0 6)))
    | _ => .error .reservedOp

/-- The immediate forms whose ra is a register (R111). -/
def decodeAI (w : Nat) (mk : Reg → Reg → BitVec 16 → Instr) : Except Reject Instr :=
  .ok (mk (rdA w) (raA w) (BitVec.ofNat 16 (fld w 0 16)))

/-- FPS (R113, R114). -/
def decodeFps (w : Nat) : Except Reject Instr :=
  let d := rdA w
  let a := raA w
  let b := rbA w
  withSome (fformOf (fld w 9 2)) .badFormat fun f =>
    match fld w 0 4 with
    | 0x0 => zero w 4 5 (.ok (.fadd d a b f))
    | 0x1 => zero w 4 5 (.ok (.fsub d a b f))
    | 0x2 => zero w 4 5 (.ok (.fmul d a b f))
    | 0x3 => .ok (.ffma d a b (regAt w 4) f)
    | 0x4 => zero w 4 5 (.ok (.fmin d a b f))
    | 0x5 => zero w 4 5 (.ok (.fmax d a b f))
    | 0x6 => zero w 4 5 (.ok (.fcmpeq d a b f))
    | 0x7 => zero w 4 5 (.ok (.fcmplt d a b f))
    | 0x8 => zero w 4 5 (.ok (.fcmple d a b f))
    | 0x9 => zero w 6 3 (need (fld w 4 2 != 3) .badImmediate (.ok (.fsgn d a b f (BitVec.ofNat 2 (fld w 4 2)))))
    | _ => .error .reservedOp

/-- FCVT (R115). -/
def decodeFcvt (w : Nat) : Except Reject Instr :=
  zero w 13 3 <|
    withSome (fmtOf (fld w 5 6)) .badFormat fun d =>
      withSome (fmtOf (fld w 11 1 * 32 + fld w 0 5)) .badFormat fun s =>
        need (fcvtOk d s (bit w 12)) .badFormat (.ok (.fcvt (rdA w) (raA w) d s (bit w 12)))

/-- Scalar special functions (R151). -/
def decodeSfu (w : Nat) : Except Reject Instr :=
  let d := rdA w
  let a := raA w
  zero w 11 5 <| zero w 4 5 <| withSome (fformOf (fld w 9 2)) .badFormat fun f =>
    need (fld w 0 4 < 8) .reservedOp <| noPort d <|
      match fld w 0 4 with
      | 0 => .ok (.fexp2 d a f) | 1 => .ok (.flog2 d a f) | 2 => .ok (.frcp d a f) | 3 => .ok (.frsq d a f)
      | 4 => .ok (.fsqrt d a f) | 5 => .ok (.ftanh d a f) | 6 => .ok (.fsin d a f) | _ => .ok (.fcos d a f)

/-- m and fmt of an AV word, the format checked against what the op accepts (R133). -/
def withFmt (w : Nat) (accepts : Fmt → Bool) (k : MaskNo → Fmt → Except Reject Instr) : Except Reject Instr :=
  withSome (fmtOf (fld w 3 6)) .badFormat fun f =>
    need (accepts f) .badFormat (k (BitVec.ofNat 2 (fld w 9 2)) f)

/-- Vector special functions (R151). -/
def decodeVsfu (w : Nat) : Except Reject Instr :=
  let d := rdA w
  let a := raA w
  zero w 11 5 <| withFmt w Fmt.isFloat fun m f => noPort d <|
    match fld w 0 3 with
    | 0 => .ok (.vfexp2 d a m f) | 1 => .ok (.vflog2 d a m f) | 2 => .ok (.vfrcp d a m f) | 3 => .ok (.vfrsq d a m f)
    | 4 => .ok (.vfsqrt d a m f) | 5 => .ok (.vftanh d a m f) | 6 => .ok (.vfsin d a m f) | _ => .ok (.vfcos d a m f)

/-- A unary AV operation: vb must be 0. -/
def unary (w : Nat) (accepts : Fmt → Bool) (mk : Reg → Reg → MaskNo → Fmt → Instr) : Except Reject Instr :=
  zero w 11 5 (withFmt w accepts fun m f => .ok (mk (rdA w) (raA w) m f))

/-- A binary AV operation. -/
def binary (w : Nat) (accepts : Fmt → Bool) (mk : Reg → Reg → Reg → MaskNo → Fmt → Instr) : Except Reject Instr :=
  withFmt w accepts fun m f => .ok (mk (rdA w) (raA w) (rbA w) m f)

/-- VINT (R137). -/
def decodeVint (w : Nat) : Except Reject Instr :=
  match fld w 0 3 with
  | 0 => binary w Fmt.isInt .vadd
  | 1 => binary w Fmt.isInt .vsub
  | 2 => binary w Fmt.isInt .vmul
  | 3 => binary w Fmt.isInt .vmulh
  | 4 => binary w Fmt.isInt .vmin
  | 5 => binary w Fmt.isInt .vmax
  | 6 => unary w Fmt.isSInt .vabs
  | _ => binary w Fmt.isInt .vsadd

/-- VLOG (R138). -/
def decodeVlog (w : Nat) : Except Reject Instr :=
  match fld w 0 3 with
  | 0 => binary w Fmt.isInt .vand
  | 1 => binary w Fmt.isInt .vor
  | 2 => binary w Fmt.isInt .vxor
  | 3 => binary w Fmt.isInt .vandn
  | 4 => unary w Fmt.isInt .vnot
  | 5 => binary w Fmt.isInt .vshl
  | 6 => binary w Fmt.isInt .vshr
  | _ => binary w Fmt.isInt .vsar

/-- VFP (R139). -/
def decodeVfp (w : Nat) : Except Reject Instr :=
  match fld w 0 3 with
  | 0 => binary w Fmt.isFloat .vfadd
  | 1 => binary w Fmt.isFloat .vfsub
  | 2 => binary w Fmt.isFloat .vfmul
  | 3 => binary w Fmt.isFloat .vfma
  | 4 => binary w Fmt.isFloat .vfmin
  | 5 => binary w Fmt.isFloat .vfmax
  | 6 => unary w Fmt.isFloat .vfabs
  | _ => unary w Fmt.isFloat .vfneg

/-- A comparison into a mask: vd is of kind K (R133, R140). -/
def compare (w : Nat) (accepts : Fmt → Bool) (mk : MaskNo → Reg → Reg → MaskNo → Fmt → Instr) : Except Reject Instr :=
  need (fld w 21 5 < 4) .badImmediate
    (withFmt w accepts fun m f => .ok (mk (BitVec.ofNat 2 (fld w 21 5)) (raA w) (rbA w) m f))

/-- VCMP (R140). -/
def decodeVcmp (w : Nat) : Except Reject Instr :=
  match fld w 0 3 with
  | 0 => compare w (fun f => f.isInt || f.isFloat) .vcmpEq
  | 1 => compare w (fun f => f.isInt || f.isFloat) .vcmpNe
  | 2 => compare w Fmt.isSInt .vcmpLt
  | 3 => compare w Fmt.isSInt .vcmpLe
  | 4 => compare w Fmt.isInt .vcmpLtu
  | 5 => compare w Fmt.isInt .vcmpLeu
  | 6 => compare w Fmt.isFloat .vcmpFlt
  | _ => compare w Fmt.isFloat .vcmpFle

/-- VPERM (R141). -/
def decodeVperm (w : Nat) : Except Reject Instr :=
  match fld w 0 3 with
  | 0 => binary w Fmt.isAny .vsel
  | 1 => unary w Fmt.isAny .vsplat
  | 2 => binary w Fmt.isAny .vperm
  | 3 => unary w Fmt.isAny .vcomp
  | 4 => unary w Fmt.isAny .vexpd
  | 5 => binary w Fmt.isAny .vshuf
  | 6 => binary w Fmt.isAny .vrot
  | _ => unary w Fmt.isAny .vrev

/-- VRED (R142). -/
def decodeVred (w : Nat) : Except Reject Instr :=
  match fld w 0 3 with
  | 0 => unary w (fun f => f.isInt || f.isFloat) .vredadd
  | 1 => unary w (fun f => f.isInt || f.isFloat) .vredmax
  | 2 => unary w (fun f => f.isInt || f.isFloat) .vredmin
  | 3 => unary w Fmt.isInt .vredand
  | 4 => unary w Fmt.isInt .vredor
  | _ => .error .reservedOp

/-- VCVT (R144, R145). -/
def decodeVcvt (w : Nat) : Except Reject Instr :=
  withSome (fmtOf (fld w 11 4)) .badFormat fun p =>
    need p.forPartner .badFormat <|
      withFmt w Fmt.forVcvt fun m f =>
        let q := BitVec.ofNat 2 (fld w 0 2)
        let sat := bit w 15
        need (if bit w 2 then vcvtOk p f sat q else vcvtOk f p sat q) .badFormat
          (.ok (.vcvt (rdA w) (raA w) sat p m f (bit w 2) q))

/-- VDOT (R147). -/
def decodeVdot (w : Nat) : Except Reject Instr :=
  match fld w 0 3 with
  | 0 => binary w Fmt.forVdot .vdot4
  | 1 => binary w Fmt.forVdot .vdota
  | _ => .error .reservedOp

/-- VLANE (R148); the bound for a thread that is not ganged is checked with the thread's mode. -/
def decodeVlane (w : Nat) : Except Reject Instr :=
  need (fld w 0 3 < 2) .reservedOp <| zero w 9 2 <|
    withFmt w Fmt.isAny fun _ f =>
      need (decide (fld w 11 5 < 256 / f.width)) .badImmediate
        (if fld w 0 3 = 0 then .ok (.vgetl (rdA w) (raA w) (rbA w) f) else .ok (.vsetl (rdA w) (raA w) (rbA w) f))

/-- BSUM (R207). -/
def decodeBsum (w : Nat) : Except Reject Instr :=
  let m := BitVec.ofNat 2 (fld w 9 2)
  let d := rdA w
  let a := raA w
  match fld w 0 3 with
  | 0 => need (fld w 3 6 == 16) .badFormat <| zero w 11 5 <| zero w 9 2 (.ok (.bsalign d a))
  | 1 => need (fld w 3 6 == 10) .badFormat (.ok (.scaccL d a (rbA w) m))
  | 2 => need (fld w 3 6 == 10) .badFormat (.ok (.scaccH d a (rbA w) m))
  | 3 => need (fld w 3 6 == 10) .badFormat <| zero w 11 5 (.ok (.bsnormL d a m))
  | 4 => need (fld w 3 6 == 10) .badFormat <| zero w 11 5 (.ok (.bsnormH d a m))
  | 5 => need (fld w 3 6 == 10) .badFormat <| zero w 11 5 (.ok (.bsnormR d a m))
  | _ => .error .reservedOp

/-- A field of kind P: 0-7 (R212). -/
def withPa (w lo : Nat) (k : PaNo → Except Reject Instr) : Except Reject Instr :=
  need (fld w lo 5 < 8) .badImmediate (k (BitVec.ofNat 3 (fld w lo 5)))

/-- PPA (R212). -/
def decodePpa (w : Nat) : Except Reject Instr :=
  let sel := fld w 3 6
  let m := BitVec.ofNat 2 (fld w 9 2)
  match fld w 0 3 with
  | 0 => need (sel == 0) .badFormat <| zero w 11 5 <| zero w 9 2 <| withPa w 21 fun d => .ok (.ppinit d (raA w))
  | 1 => need (sel == 10) .badFormat <| zero w 9 2 <| withPa w 21 fun d => .ok (.ppmul d (raA w) (rbA w))
  | 2 => need (sel == 10) .badFormat <| withPa w 21 fun d => .ok (.ppmulv d (raA w) (rbA w) m)
  | 3 => need (sel == 10) .badFormat <| zero w 9 2 <| withPa w 21 fun d => .ok (.ppdiv d (raA w) (rbA w))
  | 4 => need (sel == 0) .badFormat <| zero w 9 2 <| withPa w 21 fun d => withPa w 16 fun a => withPa w 11 fun b =>
      .ok (.ppmerge d a b)
  | 5 => need (sel == 10) .badFormat <| need (fld w 11 5 ≤ 15) .badImmediate <| noPort (rdA w) <|
      withPa w 16 fun a => .ok (.pprd (rdA w) a (rbA w) m)
  | 6 => need (sel == 10) .badFormat <| need (fld w 11 5 ≤ 15) .badImmediate <|
      withPa w 21 fun d => .ok (.ppld d (raA w) (rbA w) m)
  | _ =>
    if sel = 0 then zero w 11 5 <| zero w 9 2 <| noPort (rdA w) <| withPa w 16 fun a => .ok (.ppexp (rdA w) a)
    else if sel = 1 then zero w 9 12 <| withPa w 21 fun d => .ok (.ppnorm d)
    else .error .badFormat

/-- A field of kind K: 0-3 (R133). -/
def withMask (w lo : Nat) (k : MaskNo → Except Reject Instr) : Except Reject Instr :=
  need (fld w lo 5 < 4) .badImmediate (k (BitVec.ofNat 2 (fld w lo 5)))

/-- MASK (R149). -/
def decodeMask (w : Nat) : Except Reject Instr :=
  let x := BitVec.ofNat 2 (fld w 4 2)
  zero w 6 5 <|
    match fld w 0 4 with
    | 0 => zero w 4 2 <| withMask w 21 fun d => withMask w 16 fun a => withMask w 11 fun b => .ok (.mand d a b)
    | 1 => zero w 4 2 <| withMask w 21 fun d => withMask w 16 fun a => withMask w 11 fun b => .ok (.mor d a b)
    | 2 => zero w 4 2 <| zero w 11 5 <| withMask w 21 fun d => withMask w 16 fun a => .ok (.mnot d a)
    | 3 => zero w 11 5 <| withMask w 16 fun a => .ok (.mpopc (rdA w) a x)
    | 4 => zero w 11 5 <| withMask w 16 fun a => .ok (.mfirst (rdA w) a x)
    | 5 => zero w 4 2 <| zero w 11 5 <| withMask w 21 fun d => .ok (.mset d (raA w))
    | 6 => zero w 4 2 <| zero w 11 5 <| withMask w 16 fun a => .ok (.mget (rdA w) a)
    | _ => .error .reservedOp

/-- The A-instruction of word 1 when L = 0 (R79, R100). -/
def decodeA (w : Nat) : Except Reject Instr :=
  match fld w 26 6 with
  | 0x00 => zero w 0 26 (.ok .anop)
  | 0x01 => decodeAlu w
  | 0x02 => decodeMulDiv w
  | 0x03 => decodeBit w
  | 0x04 => decodeAI w .addi
  | 0x05 => decodeAI w .andi
  | 0x06 => decodeAI w .ori
  | 0x07 => decodeAI w .xori
  | 0x08 => decodeShi w
  | 0x09 => zero w 16 5 (.ok (.movi (rdA w) (BitVec.ofNat 16 (fld w 0 16))))
  | 0x0A => zero w 18 3 (.ok (.movhi (rdA w) (BitVec.ofNat 2 (fld w 16 2)) (BitVec.ofNat 16 (fld w 0 16))))
  | 0x0B => decodeAI w .slti
  | 0x0C => decodeFps w
  | 0x0D => decodeFcvt w
  | 0x0E => decodeSfu w
  | 0x0F => decodeVsfu w
  | 0x10 => decodeVint w
  | 0x11 => decodeVlog w
  | 0x12 => decodeVfp w
  | 0x13 => decodeVcmp w
  | 0x14 => decodeVperm w
  | 0x15 => decodeVred w
  | 0x16 => decodeVcvt w
  | 0x17 => decodeVdot w
  | 0x18 => decodeVlane w
  | 0x1A => decodeBsum w
  | 0x1B => decodePpa w
  | 0x1C => decodeMask w
  | _ => .error .reservedMajor

/-! ## Encoding -/

/-- The extension word an instruction carries (R80). -/
def extBits : Ext → Nat
  | some e => e.toNat
  | none => 0

/-- The extension word of a CM access in its long form (R96). -/
def offBits : Off → Nat
  | .short _ => 0
  | .long o => o.toNat

/-- The C-word of a load or store (R95, R96). -/
def encodeCM (maj : Nat) (rd base : Reg) (off : Off) (ord : Order) : Nat :=
  match off with
  | .short o => packCM false maj rd.toNat base.toNat ord.cm.1 ord.cm.2.1 ord.cm.2.2 o.toNat
  | .long _ => packCM true maj rd.toNat base.toNat ord.cm.1 ord.cm.2.1 ord.cm.2.2 0

/-- The word of an instruction, S clear, and its extension word; none for an event. -/
def encode : Instr → Option (Nat × Nat)
  | .nop => some (packCR false 0x00 0 0 0 0, 0)
  | .trap code => some (0x01 * 2 ^ 24 + code.toNat * 2 ^ 9, 0)
  | .rett => some (packCR false 0x01 0 0 0 1, 0)
  | .gets rd name => some (0x01 * 2 ^ 24 + rd.toNat * 2 ^ 19 + name.number * 2 ^ 9 + 2, 0)
  | .sets name rs => some (0x01 * 2 ^ 24 + rs.toNat * 2 ^ 19 + name.number * 2 ^ 9 + 3, 0)
  | .tstamp rd => some (packCR false 0x01 rd.toNat 0 0 0x004, 0)
  | .waitev rd ra => some (packCR false 0x01 rd.toNat ra.toNat 0 0x005, 0)
  | .yield => some (packCR false 0x01 0 0 0 6, 0)
  | .beq ra rb off => some (packCB 0x02 ra.toNat rb.toNat off.toNat, 0)
  | .bne ra rb off => some (packCB 0x03 ra.toNat rb.toNat off.toNat, 0)
  | .blt ra rb off => some (packCB 0x04 ra.toNat rb.toNat off.toNat, 0)
  | .bge ra rb off => some (packCB 0x05 ra.toNat rb.toNat off.toNat, 0)
  | .bltu ra rb off => some (packCB 0x06 ra.toNat rb.toNat off.toNat, 0)
  | .bgeu ra rb off => some (packCB 0x07 ra.toNat rb.toNat off.toNat, 0)
  | .br off ext => some (packCJ ext.isSome 0x08 0 off.toNat, extBits ext)
  | .call off ext => some (packCJ ext.isSome 0x08 1 off.toNat, extBits ext)
  | .jr ra => some (packCR false 0x09 0 ra.toNat 0 0x000, 0)
  | .callr ra => some (packCR false 0x09 0 ra.toNat 0 0x001, 0)
  | .ldb rd base off ord => some (encodeCM 0x0A rd base off ord, offBits off)
  | .ldbu rd base off ord => some (encodeCM 0x0B rd base off ord, offBits off)
  | .ldh rd base off ord => some (encodeCM 0x0C rd base off ord, offBits off)
  | .ldhu rd base off ord => some (encodeCM 0x0D rd base off ord, offBits off)
  | .ldw rd base off ord => some (encodeCM 0x0E rd base off ord, offBits off)
  | .ldwu rd base off ord => some (encodeCM 0x0F rd base off ord, offBits off)
  | .ldd rd base off ord => some (encodeCM 0x10 rd base off ord, offBits off)
  | .ldv rd base off ord => some (encodeCM 0x11 rd base off ord, offBits off)
  | .stb rd base off ord => some (encodeCM 0x12 rd base off ord, offBits off)
  | .sth rd base off ord => some (encodeCM 0x13 rd base off ord, offBits off)
  | .stw rd base off ord => some (encodeCM 0x14 rd base off ord, offBits off)
  | .std rd base off ord => some (encodeCM 0x15 rd base off ord, offBits off)
  | .stv rd base off ord => some (encodeCM 0x16 rd base off ord, offBits off)
  | .ldwF rd ra ord ext =>
    some (packCR ext.isSome 0x17 rd.toNat ra.toNat 0 (ord.code * 2 ^ 5 + 0), extBits ext)
  | .lddF rd ra ord ext =>
    some (packCR ext.isSome 0x17 rd.toNat ra.toNat 0 (ord.code * 2 ^ 5 + 1), extBits ext)
  | .ldwT rd ra ord ext =>
    some (packCR ext.isSome 0x17 rd.toNat ra.toNat 0 (ord.code * 2 ^ 5 + 2), extBits ext)
  | .lddT rd ra ord ext =>
    some (packCR ext.isSome 0x17 rd.toNat ra.toNat 0 (ord.code * 2 ^ 5 + 3), extBits ext)
  | .stwE rd ra ord ext =>
    some (packCR ext.isSome 0x18 rd.toNat ra.toNat 0 (ord.code * 2 ^ 5 + 0), extBits ext)
  | .stdE rd ra ord ext =>
    some (packCR ext.isSome 0x18 rd.toNat ra.toNat 0 (ord.code * 2 ^ 5 + 1), extBits ext)
  | .stwX rd ra ord ext =>
    some (packCR ext.isSome 0x18 rd.toNat ra.toNat 0 (ord.code * 2 ^ 5 + 2), extBits ext)
  | .stdX rd ra ord ext =>
    some (packCR ext.isSome 0x18 rd.toNat ra.toNat 0 (ord.code * 2 ^ 5 + 3), extBits ext)
  | .fempty ra ord ext =>
    some (packCR ext.isSome 0x18 0 ra.toNat 0 (ord.code * 2 ^ 5 + 4), extBits ext)
  | .fstat rd ra ord ext =>
    some (packCR ext.isSome 0x18 rd.toNat ra.toNat 0 (ord.code * 2 ^ 5 + 5), extBits ext)
  | .amoadd rd ra rb ord w4 ext =>
    some (packCR ext.isSome 0x19 rd.toNat ra.toNat rb.toNat (ord.code * 2 ^ 5 + (if w4 then 16 else 0) + 0), extBits ext)
  | .amoand rd ra rb ord w4 ext =>
    some (packCR ext.isSome 0x19 rd.toNat ra.toNat rb.toNat (ord.code * 2 ^ 5 + (if w4 then 16 else 0) + 1), extBits ext)
  | .amoor rd ra rb ord w4 ext =>
    some (packCR ext.isSome 0x19 rd.toNat ra.toNat rb.toNat (ord.code * 2 ^ 5 + (if w4 then 16 else 0) + 2), extBits ext)
  | .amoxor rd ra rb ord w4 ext =>
    some (packCR ext.isSome 0x19 rd.toNat ra.toNat rb.toNat (ord.code * 2 ^ 5 + (if w4 then 16 else 0) + 3), extBits ext)
  | .amomin rd ra rb ord w4 ext =>
    some (packCR ext.isSome 0x19 rd.toNat ra.toNat rb.toNat (ord.code * 2 ^ 5 + (if w4 then 16 else 0) + 4), extBits ext)
  | .amomax rd ra rb ord w4 ext =>
    some (packCR ext.isSome 0x19 rd.toNat ra.toNat rb.toNat (ord.code * 2 ^ 5 + (if w4 then 16 else 0) + 5), extBits ext)
  | .amominu rd ra rb ord w4 ext =>
    some (packCR ext.isSome 0x19 rd.toNat ra.toNat rb.toNat (ord.code * 2 ^ 5 + (if w4 then 16 else 0) + 6), extBits ext)
  | .amomaxu rd ra rb ord w4 ext =>
    some (packCR ext.isSome 0x19 rd.toNat ra.toNat rb.toNat (ord.code * 2 ^ 5 + (if w4 then 16 else 0) + 7), extBits ext)
  | .amoswap rd ra rb ord w4 ext =>
    some (packCR ext.isSome 0x19 rd.toNat ra.toNat rb.toNat (ord.code * 2 ^ 5 + (if w4 then 16 else 0) + 8), extBits ext)
  | .amocas rd ra rb ord w4 ext =>
    some (packCR ext.isSome 0x19 rd.toNat ra.toNat rb.toNat (ord.code * 2 ^ 5 + (if w4 then 16 else 0) + 9), extBits ext)
  | .amoCombine _ _ _ _ => none
  | .fence sc => some (packCR false 0x1B 0 0 0 sc.code, 0)
  | .xfence frm tgt sc => some (packCR false 0x1C 0 frm.toNat tgt.toNat sc.code, 0)
  | .vgath vd ra vb ord sz m ext =>
    some (packCR ext.isSome 0x1D vd.toNat ra.toNat vb.toNat (ord.code * 2 ^ 5 + sz.toNat * 2 ^ 3 + m.toNat * 2 + 0), extBits ext)
  | .vscat vd ra vb ord sz m ext =>
    some (packCR ext.isSome 0x1D vd.toNat ra.toNat vb.toNat (ord.code * 2 ^ 5 + sz.toNat * 2 ^ 3 + m.toNat * 2 + 1), extBits ext)
  | .sptst rd ra => some (packCR false 0x1E rd.toNat ra.toNat 0 0, 0)
  | .spcast rd ra => some (packCR false 0x1E rd.toNat ra.toNat 0 1, 0)
  | .vpin rd ra lvl =>
    some (packCR false 0x1E rd.toNat ra.toNat 0 (lvl.toNat * 2 ^ 3 + 2), 0)
  | .cpy rd ra rb dk tag =>
    some (packCR false 0x1F rd.toNat ra.toNat rb.toNat (0 + dk.toNat * 2 ^ 6 + tag.toNat), 0)
  | .cpys rd ra rb dk tag =>
    some (packCR false 0x1F rd.toNat ra.toNat rb.toNat (256 + dk.toNat * 2 ^ 6 + tag.toNat), 0)
  | .copyStart _ _ => none
  | .copyComplete _ _ => none
  | .cpwaitany rd ra => some (packCR false 0x20 rd.toNat ra.toNat 0 0x000, 0)
  | .cpwaitall ra => some (packCR false 0x20 0 ra.toNat 0 0x001, 0)
  | .cpfirst rd ra => some (packCR false 0x20 rd.toNat ra.toNat 0 0x002, 0)
  | .cpclr ra => some (packCR false 0x20 0 ra.toNat 0 0x003, 0)
  | .scanq ra tag => some (packCR false 0x22 0 ra.toNat 0 tag.toNat, 0)
  | .scanComplete _ _ => none
  | .annc rd ra rb ext => some (packCR true 0x21 rd.toNat ra.toNat rb.toNat 0, ext.toNat)
  | .want ra rb tag ext =>
    some (packCR true 0x21 0 ra.toNat rb.toNat (0x040 + tag.toNat), ext.toNat)
  | .retrc rd tag => some (packCR false 0x21 rd.toNat 0 0 (0x080 + tag.toNat), 0)
  | .portUnbind rd q ra rb => some (packCR false 0x23 rd.toNat ra.toNat rb.toNat q.toNat, 0)
  | .portNeighbour rd q ra rb => some (packCR false 0x23 rd.toNat ra.toNat rb.toNat q.toNat, 0)
  | .portMbrecv rd q ra rb => some (packCR false 0x23 rd.toNat ra.toNat rb.toNat q.toNat, 0)
  | .portMbsend rd q ra rb => some (packCR false 0x23 rd.toNat ra.toNat rb.toNat q.toNat, 0)
  | .portArraycmd rd q ra rb => some (packCR false 0x23 rd.toNat ra.toNat rb.toNat q.toNat, 0)
  | .portArrayres rd q ra rb => some (packCR false 0x23 rd.toNat ra.toNat rb.toNat q.toNat, 0)
  | .portMbdef rd q ra rb => some (packCR false 0x23 rd.toNat ra.toNat rb.toNat q.toNat, 0)
  | .qstat rd q => some (packCR false 0x23 rd.toNat 0 0 (0x040 + q.toNat), 0)
  | .neighbourArrival _ _ => none
  | .mbReservation _ _ => none
  | .mbReservationResend _ _ => none
  | .qwatchExpiry _ _ => none
  | .queueProbe _ => none
  | .rinit rd ra rb sc =>
    some (packCR false 0x24 rd.toNat ra.toNat rb.toNat (sc.code * 2 ^ 3 + 0), 0)
  | .racq rd ra sc => some (packCR false 0x24 rd.toNat ra.toNat 0 (sc.code * 2 ^ 3 + 1), 0)
  | .rcommit rd ra sc => some (packCR false 0x24 rd.toNat ra.toNat 0 (sc.code * 2 ^ 3 + 2), 0)
  | .rpeek rd ra sc => some (packCR false 0x24 rd.toNat ra.toNat 0 (sc.code * 2 ^ 3 + 3), 0)
  | .rrel ra sc => some (packCR false 0x24 0 ra.toNat 0 (sc.code * 2 ^ 3 + 4), 0)
  | .racqResend _ _ => none
  | .lease => some (packCR false 0x25 0 0 0 0x000, 0)
  | .lrel => some (packCR false 0x25 0 0 0 0x001, 0)
  | .mhset ra rb => some (packCR false 0x25 0 ra.toNat rb.toNat 0x002, 0)
  | .rowdone ra => some (packCR false 0x25 0 ra.toNat 0 0x003, 0)
  | .leaseExpiry _ => none
  | .arrayCommandCheck _ => none
  | .arrayChunkComplete _ => none
  | .rowLanding _ => none
  | .arrayStatusPush _ => none
  | .spawn rd ra rb ext =>
    some (packCR ext.isSome 0x26 rd.toNat ra.toNat rb.toNat 0, extBits ext)
  | .quit => some (packCR false 0x26 0 0 0 0x001, 0)
  | .fork ra rb sc ext =>
    some (packCR true 0x26 0 ra.toNat rb.toNat (sc.code * 2 ^ 3 + 2), ext.toNat)
  | .join ra => some (packCR false 0x26 0 ra.toNat 0 0x003, 0)
  | .migr ra => some (packCR false 0x26 0 ra.toNat 0 0x004, 0)
  | .anchor ra => some (packCR false 0x26 0 ra.toNat 0 0x005, 0)
  | .startMessage _ => none
  | .startResend _ _ => none
  | .slotLoaded _ _ => none
  | .migrArrival _ => none
  | .amsend ra rb tag ext =>
    some (packCR ext.isSome 0x29 0 ra.toNat rb.toNat tag.toNat, extBits ext)
  | .amsendRetry _ => none
  | .kernelRelaunch _ => none
  | .kernelComplete _ => none
  | .barinit rd ra rb => some (packCR false 0x27 rd.toNat ra.toNat rb.toNat 0x000, 0)
  | .bararr rd ra rb => some (packCR false 0x27 rd.toNat ra.toNat rb.toNat 0x001, 0)
  | .barwait rd ra rb => some (packCR false 0x27 rd.toNat ra.toNat rb.toNat 0x002, 0)
  | .baraw rd ra rb => some (packCR false 0x27 rd.toNat ra.toNat rb.toNat 0x003, 0)
  | .semp rd ra => some (packCR false 0x27 rd.toNat ra.toNat 0 0x004, 0)
  | .semv ra rb => some (packCR false 0x27 0 ra.toNat rb.toNat 0x005, 0)
  | .barrierWake _ => none
  | .syncTimeout _ _ => none
  | .gang rd => some (packCR false 0x28 rd.toNat 0 0 0x000, 0)
  | .ungang => some (packCR false 0x28 0 0 0 0x001, 0)
  | .twin rd => some (packCR false 0x28 rd.toNat 0 0 0x002, 0)
  | .untwin => some (packCR false 0x28 0 0 0 0x003, 0)
  | .killThread rd ra rb => some (packCR false 0x2A rd.toNat ra.toNat rb.toNat 0x020, 0)
  | .killContext rd ra rb => some (packCR false 0x2A rd.toNat ra.toNat rb.toNat 0x020, 0)
  | .wake rd ra => some (packCR false 0x2A rd.toNat ra.toNat 0 0x021, 0)
  | .resumeRetry rd ra rb => some (packCR false 0x2A rd.toNat ra.toNat rb.toNat 0x022, 0)
  | .resumeSkip rd ra rb => some (packCR false 0x2A rd.toNat ra.toNat rb.toNat 0x022, 0)
  | .resumeHandler rd ra rb => some (packCR false 0x2A rd.toNat ra.toNat rb.toNat 0x022, 0)
  | .preempt rd ra => some (packCR false 0x2A rd.toNat ra.toNat 0 0x023, 0)
  | .mapset rd ra rb => some (packCR false 0x2A rd.toNat ra.toNat rb.toNat 0x000, 0)
  | .mapinvUnmap rd ra rb => some (packCR false 0x2A rd.toNat ra.toNat rb.toNat 0x001, 0)
  | .mapinvRetire rd ra rb => some (packCR false 0x2A rd.toNat ra.toNat rb.toNat 0x001, 0)
  | .pghotRead rd ra rb => some (packCR false 0x2A rd.toNat ra.toNat rb.toNat 0x002, 0)
  | .pghotHalve rd ra rb => some (packCR false 0x2A rd.toNat ra.toNat rb.toNat 0x002, 0)
  | .pghotClear rd ra rb => some (packCR false 0x2A rd.toNat ra.toNat rb.toNat 0x002, 0)
  | .pghotPromote rd ra rb => some (packCR false 0x2A rd.toNat ra.toNat rb.toNat 0x002, 0)
  | .tlbflPage rd ra rb => some (packCR false 0x2A rd.toNat ra.toNat rb.toNat 0x003, 0)
  | .tlbflGlobal rd ra rb => some (packCR false 0x2A rd.toNat ra.toNat rb.toNat 0x003, 0)
  | .tlbflPrivate rd ra rb => some (packCR false 0x2A rd.toNat ra.toNat rb.toNat 0x003, 0)
  | .tlbflContext rd ra rb => some (packCR false 0x2A rd.toNat ra.toNat rb.toNat 0x003, 0)
  | .tlbflDevice rd ra rb => some (packCR false 0x2A rd.toNat ra.toNat rb.toNat 0x003, 0)
  | .tlbEvict _ _ => none
  | .swapComplete _ => none
  | .bankret rd ra => some (packCR false 0x2A rd.toNat ra.toNat 0 0x010, 0)
  | .bankretDomain rd ra => some (packCR false 0x2A rd.toNat ra.toNat 0 0x010, 0)
  | .bankq rd ra => some (packCR false 0x2A rd.toNat ra.toNat 0 0x011, 0)
  | .evacLineCopy _ _ _ => none
  | .evacSwitchover _ _ _ => none
  | .drainHorizon _ _ _ => none
  | .vigilEntry _ => none
  | .vigilExit _ => none
  | .lkctlEnable rd ra rb => some (packCR false 0x2A rd.toNat ra.toNat rb.toNat 0x018, 0)
  | .lkctlDisable rd ra rb => some (packCR false 0x2A rd.toNat ra.toNat rb.toNat 0x018, 0)
  | .lkctlRetrain rd ra rb => some (packCR false 0x2A rd.toNat ra.toNat rb.toNat 0x018, 0)
  | .lkctlWriteRoute rd ra rb => some (packCR false 0x2A rd.toNat ra.toNat rb.toNat 0x018, 0)
  | .lkctlClearLoss rd ra rb => some (packCR false 0x2A rd.toNat ra.toNat rb.toNat 0x018, 0)
  | .lkctlRevive rd ra rb => some (packCR false 0x2A rd.toNat ra.toNat rb.toNat 0x018, 0)
  | .lkqStatus rd ra => some (packCR false 0x2A rd.toNat ra.toNat 0 0x019, 0)
  | .lkqCap rd ra => some (packCR false 0x2A rd.toNat ra.toNat 0 0x019, 0)
  | .lkqLoss rd ra => some (packCR false 0x2A rd.toNat ra.toNat 0 0x019, 0)
  | .lkqRoute rd ra => some (packCR false 0x2A rd.toNat ra.toNat 0 0x019, 0)
  | .lkqWindow rd ra => some (packCR false 0x2A rd.toNat ra.toNat 0 0x019, 0)
  | .namerouteWriteRoute rd ra rb => some (packCR false 0x2A rd.toNat ra.toNat rb.toNat 0x01C, 0)
  | .namerouteReadRoute rd ra rb => some (packCR false 0x2A rd.toNat ra.toNat rb.toNat 0x01C, 0)
  | .namerouteSetTarn rd ra rb => some (packCR false 0x2A rd.toNat ra.toNat rb.toNat 0x01C, 0)
  | .namerouteReadDrops rd ra rb => some (packCR false 0x2A rd.toNat ra.toNat rb.toNat 0x01C, 0)
  | .movl rd imm => some (packCR true 0x2B rd.toNat 0 0 0, imm.toNat)
  | .movlU rd imm => some (packCR true 0x2B rd.toNat 0 0 1, imm.toNat)
  | .movlH rd imm => some (packCR true 0x2B rd.toNat 0 0 2, imm.toNat)
  | .anop => some (0, 0)
  | .add rd ra rb => some (packAR 0x01 rd.toNat ra.toNat rb.toNat 0x000, 0)
  | .sub rd ra rb => some (packAR 0x01 rd.toNat ra.toNat rb.toNat 0x001, 0)
  | .and rd ra rb => some (packAR 0x01 rd.toNat ra.toNat rb.toNat 0x002, 0)
  | .or rd ra rb => some (packAR 0x01 rd.toNat ra.toNat rb.toNat 0x003, 0)
  | .xor rd ra rb => some (packAR 0x01 rd.toNat ra.toNat rb.toNat 0x004, 0)
  | .shl rd ra rb => some (packAR 0x01 rd.toNat ra.toNat rb.toNat 0x005, 0)
  | .shr rd ra rb => some (packAR 0x01 rd.toNat ra.toNat rb.toNat 0x006, 0)
  | .sar rd ra rb => some (packAR 0x01 rd.toNat ra.toNat rb.toNat 0x007, 0)
  | .rol rd ra rb => some (packAR 0x01 rd.toNat ra.toNat rb.toNat 0x008, 0)
  | .min rd ra rb => some (packAR 0x01 rd.toNat ra.toNat rb.toNat 0x009, 0)
  | .max rd ra rb => some (packAR 0x01 rd.toNat ra.toNat rb.toNat 0x00A, 0)
  | .minu rd ra rb => some (packAR 0x01 rd.toNat ra.toNat rb.toNat 0x00B, 0)
  | .maxu rd ra rb => some (packAR 0x01 rd.toNat ra.toNat rb.toNat 0x00C, 0)
  | .slt rd ra rb => some (packAR 0x01 rd.toNat ra.toNat rb.toNat 0x00D, 0)
  | .sltu rd ra rb => some (packAR 0x01 rd.toNat ra.toNat rb.toNat 0x00E, 0)
  | .seq rd ra rb => some (packAR 0x01 rd.toNat ra.toNat rb.toNat 0x00F, 0)
  | .csel rd rc ra rb => some (packAR 0x01 rd.toNat ra.toNat rb.toNat (0x400 + rc.toNat), 0)
  | .mul rd ra rb => some (packAR 0x02 rd.toNat ra.toNat rb.toNat 0x000, 0)
  | .mulh rd ra rb => some (packAR 0x02 rd.toNat ra.toNat rb.toNat 0x001, 0)
  | .mulhu rd ra rb => some (packAR 0x02 rd.toNat ra.toNat rb.toNat 0x002, 0)
  | .div rd ra rb => some (packAR 0x02 rd.toNat ra.toNat rb.toNat 0x003, 0)
  | .divu rd ra rb => some (packAR 0x02 rd.toNat ra.toNat rb.toNat 0x004, 0)
  | .rem rd ra rb => some (packAR 0x02 rd.toNat ra.toNat rb.toNat 0x005, 0)
  | .remu rd ra rb => some (packAR 0x02 rd.toNat ra.toNat rb.toNat 0x006, 0)
  | .dividerDone _ _ => none
  | .clz rd ra => some (packAR 0x03 rd.toNat ra.toNat 0 0x000, 0)
  | .ctz rd ra => some (packAR 0x03 rd.toNat ra.toNat 0 0x001, 0)
  | .popc rd ra => some (packAR 0x03 rd.toNat ra.toNat 0 0x002, 0)
  | .ext rd ra rb => some (packAR 0x03 rd.toNat ra.toNat rb.toNat 0x003, 0)
  | .ins rd ra rb => some (packAR 0x03 rd.toNat ra.toNat rb.toNat 0x004, 0)
  | .abs rd ra => some (packAR 0x03 rd.toNat ra.toNat 0 0x005, 0)
  | .addi rd ra imm => some (packAI 0x04 rd.toNat ra.toNat imm.toNat, 0)
  | .andi rd ra imm => some (packAI 0x05 rd.toNat ra.toNat imm.toNat, 0)
  | .ori rd ra imm => some (packAI 0x06 rd.toNat ra.toNat imm.toNat, 0)
  | .xori rd ra imm => some (packAI 0x07 rd.toNat ra.toNat imm.toNat, 0)
  | .shli rd ra n => some (packAI 0x08 rd.toNat ra.toNat (0 + n.toNat), 0)
  | .shri rd ra n => some (packAI 0x08 rd.toNat ra.toNat (64 + n.toNat), 0)
  | .sari rd ra n => some (packAI 0x08 rd.toNat ra.toNat (128 + n.toNat), 0)
  | .movi rd imm => some (packAI 0x09 rd.toNat 0 imm.toNat, 0)
  | .movhi rd h imm => some (packAI 0x0A rd.toNat h.toNat imm.toNat, 0)
  | .slti rd ra imm => some (packAI 0x0B rd.toNat ra.toNat imm.toNat, 0)
  | .fadd rd ra rb f => some (packAR 0x0C rd.toNat ra.toNat rb.toNat (f.code * 2 ^ 9 + 0), 0)
  | .fsub rd ra rb f => some (packAR 0x0C rd.toNat ra.toNat rb.toNat (f.code * 2 ^ 9 + 1), 0)
  | .fmul rd ra rb f => some (packAR 0x0C rd.toNat ra.toNat rb.toNat (f.code * 2 ^ 9 + 2), 0)
  | .ffma rd ra rb rc f =>
    some (packAR 0x0C rd.toNat ra.toNat rb.toNat (f.code * 2 ^ 9 + rc.toNat * 2 ^ 4 + 3), 0)
  | .fmin rd ra rb f => some (packAR 0x0C rd.toNat ra.toNat rb.toNat (f.code * 2 ^ 9 + 4), 0)
  | .fmax rd ra rb f => some (packAR 0x0C rd.toNat ra.toNat rb.toNat (f.code * 2 ^ 9 + 5), 0)
  | .fcmpeq rd ra rb f => some (packAR 0x0C rd.toNat ra.toNat rb.toNat (f.code * 2 ^ 9 + 6), 0)
  | .fcmplt rd ra rb f => some (packAR 0x0C rd.toNat ra.toNat rb.toNat (f.code * 2 ^ 9 + 7), 0)
  | .fcmple rd ra rb f => some (packAR 0x0C rd.toNat ra.toNat rb.toNat (f.code * 2 ^ 9 + 8), 0)
  | .fsgn rd ra rb f kind =>
    some (packAR 0x0C rd.toNat ra.toNat rb.toNat (f.code * 2 ^ 9 + kind.toNat * 2 ^ 4 + 9), 0)
  | .fcvt rd ra dfmt sfmt sat =>
    some (packAR 0x0D rd.toNat ra.toNat 0 ((if sat then 2 ^ 12 else 0) + sfmt.code / 32 * 2 ^ 11 + dfmt.code * 2 ^ 5 + sfmt.code % 32), 0)
  | .fexp2 rd ra f => some (packAR 0x0E rd.toNat ra.toNat 0 (f.code * 2 ^ 9 + 0), 0)
  | .flog2 rd ra f => some (packAR 0x0E rd.toNat ra.toNat 0 (f.code * 2 ^ 9 + 1), 0)
  | .frcp rd ra f => some (packAR 0x0E rd.toNat ra.toNat 0 (f.code * 2 ^ 9 + 2), 0)
  | .frsq rd ra f => some (packAR 0x0E rd.toNat ra.toNat 0 (f.code * 2 ^ 9 + 3), 0)
  | .fsqrt rd ra f => some (packAR 0x0E rd.toNat ra.toNat 0 (f.code * 2 ^ 9 + 4), 0)
  | .ftanh rd ra f => some (packAR 0x0E rd.toNat ra.toNat 0 (f.code * 2 ^ 9 + 5), 0)
  | .fsin rd ra f => some (packAR 0x0E rd.toNat ra.toNat 0 (f.code * 2 ^ 9 + 6), 0)
  | .fcos rd ra f => some (packAR 0x0E rd.toNat ra.toNat 0 (f.code * 2 ^ 9 + 7), 0)
  | .vfexp2 vd va m fmt => some (packAV 0x0F vd.toNat va.toNat 0 m.toNat fmt.code 0, 0)
  | .vflog2 vd va m fmt => some (packAV 0x0F vd.toNat va.toNat 0 m.toNat fmt.code 1, 0)
  | .vfrcp vd va m fmt => some (packAV 0x0F vd.toNat va.toNat 0 m.toNat fmt.code 2, 0)
  | .vfrsq vd va m fmt => some (packAV 0x0F vd.toNat va.toNat 0 m.toNat fmt.code 3, 0)
  | .vfsqrt vd va m fmt => some (packAV 0x0F vd.toNat va.toNat 0 m.toNat fmt.code 4, 0)
  | .vftanh vd va m fmt => some (packAV 0x0F vd.toNat va.toNat 0 m.toNat fmt.code 5, 0)
  | .vfsin vd va m fmt => some (packAV 0x0F vd.toNat va.toNat 0 m.toNat fmt.code 6, 0)
  | .vfcos vd va m fmt => some (packAV 0x0F vd.toNat va.toNat 0 m.toNat fmt.code 7, 0)
  | .sfuResult _ => none
  | .vadd vd va vb m fmt => some (packAV 0x10 vd.toNat va.toNat vb.toNat m.toNat fmt.code 0, 0)
  | .vsub vd va vb m fmt => some (packAV 0x10 vd.toNat va.toNat vb.toNat m.toNat fmt.code 1, 0)
  | .vmul vd va vb m fmt => some (packAV 0x10 vd.toNat va.toNat vb.toNat m.toNat fmt.code 2, 0)
  | .vmulh vd va vb m fmt => some (packAV 0x10 vd.toNat va.toNat vb.toNat m.toNat fmt.code 3, 0)
  | .vmin vd va vb m fmt => some (packAV 0x10 vd.toNat va.toNat vb.toNat m.toNat fmt.code 4, 0)
  | .vmax vd va vb m fmt => some (packAV 0x10 vd.toNat va.toNat vb.toNat m.toNat fmt.code 5, 0)
  | .vabs vd va m fmt => some (packAV 0x10 vd.toNat va.toNat 0 m.toNat fmt.code 6, 0)
  | .vsadd vd va vb m fmt => some (packAV 0x10 vd.toNat va.toNat vb.toNat m.toNat fmt.code 7, 0)
  | .vand vd va vb m fmt => some (packAV 0x11 vd.toNat va.toNat vb.toNat m.toNat fmt.code 0, 0)
  | .vor vd va vb m fmt => some (packAV 0x11 vd.toNat va.toNat vb.toNat m.toNat fmt.code 1, 0)
  | .vxor vd va vb m fmt => some (packAV 0x11 vd.toNat va.toNat vb.toNat m.toNat fmt.code 2, 0)
  | .vandn vd va vb m fmt => some (packAV 0x11 vd.toNat va.toNat vb.toNat m.toNat fmt.code 3, 0)
  | .vnot vd va m fmt => some (packAV 0x11 vd.toNat va.toNat 0 m.toNat fmt.code 4, 0)
  | .vshl vd va vb m fmt => some (packAV 0x11 vd.toNat va.toNat vb.toNat m.toNat fmt.code 5, 0)
  | .vshr vd va vb m fmt => some (packAV 0x11 vd.toNat va.toNat vb.toNat m.toNat fmt.code 6, 0)
  | .vsar vd va vb m fmt => some (packAV 0x11 vd.toNat va.toNat vb.toNat m.toNat fmt.code 7, 0)
  | .vfadd vd va vb m fmt => some (packAV 0x12 vd.toNat va.toNat vb.toNat m.toNat fmt.code 0, 0)
  | .vfsub vd va vb m fmt => some (packAV 0x12 vd.toNat va.toNat vb.toNat m.toNat fmt.code 1, 0)
  | .vfmul vd va vb m fmt => some (packAV 0x12 vd.toNat va.toNat vb.toNat m.toNat fmt.code 2, 0)
  | .vfma vd va vb m fmt => some (packAV 0x12 vd.toNat va.toNat vb.toNat m.toNat fmt.code 3, 0)
  | .vfmin vd va vb m fmt => some (packAV 0x12 vd.toNat va.toNat vb.toNat m.toNat fmt.code 4, 0)
  | .vfmax vd va vb m fmt => some (packAV 0x12 vd.toNat va.toNat vb.toNat m.toNat fmt.code 5, 0)
  | .vfabs vd va m fmt => some (packAV 0x12 vd.toNat va.toNat 0 m.toNat fmt.code 6, 0)
  | .vfneg vd va m fmt => some (packAV 0x12 vd.toNat va.toNat 0 m.toNat fmt.code 7, 0)
  | .vcmpEq md va vb m fmt => some (packAV 0x13 md.toNat va.toNat vb.toNat m.toNat fmt.code 0, 0)
  | .vcmpNe md va vb m fmt => some (packAV 0x13 md.toNat va.toNat vb.toNat m.toNat fmt.code 1, 0)
  | .vcmpLt md va vb m fmt => some (packAV 0x13 md.toNat va.toNat vb.toNat m.toNat fmt.code 2, 0)
  | .vcmpLe md va vb m fmt => some (packAV 0x13 md.toNat va.toNat vb.toNat m.toNat fmt.code 3, 0)
  | .vcmpLtu md va vb m fmt => some (packAV 0x13 md.toNat va.toNat vb.toNat m.toNat fmt.code 4, 0)
  | .vcmpLeu md va vb m fmt => some (packAV 0x13 md.toNat va.toNat vb.toNat m.toNat fmt.code 5, 0)
  | .vcmpFlt md va vb m fmt => some (packAV 0x13 md.toNat va.toNat vb.toNat m.toNat fmt.code 6, 0)
  | .vcmpFle md va vb m fmt => some (packAV 0x13 md.toNat va.toNat vb.toNat m.toNat fmt.code 7, 0)
  | .vsel vd va vb m fmt => some (packAV 0x14 vd.toNat va.toNat vb.toNat m.toNat fmt.code 0, 0)
  | .vsplat vd xa m fmt => some (packAV 0x14 vd.toNat xa.toNat 0 m.toNat fmt.code 1, 0)
  | .vperm vd va vb m fmt => some (packAV 0x14 vd.toNat va.toNat vb.toNat m.toNat fmt.code 2, 0)
  | .vcomp vd va m fmt => some (packAV 0x14 vd.toNat va.toNat 0 m.toNat fmt.code 3, 0)
  | .vexpd vd va m fmt => some (packAV 0x14 vd.toNat va.toNat 0 m.toNat fmt.code 4, 0)
  | .vshuf vd va vb m fmt => some (packAV 0x14 vd.toNat va.toNat vb.toNat m.toNat fmt.code 5, 0)
  | .vrot vd va xb m fmt => some (packAV 0x14 vd.toNat va.toNat xb.toNat m.toNat fmt.code 6, 0)
  | .vrev vd va m fmt => some (packAV 0x14 vd.toNat va.toNat 0 m.toNat fmt.code 7, 0)
  | .vredadd vd va m fmt => some (packAV 0x15 vd.toNat va.toNat 0 m.toNat fmt.code 0, 0)
  | .vredmax vd va m fmt => some (packAV 0x15 vd.toNat va.toNat 0 m.toNat fmt.code 1, 0)
  | .vredmin vd va m fmt => some (packAV 0x15 vd.toNat va.toNat 0 m.toNat fmt.code 2, 0)
  | .vredand vd va m fmt => some (packAV 0x15 vd.toNat va.toNat 0 m.toNat fmt.code 3, 0)
  | .vredor vd va m fmt => some (packAV 0x15 vd.toNat va.toNat 0 m.toNat fmt.code 4, 0)
  | .vcvt vd va sat partner m fmt srcIsFmt q =>
    some (packAV 0x16 vd.toNat va.toNat ((if sat then 16 else 0) + partner.code) m.toNat fmt.code ((if srcIsFmt then 4 else 0) + q.toNat), 0)
  | .vdot4 vd va vb m fmt => some (packAV 0x17 vd.toNat va.toNat vb.toNat m.toNat fmt.code 0, 0)
  | .vdota vd va vb m fmt => some (packAV 0x17 vd.toNat va.toNat vb.toNat m.toNat fmt.code 1, 0)
  | .vgetl xd va k fmt => some (packAV 0x18 xd.toNat va.toNat k.toNat 0 fmt.code 0, 0)
  | .vsetl vd xa k fmt => some (packAV 0x18 vd.toNat xa.toNat k.toNat 0 fmt.code 1, 0)
  | .bsalign vd va => some (packAV 0x1A vd.toNat va.toNat 0 0 16 0, 0)
  | .scaccL vd va vb m => some (packAV 0x1A vd.toNat va.toNat vb.toNat m.toNat 10 1, 0)
  | .scaccH vd va vb m => some (packAV 0x1A vd.toNat va.toNat vb.toNat m.toNat 10 2, 0)
  | .bsnormL vd va m => some (packAV 0x1A vd.toNat va.toNat 0 m.toNat 10 3, 0)
  | .bsnormH vd va m => some (packAV 0x1A vd.toNat va.toNat 0 m.toNat 10 4, 0)
  | .bsnormR vd va m => some (packAV 0x1A vd.toNat va.toNat 0 m.toNat 10 5, 0)
  | .ppinit pd xa => some (packAV 0x1B pd.toNat xa.toNat 0 0 0 0, 0)
  | .ppmul pd xa xb => some (packAV 0x1B pd.toNat xa.toNat xb.toNat 0 10 1, 0)
  | .ppmulv pd va vb m => some (packAV 0x1B pd.toNat va.toNat vb.toNat m.toNat 10 2, 0)
  | .ppdiv pd xa xb => some (packAV 0x1B pd.toNat xa.toNat xb.toNat 0 10 3, 0)
  | .ppmerge pd pa pb => some (packAV 0x1B pd.toNat pa.toNat pb.toNat 0 0 4, 0)
  | .pprd vd pa g m => some (packAV 0x1B vd.toNat pa.toNat g.toNat m.toNat 10 5, 0)
  | .ppld pd va g m => some (packAV 0x1B pd.toNat va.toNat g.toNat m.toNat 10 6, 0)
  | .ppexp xd pa => some (packAV 0x1B xd.toNat pa.toNat 0 0 0 7, 0)
  | .ppnorm pd => some (packAV 0x1B pd.toNat 0 0 0 1 7, 0)
  | .ppaOpComplete _ => none
  | .mand md ma mb => some (packAR 0x1C md.toNat ma.toNat mb.toNat (0), 0)
  | .mor md ma mb => some (packAR 0x1C md.toNat ma.toNat mb.toNat (1), 0)
  | .mnot md ma => some (packAR 0x1C md.toNat ma.toNat 0 (2), 0)
  | .mpopc xd ma w => some (packAR 0x1C xd.toNat ma.toNat 0 (w.toNat * 2 ^ 4 + 3), 0)
  | .mfirst xd ma w => some (packAR 0x1C xd.toNat ma.toNat 0 (w.toNat * 2 ^ 4 + 4), 0)
  | .mset md xa => some (packAR 0x1C md.toNat xa.toNat 0 (5), 0)
  | .mget xd ma => some (packAR 0x1C xd.toNat ma.toNat 0 (6), 0)
  | .resultArrival _ _ _ => none
  | .accessComplete _ _ => none
  | .looseBufferDrain _ => none
  | .drainRequest _ _ => none
  | .feRequestArrival _ _ _ => none
  | .feResend _ _ _ => none
  | .feTimeout _ _ _ => none
  | .feCancel _ _ _ => none
  | .eventTimeout _ _ => none
  | .requestReissue _ _ _ => none
  | .requestFail _ _ _ => none
  | .identityExpiry _ => none
  | .supervisorMessageRetry _ => none
  | .preemptRequest _ => none
  | .threadHalt _ _ => none
  | .imageDone _ => none
  | .arraySpillDone _ => none
  | .coreBlockLoaded _ => none
  | .ueKill _ _ => none
  | .poison _ _ => none
  | .claimWipeComplete _ => none
  | .groupExit _ => none
  | .engineWriteDrop _ _ => none
  | .interestArrival _ => none
  | .tileDelivery _ => none
  | .interestExpiry _ _ => none
  | .neverProduced _ _ => none
  | .purgeAck _ => none
  | .linkUp _ _ _ _ => none
  | .trainingTimeout _ _ => none
  | .llrReplay _ _ _ => none
  | .rudRetransmit _ _ => none
  | .peerFailed _ => none
  | .packetDrop _ _ => none
  | .ycpCreate _ => none
  | .ycpLaunch _ => none
  | .ycpAmsend _ => none
  | .ycpKill _ => none
  | .ycpPreempt _ => none
  | .ycpRestore _ => none
  | .ycpShrink _ => none
  | .ycpWrite _ => none
  | .ycpRead _ => none
  | .budgetWrite _ => none
  | .budgetRead _ => none
  | .identity _ => none
  | .attest _ => none
  | .lifeCycleChange _ _ _ => none
  | .powerGood _ => none
  | .dieReady _ => none
  | .cxlReady _ => none
  | .warmReset => none
  | .coldReset _ => none
  | .operatingPointChange _ _ => none
  | .budgetStep _ _ => none
  | .dieGate _ => none
  | .dieUngate _ => none
  | .yieldExpiry _ _ => none
  | .cpwTimeout _ _ => none
  | .vigilDecodeComplete _ => none
  | .operatingPointSettled _ => none
  | .stackReady _ => none
  | .remoteRequest _ _ _ _ => none
  | .llrAcknowledgement _ _ => none

/-- Whether an instruction stands in the A-word; C-instructions and events do not (R78). -/
def isA : Instr → Bool
  | .anop | .add .. | .sub ..
  | .and .. | .or .. | .xor ..
  | .shl .. | .shr .. | .sar ..
  | .rol .. | .min .. | .max ..
  | .minu .. | .maxu .. | .slt ..
  | .sltu .. | .seq .. | .csel ..
  | .mul .. | .mulh .. | .mulhu ..
  | .div .. | .divu .. | .rem ..
  | .remu .. | .clz .. | .ctz ..
  | .popc .. | .ext .. | .ins ..
  | .abs .. | .addi .. | .andi ..
  | .ori .. | .xori .. | .shli ..
  | .shri .. | .sari .. | .movi ..
  | .movhi .. | .slti .. | .fadd ..
  | .fsub .. | .fmul .. | .ffma ..
  | .fmin .. | .fmax .. | .fcmpeq ..
  | .fcmplt .. | .fcmple .. | .fsgn ..
  | .fcvt .. | .fexp2 .. | .flog2 ..
  | .frcp .. | .frsq .. | .fsqrt ..
  | .ftanh .. | .fsin .. | .fcos ..
  | .vfexp2 .. | .vflog2 .. | .vfrcp ..
  | .vfrsq .. | .vfsqrt .. | .vftanh ..
  | .vfsin .. | .vfcos .. | .vadd ..
  | .vsub .. | .vmul .. | .vmulh ..
  | .vmin .. | .vmax .. | .vabs ..
  | .vsadd .. | .vand .. | .vor ..
  | .vxor .. | .vandn .. | .vnot ..
  | .vshl .. | .vshr .. | .vsar ..
  | .vfadd .. | .vfsub .. | .vfmul ..
  | .vfma .. | .vfmin .. | .vfmax ..
  | .vfabs .. | .vfneg .. | .vcmpEq ..
  | .vcmpNe .. | .vcmpLt .. | .vcmpLe ..
  | .vcmpLtu .. | .vcmpLeu .. | .vcmpFlt ..
  | .vcmpFle .. | .vsel .. | .vsplat ..
  | .vperm .. | .vcomp .. | .vexpd ..
  | .vshuf .. | .vrot .. | .vrev ..
  | .vredadd .. | .vredmax .. | .vredmin ..
  | .vredand .. | .vredor .. | .vcvt ..
  | .vdot4 .. | .vdota .. | .vgetl ..
  | .vsetl .. | .bsalign .. | .scaccL ..
  | .scaccH .. | .bsnormL .. | .bsnormH ..
  | .bsnormR .. | .ppinit .. | .ppmul ..
  | .ppmulv .. | .ppdiv .. | .ppmerge ..
  | .pprd .. | .ppld .. | .ppexp ..
  | .ppnorm .. | .mand .. | .mor ..
  | .mnot .. | .mpopc .. | .mfirst ..
  | .mset .. | .mget .. => true
  | _ => false

/-- Whether an instruction is an event of the device, which no bundle holds. -/
def isEvent (i : Instr) : Bool := (encode i).isNone

/-- Whether a C-instruction takes word 1 as its extension (R80). -/
def isLong (i : Instr) : Bool :=
  match encode i with
  | some (w, _) => !isA i && bit w 31
  | none => false

/-- The rows that share one encoding with an earlier row, sent to that row (log 11, DEDUCED). -/
def canonical : Instr → Instr
  | .portNeighbour rd q ra rb => .portUnbind rd q ra rb
  | .portMbrecv rd q ra rb => .portUnbind rd q ra rb
  | .portMbsend rd q ra rb => .portUnbind rd q ra rb
  | .portArraycmd rd q ra rb => .portUnbind rd q ra rb
  | .portArrayres rd q ra rb => .portUnbind rd q ra rb
  | .portMbdef rd q ra rb => .portUnbind rd q ra rb
  | .killContext rd ra rb => .killThread rd ra rb
  | .resumeSkip rd ra rb => .resumeRetry rd ra rb
  | .resumeHandler rd ra rb => .resumeRetry rd ra rb
  | .mapinvRetire rd ra rb => .mapinvUnmap rd ra rb
  | .pghotHalve rd ra rb => .pghotRead rd ra rb
  | .pghotClear rd ra rb => .pghotRead rd ra rb
  | .pghotPromote rd ra rb => .pghotRead rd ra rb
  | .tlbflGlobal rd ra rb => .tlbflPage rd ra rb
  | .tlbflPrivate rd ra rb => .tlbflPage rd ra rb
  | .tlbflContext rd ra rb => .tlbflPage rd ra rb
  | .tlbflDevice rd ra rb => .tlbflPage rd ra rb
  | .bankretDomain rd ra => .bankret rd ra
  | .lkctlDisable rd ra rb => .lkctlEnable rd ra rb
  | .lkctlRetrain rd ra rb => .lkctlEnable rd ra rb
  | .lkctlWriteRoute rd ra rb => .lkctlEnable rd ra rb
  | .lkctlClearLoss rd ra rb => .lkctlEnable rd ra rb
  | .lkctlRevive rd ra rb => .lkctlEnable rd ra rb
  | .lkqCap rd ra => .lkqStatus rd ra
  | .lkqLoss rd ra => .lkqStatus rd ra
  | .lkqRoute rd ra => .lkqStatus rd ra
  | .lkqWindow rd ra => .lkqStatus rd ra
  | .namerouteReadRoute rd ra rb => .namerouteWriteRoute rd ra rb
  | .namerouteSetTarn rd ra rb => .namerouteWriteRoute rd ra rb
  | .namerouteReadDrops rd ra rb => .namerouteWriteRoute rd ra rb
  | i => i

/-! ## The registers a word names -/

/-- The class of a register field (R90, R133). -/
inductive RegClass where
  | scalar | vector | mask
  deriving DecidableEq, Repr

/-- One register field of a word: what it names, whether the word reads and writes it, and whether the write is
long-latency (R84). -/
structure RegUse where
  cls  : RegClass
  num  : Reg
  rd   : Bool
  wr   : Bool
  late : Bool
  deriving DecidableEq, Repr

/-- A field read, written, read and written, written late, read and written late. -/
def sR (r : Reg) : RegUse := ⟨.scalar, r, true, false, false⟩
def sW (r : Reg) : RegUse := ⟨.scalar, r, false, true, false⟩
def sRW (r : Reg) : RegUse := ⟨.scalar, r, true, true, false⟩
def sL (r : Reg) : RegUse := ⟨.scalar, r, false, true, true⟩
def sRL (r : Reg) : RegUse := ⟨.scalar, r, true, true, true⟩
def vR (r : Reg) : RegUse := ⟨.vector, r, true, false, false⟩
def vW (r : Reg) : RegUse := ⟨.vector, r, false, true, false⟩
def vRW (r : Reg) : RegUse := ⟨.vector, r, true, true, false⟩
def vL (r : Reg) : RegUse := ⟨.vector, r, false, true, true⟩

/-- A mask written as a destination (R140, R149). -/
def mW (m : MaskNo) : RegUse := ⟨.mask, m.setWidth 5, false, true, false⟩

/-- The destination of a full/empty load: late only when loose (R84). -/
def feDest (rd : Reg) (o : Order) : RegUse := if o = .loose then sL rd else sW rd

/-- rb of SPAWN and AMSEND: a PC in the short form, unused in the long one. -/
def rbShort (rb : Reg) (ext : Ext) : List RegUse := if ext.isNone then [sR rb] else []

/-- rd of a copy: the destination address for DK 0 and 3, unused for the FIFOs (R181). -/
def cpyDst (rd : Reg) (dk : BitVec 2) : List RegUse := if dk = 1 ∨ dk = 2 then [] else [sR rd]

/-- The register fields of a word, from its highest encoding bits downward (R87), the link register last. -/
def regUses : Instr → List RegUse
  | .gets rd _ => [sW rd]
  | .sets _ rs => [sR rs]
  | .tstamp rd => [sW rd]
  | .waitev rd ra => [sW rd, sR ra]
  | .beq ra rb _ => [sR ra, sR rb]
  | .bne ra rb _ => [sR ra, sR rb]
  | .blt ra rb _ => [sR ra, sR rb]
  | .bge ra rb _ => [sR ra, sR rb]
  | .bltu ra rb _ => [sR ra, sR rb]
  | .bgeu ra rb _ => [sR ra, sR rb]
  | .call _ _ => [sW 8]
  | .jr ra => [sR ra]
  | .callr ra => [sR ra, sW 8]
  | .ldb rd base _ _ => [sL rd, sR base]
  | .ldbu rd base _ _ => [sL rd, sR base]
  | .ldh rd base _ _ => [sL rd, sR base]
  | .ldhu rd base _ _ => [sL rd, sR base]
  | .ldw rd base _ _ => [sL rd, sR base]
  | .ldwu rd base _ _ => [sL rd, sR base]
  | .ldd rd base _ _ => [sL rd, sR base]
  | .ldv rd base _ _ => [vL rd, sR base]
  | .stb rd base _ _ => [sR rd, sR base]
  | .sth rd base _ _ => [sR rd, sR base]
  | .stw rd base _ _ => [sR rd, sR base]
  | .std rd base _ _ => [sR rd, sR base]
  | .stv rd base _ _ => [vR rd, sR base]
  | .ldwF rd ra ord _ => [feDest rd ord, sR ra]
  | .lddF rd ra ord _ => [feDest rd ord, sR ra]
  | .ldwT rd ra ord _ => [feDest rd ord, sR ra]
  | .lddT rd ra ord _ => [feDest rd ord, sR ra]
  | .stwE rd ra _ _ => [sR rd, sR ra]
  | .stdE rd ra _ _ => [sR rd, sR ra]
  | .stwX rd ra _ _ => [sR rd, sR ra]
  | .stdX rd ra _ _ => [sR rd, sR ra]
  | .fempty ra _ _ => [sR ra]
  | .fstat rd ra _ _ => [sW rd, sR ra]
  | .amoadd rd ra rb _ _ _ => [sL rd, sR ra, sR rb]
  | .amoand rd ra rb _ _ _ => [sL rd, sR ra, sR rb]
  | .amoor rd ra rb _ _ _ => [sL rd, sR ra, sR rb]
  | .amoxor rd ra rb _ _ _ => [sL rd, sR ra, sR rb]
  | .amomin rd ra rb _ _ _ => [sL rd, sR ra, sR rb]
  | .amomax rd ra rb _ _ _ => [sL rd, sR ra, sR rb]
  | .amominu rd ra rb _ _ _ => [sL rd, sR ra, sR rb]
  | .amomaxu rd ra rb _ _ _ => [sL rd, sR ra, sR rb]
  | .amoswap rd ra rb _ _ _ => [sL rd, sR ra, sR rb]
  | .amocas rd ra rb _ _ _ => [sRL rd, sR ra, sR rb]
  | .vgath vd ra vb _ _ _ _ => [vL vd, sR ra, vR vb]
  | .vscat vd ra vb _ _ _ _ => [vR vd, sR ra, vR vb]
  | .sptst rd ra => [sW rd, sR ra]
  | .spcast rd ra => [sW rd, sR ra]
  | .vpin rd ra _ => [sW rd, sR ra]
  | .cpy rd ra rb dk _ => cpyDst rd dk ++ [sR ra, sR rb]
  | .cpys rd ra rb dk _ => cpyDst rd dk ++ [sR ra, sR rb]
  | .cpwaitany rd ra => [sW rd, sR ra]
  | .cpwaitall ra => [sR ra]
  | .cpfirst rd ra => [sW rd, sR ra]
  | .cpclr ra => [sR ra]
  | .scanq ra _ => [sR ra]
  | .annc rd ra rb _ => [sW rd, sR ra, sR rb]
  | .want ra rb _ _ => [sR ra, sR rb]
  | .retrc rd _ => [sW rd]
  | .portUnbind rd _ ra rb => [sW rd, sR ra, sR rb]
  | .portNeighbour rd _ ra rb => [sW rd, sR ra, sR rb]
  | .portMbrecv rd _ ra rb => [sW rd, sR ra, sR rb]
  | .portMbsend rd _ ra rb => [sW rd, sR ra, sR rb]
  | .portArraycmd rd _ ra rb => [sW rd, sR ra, sR rb]
  | .portArrayres rd _ ra rb => [sW rd, sR ra, sR rb]
  | .portMbdef rd _ ra rb => [sW rd, sR ra, sR rb]
  | .qstat rd _ => [sL rd]
  | .rinit rd ra rb _ => [sR rd, sR ra, sR rb]
  | .racq rd ra _ => [sW rd, sR ra]
  | .rcommit rd ra _ => [sR rd, sR ra]
  | .rpeek rd ra _ => [sW rd, sR ra]
  | .rrel ra _ => [sR ra]
  | .mhset ra rb => [sR ra, sR rb]
  | .rowdone ra => [sR ra]
  | .spawn rd ra rb ext => [sW rd, sR ra] ++ rbShort rb ext
  | .fork ra rb _ _ => [sR ra, sR rb]
  | .join ra => [sR ra]
  | .migr ra => [sR ra]
  | .anchor ra => [sR ra]
  | .amsend ra rb _ ext => [sR ra] ++ rbShort rb ext
  | .barinit rd ra rb => [sW rd, sR ra, sR rb]
  | .bararr rd ra rb => [sW rd, sR ra, sR rb]
  | .barwait rd ra rb => [sW rd, sR ra, sR rb]
  | .baraw rd ra rb => [sW rd, sR ra, sR rb]
  | .semp rd ra => [sW rd, sR ra]
  | .semv ra rb => [sR ra, sR rb]
  | .gang rd => [sW rd]
  | .twin rd => [sW rd]
  | .killThread rd ra rb => [sW rd, sR ra, sR rb]
  | .killContext rd ra rb => [sW rd, sR ra, sR rb]
  | .wake rd ra => [sW rd, sR ra]
  | .resumeRetry rd ra rb => [sW rd, sR ra, sR rb]
  | .resumeSkip rd ra rb => [sW rd, sR ra, sR rb]
  | .resumeHandler rd ra rb => [sW rd, sR ra, sR rb]
  | .preempt rd ra => [sW rd, sR ra]
  | .mapset rd ra rb => [sW rd, sR ra, sR rb]
  | .mapinvUnmap rd ra rb => [sW rd, sR ra, sR rb]
  | .mapinvRetire rd ra rb => [sW rd, sR ra, sR rb]
  | .pghotRead rd ra rb => [sW rd, sR ra, sR rb]
  | .pghotHalve rd ra rb => [sW rd, sR ra, sR rb]
  | .pghotClear rd ra rb => [sW rd, sR ra, sR rb]
  | .pghotPromote rd ra rb => [sW rd, sR ra, sR rb]
  | .tlbflPage rd ra rb => [sW rd, sR ra, sR rb]
  | .tlbflGlobal rd ra rb => [sW rd, sR ra, sR rb]
  | .tlbflPrivate rd ra rb => [sW rd, sR ra, sR rb]
  | .tlbflContext rd ra rb => [sW rd, sR ra, sR rb]
  | .tlbflDevice rd ra rb => [sW rd, sR ra, sR rb]
  | .bankret rd ra => [sW rd, sR ra]
  | .bankretDomain rd ra => [sW rd, sR ra]
  | .bankq rd ra => [sW rd, sR ra]
  | .lkctlEnable rd ra rb => [sW rd, sR ra, sR rb]
  | .lkctlDisable rd ra rb => [sW rd, sR ra, sR rb]
  | .lkctlRetrain rd ra rb => [sW rd, sR ra, sR rb]
  | .lkctlWriteRoute rd ra rb => [sW rd, sR ra, sR rb]
  | .lkctlClearLoss rd ra rb => [sW rd, sR ra, sR rb]
  | .lkctlRevive rd ra rb => [sW rd, sR ra, sR rb]
  | .lkqStatus rd ra => [sW rd, sR ra]
  | .lkqCap rd ra => [sW rd, sR ra]
  | .lkqLoss rd ra => [sW rd, sR ra]
  | .lkqRoute rd ra => [sW rd, sR ra]
  | .lkqWindow rd ra => [sW rd, sR ra]
  | .namerouteWriteRoute rd ra rb => [sW rd, sR ra, sR rb]
  | .namerouteReadRoute rd ra rb => [sW rd, sR ra, sR rb]
  | .namerouteSetTarn rd ra rb => [sW rd, sR ra, sR rb]
  | .namerouteReadDrops rd ra rb => [sW rd, sR ra, sR rb]
  | .movl rd _ => [sW rd]
  | .movlU rd _ => [sW rd]
  | .movlH rd _ => [sRW rd]
  | .add rd ra rb => [sW rd, sR ra, sR rb]
  | .sub rd ra rb => [sW rd, sR ra, sR rb]
  | .and rd ra rb => [sW rd, sR ra, sR rb]
  | .or rd ra rb => [sW rd, sR ra, sR rb]
  | .xor rd ra rb => [sW rd, sR ra, sR rb]
  | .shl rd ra rb => [sW rd, sR ra, sR rb]
  | .shr rd ra rb => [sW rd, sR ra, sR rb]
  | .sar rd ra rb => [sW rd, sR ra, sR rb]
  | .rol rd ra rb => [sW rd, sR ra, sR rb]
  | .min rd ra rb => [sW rd, sR ra, sR rb]
  | .max rd ra rb => [sW rd, sR ra, sR rb]
  | .minu rd ra rb => [sW rd, sR ra, sR rb]
  | .maxu rd ra rb => [sW rd, sR ra, sR rb]
  | .slt rd ra rb => [sW rd, sR ra, sR rb]
  | .sltu rd ra rb => [sW rd, sR ra, sR rb]
  | .seq rd ra rb => [sW rd, sR ra, sR rb]
  | .csel rd rc ra rb => [sW rd, sR ra, sR rb, sR rc]
  | .mul rd ra rb => [sW rd, sR ra, sR rb]
  | .mulh rd ra rb => [sW rd, sR ra, sR rb]
  | .mulhu rd ra rb => [sW rd, sR ra, sR rb]
  | .div rd ra rb => [sW rd, sR ra, sR rb]
  | .divu rd ra rb => [sW rd, sR ra, sR rb]
  | .rem rd ra rb => [sW rd, sR ra, sR rb]
  | .remu rd ra rb => [sW rd, sR ra, sR rb]
  | .clz rd ra => [sW rd, sR ra]
  | .ctz rd ra => [sW rd, sR ra]
  | .popc rd ra => [sW rd, sR ra]
  | .ext rd ra rb => [sW rd, sR ra, sR rb]
  | .ins rd ra rb => [sRW rd, sR ra, sR rb]
  | .abs rd ra => [sW rd, sR ra]
  | .addi rd ra _ => [sW rd, sR ra]
  | .andi rd ra _ => [sW rd, sR ra]
  | .ori rd ra _ => [sW rd, sR ra]
  | .xori rd ra _ => [sW rd, sR ra]
  | .shli rd ra _ => [sW rd, sR ra]
  | .shri rd ra _ => [sW rd, sR ra]
  | .sari rd ra _ => [sW rd, sR ra]
  | .movi rd _ => [sW rd]
  | .movhi rd _ _ => [sRW rd]
  | .slti rd ra _ => [sW rd, sR ra]
  | .fadd rd ra rb _ => [sW rd, sR ra, sR rb]
  | .fsub rd ra rb _ => [sW rd, sR ra, sR rb]
  | .fmul rd ra rb _ => [sW rd, sR ra, sR rb]
  | .ffma rd ra rb rc _ => [sW rd, sR ra, sR rb, sR rc]
  | .fmin rd ra rb _ => [sW rd, sR ra, sR rb]
  | .fmax rd ra rb _ => [sW rd, sR ra, sR rb]
  | .fcmpeq rd ra rb _ => [sW rd, sR ra, sR rb]
  | .fcmplt rd ra rb _ => [sW rd, sR ra, sR rb]
  | .fcmple rd ra rb _ => [sW rd, sR ra, sR rb]
  | .fsgn rd ra rb _ _ => [sW rd, sR ra, sR rb]
  | .fcvt rd ra _ _ _ => [sW rd, sR ra]
  | .fexp2 rd ra _ => [sL rd, sR ra]
  | .flog2 rd ra _ => [sL rd, sR ra]
  | .frcp rd ra _ => [sL rd, sR ra]
  | .frsq rd ra _ => [sL rd, sR ra]
  | .fsqrt rd ra _ => [sL rd, sR ra]
  | .ftanh rd ra _ => [sL rd, sR ra]
  | .fsin rd ra _ => [sL rd, sR ra]
  | .fcos rd ra _ => [sL rd, sR ra]
  | .vfexp2 vd va _ _ => [vL vd, vR va]
  | .vflog2 vd va _ _ => [vL vd, vR va]
  | .vfrcp vd va _ _ => [vL vd, vR va]
  | .vfrsq vd va _ _ => [vL vd, vR va]
  | .vfsqrt vd va _ _ => [vL vd, vR va]
  | .vftanh vd va _ _ => [vL vd, vR va]
  | .vfsin vd va _ _ => [vL vd, vR va]
  | .vfcos vd va _ _ => [vL vd, vR va]
  | .vadd vd va vb _ _ => [vW vd, vR va, vR vb]
  | .vsub vd va vb _ _ => [vW vd, vR va, vR vb]
  | .vmul vd va vb _ _ => [vW vd, vR va, vR vb]
  | .vmulh vd va vb _ _ => [vW vd, vR va, vR vb]
  | .vmin vd va vb _ _ => [vW vd, vR va, vR vb]
  | .vmax vd va vb _ _ => [vW vd, vR va, vR vb]
  | .vabs vd va _ _ => [vW vd, vR va]
  | .vsadd vd va vb _ _ => [vW vd, vR va, vR vb]
  | .vand vd va vb _ _ => [vW vd, vR va, vR vb]
  | .vor vd va vb _ _ => [vW vd, vR va, vR vb]
  | .vxor vd va vb _ _ => [vW vd, vR va, vR vb]
  | .vandn vd va vb _ _ => [vW vd, vR va, vR vb]
  | .vnot vd va _ _ => [vW vd, vR va]
  | .vshl vd va vb _ _ => [vW vd, vR va, vR vb]
  | .vshr vd va vb _ _ => [vW vd, vR va, vR vb]
  | .vsar vd va vb _ _ => [vW vd, vR va, vR vb]
  | .vfadd vd va vb _ _ => [vW vd, vR va, vR vb]
  | .vfsub vd va vb _ _ => [vW vd, vR va, vR vb]
  | .vfmul vd va vb _ _ => [vW vd, vR va, vR vb]
  | .vfma vd va vb _ _ => [vRW vd, vR va, vR vb]
  | .vfmin vd va vb _ _ => [vW vd, vR va, vR vb]
  | .vfmax vd va vb _ _ => [vW vd, vR va, vR vb]
  | .vfabs vd va _ _ => [vW vd, vR va]
  | .vfneg vd va _ _ => [vW vd, vR va]
  | .vcmpEq md va vb _ _ => [mW md, vR va, vR vb]
  | .vcmpNe md va vb _ _ => [mW md, vR va, vR vb]
  | .vcmpLt md va vb _ _ => [mW md, vR va, vR vb]
  | .vcmpLe md va vb _ _ => [mW md, vR va, vR vb]
  | .vcmpLtu md va vb _ _ => [mW md, vR va, vR vb]
  | .vcmpLeu md va vb _ _ => [mW md, vR va, vR vb]
  | .vcmpFlt md va vb _ _ => [mW md, vR va, vR vb]
  | .vcmpFle md va vb _ _ => [mW md, vR va, vR vb]
  | .vsel vd va vb _ _ => [vW vd, vR va, vR vb]
  | .vsplat vd xa _ _ => [vW vd, sR xa]
  | .vperm vd va vb _ _ => [vW vd, vR va, vR vb]
  | .vcomp vd va _ _ => [vW vd, vR va]
  | .vexpd vd va _ _ => [vW vd, vR va]
  | .vshuf vd va vb _ _ => [vW vd, vR va, vR vb]
  | .vrot vd va xb _ _ => [vW vd, vR va, sR xb]
  | .vrev vd va _ _ => [vW vd, vR va]
  | .vredadd vd va _ _ => [vW vd, vR va]
  | .vredmax vd va _ _ => [vW vd, vR va]
  | .vredmin vd va _ _ => [vW vd, vR va]
  | .vredand vd va _ _ => [vW vd, vR va]
  | .vredor vd va _ _ => [vW vd, vR va]
  | .vcvt vd va _ _ _ _ _ _ => [vW vd, vR va]
  | .vdot4 vd va vb _ _ => [vRW vd, vR va, vR vb]
  | .vdota vd va vb _ _ => [vRW vd, vR va, vR vb]
  | .vgetl xd va _ _ => [sW xd, vR va]
  | .vsetl vd xa _ _ => [vRW vd, sR xa]
  | .bsalign vd va => [vRW vd, vR va]
  | .scaccL vd va vb _ => [vRW vd, vR va, vR vb]
  | .scaccH vd va vb _ => [vRW vd, vR va, vR vb]
  | .bsnormL vd va _ => [vW vd, vR va]
  | .bsnormH vd va _ => [vW vd, vR va]
  | .bsnormR vd va _ => [vW vd, vR va]
  | .ppinit _ xa => [sR xa]
  | .ppmul _ xa xb => [sR xa, sR xb]
  | .ppmulv _ va vb _ => [vR va, vR vb]
  | .ppdiv _ xa xb => [sR xa, sR xb]
  | .pprd vd _ _ _ => [vL vd]
  | .ppld _ va _ _ => [vR va]
  | .ppexp xd _ => [sL xd]
  | .mand md _ _ => [mW md]
  | .mor md _ _ => [mW md]
  | .mnot md _ => [mW md]
  | .mpopc xd _ _ => [sW xd]
  | .mfirst xd _ _ => [sW xd]
  | .mset md xa => [mW md, sR xa]
  | .mget xd _ => [sW xd]
  | _ => []

/-- The register fields of both words of a bundle, each with its word. -/
def bundleUses (b : Bundle) : List (Nat × RegUse) :=
  (regUses b.c).map (fun u => (0, u)) ++ (regUses b.a).map (fun u => (1, u))

/-- Two fields name one register for R81: the same register of one bank, the two views of one port included (R92). -/
def sameReg (u v : RegUse) : Bool :=
  (u.num == v.num) && (u.cls == v.cls || (28 ≤ u.num.toNat && u.cls != .mask && v.cls != .mask))

/-- Both words write one register (R81). -/
def doubleWrite (b : Bundle) : Bool :=
  (regUses b.c).any fun u => u.wr && (regUses b.a).any fun v => v.wr && sameReg u v

/-- The checks of one word that depend on the thread being ganged (R94, R148, R212). -/
def gangOk (i : Instr) : Bool :=
  (regUses i).all (fun u => u.cls != .vector || u.num.toNat < 16) &&
  (match i with
    | .pprd _ _ g _ | .ppld _ _ g _ => g.toNat < 15
    | _ => true)

/-- The checks of one word that depend on the thread not being ganged (R148). -/
def singleOk : Instr → Bool
  | .vgetl _ _ k f | .vsetl _ _ k f => k.toNat < 128 / f.width
  | _ => true

/-- Step 3 of R82 for one word: its encoding, then its mode. -/
def checkWord (word : Nat) (gang : Bool) (r : Except Reject Instr) : Except Illegal Instr :=
  match r with
  | .error e => .error ⟨word, e⟩
  | .ok i =>
    if gang && !gangOk i then .error ⟨word, .gangShared⟩
    else if !gang && !singleOk i then .error ⟨word, .badImmediate⟩
    else .ok i

/-- The bundle of two words, for a thread ganged or not: the C-word, the A-word, then R80, R81 and the pairing of RETT,
in the order of step 3 of R82 and R428. -/
def decodeBundle (gang : Bool) (w : BitVec 64) : Except Illegal Bundle :=
  let w0 := w.toNat % 2 ^ 32
  let w1 := w.toNat / 2 ^ 32
  match checkWord 0 gang (decodeC w0 w1) with
  | .error e => .error e
  | .ok c =>
    match (if bit w0 31 then .ok .anop else checkWord 1 gang (decodeA w1)) with
    | .error e => .error e
    | .ok a =>
      let b : Bundle := ⟨bit w0 30, c, a⟩
      if doubleWrite b then .error ⟨1, .doubleWrite⟩
      else if c = .rett ∧ a ≠ .anop then .error ⟨1, .rettPair⟩
      else .ok b

/-- A bundle stands for an encoding: a C-instruction and an A-instruction, each well formed, with no late port, no
register written twice, ANOP beside RETT and beside a long form. -/
def bundleOk (gang : Bool) (b : Bundle) : Bool :=
  instrOk b.c && instrOk b.a && !isEvent b.c && !isA b.c && isA b.a &&
  (!isLong b.c || b.a == .anop) && !doubleWrite b && (b.c != .rett || b.a == .anop) &&
  (bundleUses b).all (fun p => !p.2.late || p.2.num.toNat < 28) &&
  (if gang then gangOk b.c && gangOk b.a else singleOk b.c && singleOk b.a)

/-- The 64 bits of a bundle, word 0 lowest (R78); none when a word of it is no instruction of its slot. -/
def encodeBundle (b : Bundle) : Option (BitVec 64) :=
  match encode b.c, encode b.a with
  | some (c, x), some (a, _) =>
    some (BitVec.ofNat 64 (c + (if b.s then 2 ^ 30 else 0) + (if isLong b.c then x else a) * 2 ^ 32))
  | _, _ => none

/-! ## Words of the opcode table -/

/-- How many bits of its first word a family of instructions fixes: the wider the mask of the table, the likelier it is
that a word both slots could read belongs to it (log 10, DESIGN CHOICE). -/
def fixedBits (i : Instr) : Nat :=
  match i with
  | .ldb .. | .ldbu .. | .ldh .. | .ldhu .. | .ldw ..
  | .ldwu .. | .ldd .. | .ldv .. | .stb .. | .sth ..
  | .stw .. | .std .. | .stv .. | .addi .. | .andi ..
  | .ori .. | .xori .. | .slti .. | .vcvt .. => 6
  | .beq .. | .bne .. | .blt .. | .bge .. | .bltu ..
  | .bgeu .. | .br .. | .call .. | .vgath .. | .vscat .. => 7
  | .cpy .. | .cpys .. => 8
  | .movhi .. | .fcvt .. | .vadd .. | .vsub .. | .vmul ..
  | .vmulh .. | .vmin .. | .vmax .. | .vsadd .. | .vand ..
  | .vor .. | .vxor .. | .vandn .. | .vshl .. | .vshr ..
  | .vsar .. | .vfadd .. | .vfsub .. | .vfmul .. | .vfma ..
  | .vfmin .. | .vfmax .. | .vcmpEq .. | .vcmpNe .. | .vcmpLt ..
  | .vcmpLe .. | .vcmpLtu .. | .vcmpLeu .. | .vcmpFlt .. | .vcmpFle ..
  | .vsel .. | .vperm .. | .vshuf .. | .vrot .. | .vdot4 ..
  | .vdota .. => 9
  | .amoadd .. | .amoand .. | .amoor .. | .amoxor .. | .amomin ..
  | .amomax .. | .amominu .. | .amomaxu .. | .amoswap .. | .amocas ..
  | .ffma .. => 10
  | .movi .. | .vgetl .. | .vsetl .. => 11
  | .csel .. => 12
  | .rinit .. | .fsgn .. => 13
  | .portUnbind .. | .portNeighbour .. | .portMbrecv .. | .portMbsend .. | .portArraycmd ..
  | .portArrayres .. | .portMbdef .. | .amsend .. | .vfexp2 .. | .vflog2 ..
  | .vfrcp .. | .vfrsq .. | .vfsqrt .. | .vftanh .. | .vfsin ..
  | .vfcos .. | .vabs .. | .vnot .. | .vfabs .. | .vfneg ..
  | .vsplat .. | .vcomp .. | .vexpd .. | .vrev .. | .vredadd ..
  | .vredmax .. | .vredmin .. | .vredand .. | .vredor .. => 14
  | .spawn .. | .fadd .. | .fsub .. | .fmul .. | .fmin ..
  | .fmax .. | .fcmpeq .. | .fcmplt .. | .fcmple .. | .scaccL ..
  | .scaccH .. | .ppmulv .. | .pprd .. | .ppld .. => 15
  | .trap .. | .gets .. | .sets .. | .ldwF .. | .lddF ..
  | .ldwT .. | .lddT .. | .stwE .. | .stdE .. | .stwX ..
  | .stdX .. | .fstat .. | .barinit .. | .bararr .. | .barwait ..
  | .baraw .. | .killThread .. | .killContext .. | .resumeRetry .. | .resumeSkip ..
  | .resumeHandler .. | .mapset .. | .mapinvUnmap .. | .mapinvRetire .. | .pghotRead ..
  | .pghotHalve .. | .pghotClear .. | .pghotPromote .. | .tlbflPage .. | .tlbflGlobal ..
  | .tlbflPrivate .. | .tlbflContext .. | .tlbflDevice .. | .lkctlEnable .. | .lkctlDisable ..
  | .lkctlRetrain .. | .lkctlWriteRoute .. | .lkctlClearLoss .. | .lkctlRevive .. | .namerouteWriteRoute ..
  | .namerouteReadRoute .. | .namerouteSetTarn .. | .namerouteReadDrops .. | .shli .. | .shri ..
  | .sari .. => 16
  | .add .. | .sub .. | .and .. | .or .. | .xor ..
  | .shl .. | .shr .. | .sar .. | .rol .. | .min ..
  | .max .. | .minu .. | .maxu .. | .slt .. | .sltu ..
  | .seq .. | .mul .. | .mulh .. | .mulhu .. | .div ..
  | .divu .. | .rem .. | .remu .. | .ext .. | .ins ..
  | .ppmul .. | .ppdiv .. | .ppmerge .. | .mand .. | .mor .. => 17
  | .xfence .. | .vpin .. | .racq .. | .rcommit .. | .rpeek .. => 18
  | .scanq .. | .retrc .. | .fexp2 .. | .flog2 .. | .frcp ..
  | .frsq .. | .fsqrt .. | .ftanh .. | .fsin .. | .fcos ..
  | .bsnormL .. | .bsnormH .. | .bsnormR .. | .mpopc .. | .mfirst .. => 20
  | .waitev .. | .fempty .. | .sptst .. | .spcast .. | .cpwaitany ..
  | .cpfirst .. | .mhset .. | .semp .. | .semv .. | .wake ..
  | .preempt .. | .bankret .. | .bankretDomain .. | .bankq .. | .lkqStatus ..
  | .lkqCap .. | .lkqLoss .. | .lkqRoute .. | .lkqWindow .. => 21
  | .clz .. | .ctz .. | .popc .. | .abs .. | .bsalign ..
  | .ppinit .. | .ppexp .. | .mnot .. | .mset .. | .mget .. => 22
  | .rrel .. => 23
  | .qstat .. => 24
  | .tstamp .. | .jr .. | .callr .. | .cpwaitall .. | .cpclr ..
  | .rowdone .. | .join .. | .migr .. | .anchor .. | .gang ..
  | .twin .. => 26
  | .ppnorm .. => 27
  | .fence .. => 28
  | .annc .. | .want .. | .fork .. | .movl .. | .movlU ..
  | .movlH .. => 30
  | .nop | .rett | .yield | .lease | .lrel
  | .quit | .ungang | .untwin => 31
  | .anop => 32
  | _ => 0

/-- The reading of a first word as a C-instruction, with the bits above it as its extension. -/
def tableC (w : Nat) : Option Instr := (decodeC (w % 2 ^ 32) (w / 2 ^ 32 % 2 ^ 32)).toOption

/-- The reading of a word as an A-instruction. -/
def tableA (w : Nat) : Option Instr := if w < 2 ^ 32 then (decodeA w).toOption else none

/-- Whether a word of the table is read in the A-slot: when only that reading exists, or when both exist and the
A-instruction fixes more bits (log 10, DESIGN CHOICE). -/
def tableInA (w : Nat) : Bool :=
  match tableC w, tableA w with
  | none, some _ => true
  | some c, some a => fixedBits c < fixedBits a
  | _, _ => false

/-- The instruction read from a word of the opcode table, its bits numbered as the table numbers them: bit 0 is the
least of the first word, and the extension word counts on from bit 32. A word does not say which slot it stands in;
tableInA chooses. -/
def decodeTableWord (_nbits w : Nat) : Option Instr := if tableInA w then tableA w else tableC w

/-- The bundle in which a word of the table stands: beside ANOP in its slot, or beside NOP (R79). -/
def tableBundle (w : Nat) : BitVec 64 := if tableInA w then BitVec.ofNat 64 (w * 2 ^ 32) else BitVec.ofNat 64 w

end Sys2Proof

end
end

