-- ==== Sys2Proof/Machine/Bundle.lean ====
section
/-!
DEFINITION. A bundle from its fetch to its retirement (R78 to R92, R249, R266): fetch, privilege, decoding, settled
registers, ports, readiness, the latch, the two words, and what follows them; and the wheel of a core (R16).
-/

noncomputable section

namespace Sys2Proof.Machine

/-- Who a thread is when it translates (R70). -/
def whoOf (s : State) (c t : Nat) : Who :=
  let th := thrAt s c t
  { ctx := th.ctx, privid := th.privid.toNat, seat := th.seat, core := c }

/-! ## Fetch -/

/-- What the fetch of a bundle gives (R82 step 1, R327, R337); poisoned: the bundle lies in a poisoned line (R257); later: the clock of the
memory's cluster is stopped (R420). -/
inductive Fetch where
  | word (w : W64)
  | fault (cause : Nat)
  | moving
  | poisoned
  | later
  | unbacked
  deriving DecidableEq, Repr

/-- The fetch of the bundle at a thread's pc, from a peer device too (R74; log 63, DEDUCED). It waits for a page that moves, for a CXL port
that is not UP and for a cluster whose clock is stopped (R337, R375, R420). -/
def fetch (s : State) (c t : Nat) : Fetch × State :=
  let pc := (thrAt s c t).pc
  match translateFar s (whoOf s c t) { x := true } pc 8 with
  | (.reaches (.here loc) _, s) =>
    if stoppedAt s loc then (.later, s)
    else if blockedAt s loc then (.moving, s)
    else if poisonedAt s loc 8 then (.poisoned, s)
    else (.word (BitVec.ofNat 64 (readBytes s loc 8)), s)
  | (.reaches (.peer d a) _, s) => (.word (Config.peerBundle d a), peerUp s d)
  | (.trap c, s) => (.fault c, s)
  | (.wait _, s) => (.moving, s)
  | (.unbacked, s) => (.unbacked, s)

/-! ## Settled registers (R87) -/

/-- The mark that a register field would meet, with $eaddr's code of the register. -/
def markOf (th : Thread) (u : RegUse) : Option W64 :=
  match u.cls with
  | .scalar => if th.marksX &&& markBit u.num != 0 then some (u.num.setWidth 64) else none
  | .vector => if th.marksV &&& markBit u.num != 0 then some (u.num.setWidth 64 ||| 32) else none
  | .mask => none

/-- A scalar register as a bundle that has not issued would read it; a port gives its head. -/
def peekX (s : State) (c t : Nat) (r : Reg) : W64 :=
  let n := r.toNat
  if n < 16 then tget 0 (thrAt s c t).x n
  else if n = 16 then 0
  else if n < 28 then tget 0 (coreAt s c).s (n - 16)
  else ((portFront s c (n - 28)).getD 0).setWidth 64

/-- Scalar registers that an instruction reads or writes beside its fields: x0 to x3 of SPAWN and AMSEND; of FORK x0 to x2 when it
continues in place, else x3 to x6 (R285, R288, R296). A FORK whose count comes from an empty port is checked with the count read as 0 (R87;
log 89, DESIGN CHOICE). -/
def impliedRegs (s : State) (c t : Nat) : Instr → List Nat
  | .spawn _ _ _ _ | .amsend _ _ _ _ => [0, 1, 2, 3]
  | .fork _ rb _ _ => if bits (peekX s c t rb) 0 32 = 0 then [0, 1, 2] else [3, 4, 5, 6]
  | _ => []

/-- The first unsettled register of a bundle: its word and its code (R87). Registers that the C-word's fields do not name come after
those that they do. -/
def unsettled (s : State) (c t : Nat) (b : Bundle) : Option (Nat × W64) :=
  let us := bundleUses b
  let more : List (Nat × RegUse) := (impliedRegs s c t b.c).map (fun n => (0, ⟨.scalar, BitVec.ofNat 5 n, true, false, false⟩))
  let th := thrAt s c t
  (us.filter (fun p => p.1 == 0) ++ more ++ us.filter (fun p => p.1 != 0)).findSome? (fun p => (markOf th p.2).map (fun a => (p.1, a)))

/-! ## Ports (R81, R266) -/

/-- The ports a bundle uses, ascending, each with the word that $ecause names, read and write. -/
def portUses (b : Bundle) : List (Nat × Nat × Bool × Bool) :=
  let us := (bundleUses b).filter (fun p => p.2.cls != .mask && decide (28 ≤ p.2.num.toNat))
  (List.range 4).filterMap (fun p =>
    let l := us.filter (fun q => q.2.num.toNat - 28 == p)
    match l with
    | [] => none
    | q :: _ => some (p, q.1, l.any (·.2.rd), l.any (·.2.wr)))

/-- The cause with which the leading thread of a twin waits at the bundle of its trailing thread (R259). -/
def leaderCause (s : State) (c t : Nat) : Option Nat :=
  let l := thrAt s c (t - 1)
  match l.park with
  | some q => if isTrail (thrAt s c t) && parkedFor l .twin && l.pc == s.iss.pc && decide (65536 ≤ q.aux.toNat) then some (q.aux.toNat % 256) else none
  | none => none

/-- The check of one port: a cause, when it fails (R266). -/
def portBad (s : State) (c t p : Nat) (rd wr : Bool) : Option Nat :=
  let b := portAt s c p
  let k := bKind b.word
  if b.faulted then some (match (thrAt s c t).reply, (thrAt s c t).inside with
    | some v, none => v.toNat
    | _, _ => ((leaderCause s c t).getD cPROTECTION))
  else if k = 0 then some cPROTECTION
  else if bExcl b.word && b.owner != t && !(isTrail (thrAt s c t) && b.owner + 1 == t) then some cPROTECTION
  else if (rd && (k == 3 || k == 4)) || (wr && (k == 2 || k == 5)) then some cPROTECTION
  else if wr && k == 1 && !liveFor s (nbTarget c (bArg b.word % 2)) (thrAt s c t).ctx then some cPEERGONE
  else none

/-- The first port of a bundle that fails its check: port, word, cause. -/
def portFault (s : State) (c t : Nat) (b : Bundle) : Option (Nat × Nat × Nat) :=
  (portUses b).findSome? (fun u => (portBad s c t u.1 u.2.2.1 u.2.2.2).map (fun x => (u.1, u.2.1, x)))

/-- The bundle pushes to the array's command queue through one of its ports (log 31, DEDUCED). -/
def pushesArray (s : State) (c : Nat) (b : Bundle) : Option Nat :=
  ((portUses b).find? (fun u => u.2.2.2 && bKind (portAt s c u.1).word == 4)).map (·.2.1)

/-- The thread pushed the first half of a command and may push the second (R193). -/
def hasHalf (s : State) (c t : Nat) : Bool := (cluAt s (clusterOf c)).arr.half.any (fun h => h.1 == (thrAt s c t).uid)

/-- What the lease check of R193 finds for a bundle that pushes to the array's command queue without the lease: the word that pushes, and
whether the thread has lapsed. A thread that goes on with its bundle has passed the check, and a twin's is its leading thread's. -/
def leaseBad (s : State) (c t : Nat) (b : Bundle) : Option (Nat × Bool) :=
  if (thrAt s c t).keep.isSome || holdsLease s c t || hasHalf s c t || isTrail (thrAt s c t) then none
  else (pushesArray s c b).map (fun w => (w, lapsed s c t))

/-- The ports a bundle pops, and those it pushes to, ascending. -/
def popPorts (b : Bundle) : List Nat := ((portUses b).filter (fun u => u.2.2.1)).map (·.1)
def pushPorts (b : Bundle) : List Nat := ((portUses b).filter (fun u => u.2.2.2)).map (·.1)

/-- The MBSEND ports that a bundle pushes to. -/
def sendPorts (s : State) (c : Nat) (b : Bundle) : List Nat := (pushPorts b).filter (fun p => bKind (portAt s c p).word == 3)

/-- What stops a bundle at its ports: a park for the first queue that is not ready (R82 step 5, R267, R268). A leading
thread of a twin makes the reservations and leaves the pushes, and the room of other queues, to the trailing one. -/
def portWait (s : State) (c t : Nat) (b : Bundle) : Option (Nat × Nat) :=
  let th := thrAt s c t
  let lead := isTwin th && !isTrail th
  match (if isTrail th || th.keep.isSome then none else firstDry s c (popPorts b)) with
  | some p => some (p, 0)
  | none => (firstFull s c t (if lead then sendPorts s c b else pushPorts b)).map (fun p => (p, 1))

/-- A push of a leading thread through an MBSEND port is still to be made by the trailing one: the reservation that the thread has is that
push's (R259, R268). -/
def sendPending (s : State) (c t : Nat) (b : Bundle) : Bool :=
  isTwin (thrAt s c t) && !isTrail (thrAt s c t) && (sendPorts s c b).any (fun p => (thrAt s c t).cmp.any (fun e =>
    e.acc.isNone && e.lanes.isEmpty && e.size == 16 && e.addr == BitVec.ofNat 64 p))

/-- The entries a bundle pops, one for each port it reads (R81). The trailing thread of a twin has them from the load-value
queue, where the leading thread puts them (R259); none when they are not there. -/
def popsOf (s : State) (c t : Nat) (b : Bundle) : Option (List (Nat × W128) × State) :=
  let th := thrAt s c t
  let ps := popPorts b
  if isTrail th then
    let l := (thrAt s c (t - 1)).lvq
    let vs := (l.take ps.length).filterMap (fun q => q.2)
    if vs.length = ps.length then
      some (List.zip ps (vs.map lo128), modThr s c (t - 1) (fun th => { th with lvq := l.drop ps.length }))
    else none
  else
    let vs := match th.keep with
      | some k => k.pops
      | none => popAll s c ps
    if isTwin th ∧ ps ≠ [] then
      if 32 < th.lvq.length + ps.length then none
      else some (vs, modThr s c t (fun th => { th with lvq := th.lvq ++ vs.map (fun q => (0, some (q.2.setWidth 256))) }))
    else some (vs, s)

/-! ## The words -/

/-- The C-words that end their thread, copy it, or bind a port act after the A-word beside them. -/
def actsLast : Instr → Bool
  | .quit | .fork _ _ _ _ | .join _ | .migr _ | .twin _ => true
  | .portUnbind _ _ _ _ | .portNeighbour _ _ _ _ | .portMbrecv _ _ _ _ | .portMbsend _ _ _ _ | .portArraycmd _ _ _ _
  | .portArrayres _ _ _ _ | .portMbdef _ _ _ _ => true
  | _ => false

/-- The row that a register value selects among the rows of one encoding (log 11, DEDUCED). -/
def resolve (s : State) (i : Instr) : Instr :=
  match i with
  | .portUnbind rd q ra rb =>
    match bits (readX s ra) 60 4 with
    | 1 => .portNeighbour rd q ra rb
    | 2 => .portMbrecv rd q ra rb
    | 3 => .portMbsend rd q ra rb
    | 4 => .portArraycmd rd q ra rb
    | 5 => .portArrayres rd q ra rb
    | 6 => .portMbdef rd q ra rb
    | _ => i
  | .killThread rd ra rb => if bits (readX s rb) 0 1 = 1 then .killContext rd ra rb else i
  | .resumeRetry rd ra rb =>
    match bits (readX s rb) 0 2 with
    | 1 => .resumeSkip rd ra rb
    | 2 => .resumeHandler rd ra rb
    | _ => i
  | .mapinvUnmap rd ra rb => if readX s rb = 1 then .mapinvRetire rd ra rb else i
  | .pghotRead rd ra rb =>
    match (readX s rb).toNat with
    | 1 => .pghotHalve rd ra rb
    | 2 => .pghotClear rd ra rb
    | 3 => .pghotPromote rd ra rb
    | _ => i
  | .tlbflPage rd ra rb =>
    match (readX s rb).toNat with
    | 1 => .tlbflGlobal rd ra rb
    | 2 => .tlbflPrivate rd ra rb
    | 3 => .tlbflContext rd ra rb
    | 4 => .tlbflDevice rd ra rb
    | _ => i
  | .bankret rd ra => if bits (readX s ra) 61 3 = 4 then .bankretDomain rd ra else i
  | .lkctlEnable rd ra rb =>
    match bits (readX s ra) 60 4 with
    | 1 => .lkctlDisable rd ra rb
    | 2 => .lkctlRetrain rd ra rb
    | 3 => .lkctlWriteRoute rd ra rb
    | 4 => .lkctlClearLoss rd ra rb
    | 5 => .lkctlRevive rd ra rb
    | _ => i
  | .lkqStatus rd ra =>
    match bits (readX s ra) 60 4 with
    | 1 => .lkqCap rd ra
    | 2 => .lkqLoss rd ra
    | 3 => .lkqRoute rd ra
    | 4 => .lkqWindow rd ra
    | _ => i
  | .namerouteWriteRoute rd ra rb =>
    match bits (readX s ra) 16 2 with
    | 1 => .namerouteReadRoute rd ra rb
    | 2 => .namerouteSetTarn rd ra rb
    | 3 => .namerouteReadDrops rd ra rb
    | _ => i
  | i => i

/-! ## Retirement -/

/-- The thread parks FPX for flags of a bundle, and FP_EXCEPTION is sent (R249). -/
def parkFpx (s : State) (c t : Nat) (pc : W64) (f : BitVec 5) : State :=
  parkThr (supThread s c t 0x40 true pc (f.setWidth 64)) c t .fpx (f.setWidth 64)

/-- The flags of a bundle join $fflags; an enabled one parks the thread FPX (R249). -/
def raiseFlags (s : State) (c t : Nat) (pc : W64) (f : BitVec 5) : State :=
  let s := modThr s c t (fun th => { th with fflags := th.fflags ||| f })
  if (f &&& (thrAt s c t).fen) = 0 then s else parkFpx s c t pc f

/-- Flags of special functions that came while the thread waited in a bundle (R249) (log 30, DEDUCED). -/
def lateFlags (s : State) (c t : Nat) : State :=
  match (thrAt s c t).late with
  | [] => s
  | (pc, f) :: r => parkFpx (modThr s c t (fun th => { th with late := r })) c t pc f

/-- A READY thread with the switch marker pending and marks outstanding parks MARKS (R88). -/
def parkMarker (s : State) (c t : Nat) : State :=
  let th := thrAt s c t
  if isReady th && th.marker then
    if noMarks th then modThr s c t (fun th => { th with marker := false }) else parkThr s c t .marks
  else s

/-- A thread of a twin has completed a bundle: the trailing thread stays behind the leading one (R259). -/
def twinRetired (s : State) (c t : Nat) : State :=
  let th := thrAt s c t
  if !isTwin th || !isTwin (was s) then s
  else if isTrail th then
    if (thrAt s c (t - 1)).ahead = 0 then mismatch s s.iss.pc
    else wakeTwin (modThr s c (t - 1) (fun th => { th with ahead := th.ahead - 1 })) c (t - 1)
  else wakeTwin (modThr s c t (fun th => { th with ahead := th.ahead + 1 })) c (t + 1)

/-- The end of a bundle whose words have both run: pops, flags, the switch marker, the other thread of a twin, the lease's
count. -/
def retire (s : State) : State :=
  let c := s.iss.core
  let t := s.iss.slot
  let s := commitPops s
  let s := leaseUsed s (clusterOf c)
  if s.iss.phase = .ended then s
  else
    let s := modThr s c t (fun th => { th with marker := s.iss.sw && !noMarks th })
    let s := modThr s c t (fun th => { th with
      inside := none, keep := none, reply := none, arrived := th.arrived.filter (fun a => decide (a.tl < (was s).tl)) })
    let s := raiseFlags s c t s.iss.pc s.iss.flags
    let s := if isReady (thrAt s c t) then lateFlags s c t else s
    let s := parkMarker s c t
    twinRetired s c t

/-- A bundle whose C-word waits after the A-word beside it has acted: what is left of it is the C-word (QUIT, MIGR, JOIN). -/
def keepInside (s : State) : State :=
  let s := commitPops s
  let f := s.iss.flags
  modMe s (fun th => { th with
    inside := some (s.iss.word &&& 0xFFFFFFFF), keep := th.keep.map (fun k => { k with popped := true, back := [] }), fflags := th.fflags ||| f
    late := if f &&& th.fen = 0 then th.late else th.late ++ [(s.iss.pc, f)] })

/-- The load-value queue of a twin is as it was before a bundle that did not complete (R82). -/
def restoreLvq (s0 s : State) : State :=
  let c := s.iss.core
  let l := s.iss.slot / 2 * 2
  if isTwin (thrAt s c l) && !isTrail (thrAt s c l) then modThr s c l (fun th => { th with lvq := (thrAt s0 c l).lvq }) else s

/-- The phase of an answer. -/
def phaseOf : Out → Phase
  | .next s => s.iss.phase
  | _ => .trapped

/-- The answer of a bundle that did not complete. -/
def undone (s0 : State) : Out → Out
  | .next s => .next (restoreLvq s0 s)
  | r => r

/-- An instruction by which what its thread did before comes to another thread or unit, or that reads the clock: it follows every earlier
access that is not loose (R222, R226, R227, R237). -/
def signals : Instr → Bool
  | .spawn _ _ _ _ | .amsend _ _ _ _ | .fork _ _ _ _ | .join _ | .rowdone _ | .cpy _ _ _ _ _ | .cpys _ _ _ _ _ | .scanq _ _ | .annc _ _ _ _ | .want _ _ _ _
  | .tstamp _ => true
  | _ => false

/-- A bundle that must follow earlier accesses of its thread, one of which cannot be performed yet (R227). -/
def mustFollow (s : State) (c t : Nat) (b : Bundle) : Bool :=
  (signals b.c || signals b.a || pushPorts b != []) && unitUnperformed s c t

/-- A push follows the C-word beside it (R218): its access is performed, if it can be, and the comparator of a leading thread has room
for both; otherwise the bundle waits. -/
def beforePush (b : Bundle) (s : State) : State :=
  if pushPorts b = [] then s
  else forcePlain (if isTrail (me s) then forcePlain s s.iss.core (s.iss.slot - 1) else s) s.iss.core s.iss.slot
def pushWaits (b : Bundle) (s : State) : Option Reason :=
  let th := me s
  if pushPorts b = [] then none
  else if unitUnperformed s s.iss.core s.iss.slot then some .access
  else if isTwin th && !isTrail th && decide (16 < th.cmp.length + (pushPorts b).length) then some .twin
  else none

/-- The A-word after the C-word beside it, whose effect is the state given; s is the state before both. -/
def thenA (ex : Instr → State → Out) (b : Bundle) (s sc : State) : Out :=
  let sc := beforePush b sc
  match pushWaits b sc with
  | some r => wait s r
  | none => ex b.a sc

/-- What stops a bundle before its effects, as steps 5 to 7 of R82 order it: the A-word's readiness, the C-word's, a lapsed lease, a lease
violation of the C-word's push, the C-word's faults, a lease violation of the A-word's push, the A-word's faults (R193). ra and rc are the
answers of the words on their own, lease what the lease check finds. -/
def firstStop (lease : Option (Nat × Bool)) (s : State) (ra rc : Out) : Option Out :=
  if phaseOf ra = .parked then some ra
  else if phaseOf rc = .parked then some rc
  else if lease.any (·.2) then some (wait s .lease)
  else if lease.any (·.1 == 0) then some (trapC s cLEASE 0)
  else if phaseOf rc = .trapped then some rc
  else if lease.isSome then some (trapA s cLEASE 0)
  else if phaseOf ra = .trapped then some ra
  else none

/-- The answer of a bundle whose thread waits in the C-word's effect: what it pops has left its queues (R82, R267). -/
def heldWord : Out → Out
  | .next s => .next (popHeld s)
  | r => r

/-- Both words of a bundle: what stops it (R82, R193), then the waits of the C-word's effect, then the effects. ex is exec. -/
def runWords (ex : Instr → State → Out) (b : Bundle) (lease : Option (Nat × Bool)) (s0 s : State) : Out :=
  let ra := ex b.a s
  let rc := ex b.c s
  match firstStop lease s ra rc with
  | some r => undone s0 r
  | none =>
    if phaseOf rc = .held then undone s0 (heldWord rc)
    else
        let r := if actsLast b.c then (match ra with
            | .next s => ex b.c s
            | r => r)
          else (match rc with
            | .next sc => thenA ex b s sc
            | r => r)
        match r with
        | .next t => if t.iss.phase = .parked then undone s0 r else .next (if actsLast b.c ∧ t.iss.phase = .held then keepInside t else retire t)
        | r => r

/-! ## Issue -/

/-- The state with a bundle under way at a thread's pc; its pc is already the next bundle's (log 21, DEDUCED). -/
def beginIssue (s : State) (c t : Nat) (w : W64) (sw : Bool) : State :=
  let pc := (thrAt s c t).pc
  { s with iss := { core := c, slot := t, pc := pc, word := w, sw := sw, phase := .going } }

/-- Before a bundle: what the thread has outstanding and plain is performed, asynchronous traps are taken (R244) (log 62, DEDUCED). -/
def asyncTrap (s : State) (c t : Nat) : Option State :=
  let th := thrAt s c t
  match th.traps with
  | [] => none
  | p :: r =>
    let s := modThr s c t (fun th => { th with traps := r })
    some (takeTrapAs (beginIssue s c t 0 false) true 0 p.cause p.eaddr)

/-- A decoded bundle from step 4 of R82 on: settled registers, ports, the pops, the two words with the lease. -/
def issueBundle (ex : Instr → State → Out) (s : State) (c t : Nat) (b : Bundle) : Out :=
  let th := thrAt s c t
  let pc := s.iss.pc
  let fresh := th.keep.isNone
  match (if fresh then unsettled s c t b else none) with
  | some (word, a) => .next (takeTrap s word cUNSETTLED a)
  | none =>
    match (if fresh then portFault s c t b else none) with
    | some (p, word, x) =>
      .next (takeTrap (modThr s c t (fun th => { th with reply := none })) word x (BitVec.ofNat 64 p))
    | none =>
      if mustFollow s c t b then .next (parkMe s .access)
      else if sendPending s c t b then .next (parkMe s .twin)
      else match portWait s c t b with
        | some (p, aux) =>
          let s := parkPort (modThr s c t (fun th => { th with pc := pc })) c t p aux
          .next { s with iss := { s.iss with phase := .parked } }
        | none => match popsOf s c t b with
          | none => .next (parkMe s .twin)
          | some (pops, s1) =>
            let s1 := modThr s1 c t (fun th => { th with pc := pc + 8 })
            let k := coreAt s1 c
            let k := match th.keep with
              | some h => { k with s := h.s, y := h.y }
              | none => k
            let s1 := { s1 with iss := { s1.iss with
              latch := some k, pops := pops, src := if th.keep.isSome then [] else popSources s c (popPorts b), popped := (th.keep.map (·.popped)).getD false } }
            runWords ex { b with c := resolve s1 b.c } (leaseBad s c t b) s s1

/-- A fetched bundle: the privilege of its C-word, its decoding (R12, R82 steps 2 and 3). -/
def issueWord (ex : Instr → State → Out) (s : State) (c t : Nat) (w : W64) : Out :=
  let th := thrAt s c t
  let s := beginIssue s c t w (bits w 30 1 == 1)
  if bits w 24 6 = 0x2A ∧ !privileged s th then .next (takeTrap s 0 cPRIV 0)
  else match decodeBundle (isGang th) w with
    | .error e => .next (takeTrap s e.word cILLEGAL 0)
    | .ok b => issueBundle ex s c t b

/-- The trap from outside its bundle that the leading thread of a twin has taken at this bundle: the trailing thread takes it
with it (R244, R259). -/
def leaderTrap (s : State) (c t : Nat) : Option (Nat × W64) :=
  let th := thrAt s c t
  let l := thrAt s c (t - 1)
  match l.park with
  | some q =>
    if isTrail th && parkedFor l .twin && l.ahead == 0 && decide (196608 ≤ q.aux.toNat) then some (q.aux.toNat % 256, q.obj) else none
  | none => none

/-- The thread of a slot issues its bundle (R82): it goes on with the bundle in whose effect it waited, or takes an
asynchronous trap (R244), or fetches. One whose write is held while its line is copied parks as for an access slot (R347). -/
def issueThread (ex : Instr → State → Out) (s : State) (c t : Nat) : Out :=
  let s := forcePlain s c t
  match leaderTrap s c t with
  | some (x, e) => .next (takeTrapAs (beginIssue s c t 0 false) true 0 x e)
  | none =>
  match (thrAt s c t).inside with
  | some w => issueWord ex s c t w
  | none =>
    if (thrAt s c t).late ≠ [] then .next { lateFlags s c t with iss := { core := c, slot := t, phase := .parked } }
    else match asyncTrap s c t with
    | some s => .next s
    | none =>
      let pc := (thrAt s c t).pc
      if heldAtLine s (thrAt s c t) then .next (parkMe (beginIssue s c t 0 false) .access)
      else match fetch s c t with
      | (.unbacked, _) => .fault .unbackedWalk
      | (.poisoned, s) => .next { ueKill s c t with iss := { core := c, slot := t, pc := pc, phase := .ended } }
      | (.later, s) => .next { s with iss := { core := c, slot := t, pc := pc, phase := .parked } }
      | (.moving, s) => .next (parkMe (beginIssue s c t 0 false) .pageMove pc)
      | (.fault x, s) => .next (takeTrap (beginIssue s c t 0 false) 0 x pc)
      | (.word w, s) => issueWord ex s c t w

/-! ## The end of a shootdown (R337, R340) -/

/-- Threads parked PAGE_MOVE reissue (R337). -/
def wakePages (s : State) : State :=
  s.cores.foldl (fun s p => p.2.threads.foldl (fun s q => if parkedFor q.2 .pageMove then wakeThr s p.1 q.1 else s) s) s

/-- Threads parked ACCESS try again, since what stood before a request may have gone: a mark, a port that was down, a line being copied
(R336, R347, R375). -/
def wakeBlocked (s : State) : State :=
  s.cores.foldl (fun s p => p.2.threads.foldl (fun s q => if parkedFor q.2 .access then wakeThr s p.1 q.1 else s) s) s

/-- Threads that wait for a unit of the device (ENGINE with aux 5) try again (R242). -/
def wakeDevice (s : State) : State :=
  s.cores.foldl (fun s p => p.2.threads.foldl (fun s q => match q.2.park with
    | some k => if parkedFor q.2 .engine && k.aux == 5 then wakeThr s p.1 q.1 else s
    | none => s) s) s

/-- An access, buffered store or copy of a shootdown is still to be performed. -/
def stillOut (s : State) (id : Nat) : Bool :=
  s.cores.any (fun p => p.2.threads.any (fun q => q.2.accs.any (fun a => a.id == id && a.result.isNone)) || p.2.loose.any (·.id == id))
    || s.clusters.any (fun p => p.2.chans.any (fun q => q.2.any (·.id == id)))

/-- Operations of the mapping unit for a core's threads with nothing left to wait for end: their status is answered, and what waits for
the tables or their pages goes on (R337, R339, R340). -/
def settleShoots (s : State) (c : Nat) : State :=
  match s.shoots.filter (fun q => q.core == c && !q.ids.any (stillOut s)) with
  | [] => s
  | l =>
    let s := { s with shoots := s.shoots.filter (fun q => !l.contains q) }
    wakeDevice (l.foldl (fun s q => if isThread s q.core q.slot q.uid then answer s q.core q.slot q.value else s) (wakePages s))

/-- Threads of a core whose requests units have answered go on (ENGINE with aux 6, R242). -/
def wakeAnswered (s : State) (c : Nat) : State :=
  slots.foldl (fun s t => match (thrAt s c t).park with
    | some k => if parkedFor (thrAt s c t) .engine && k.aux == 6 then wakeThr s c t else s
    | none => s) s

/-! ## The wheel (R16) -/

/-- The trailing thread of a twin has a bundle to follow: one the leading thread has completed, or one it waits for the
other thread in, with an effect or a trap (R259). -/
def mayTrail (k : Core) (t : Nat) : Bool :=
  let l := thrOf k (t - 1)
  decide (0 < l.ahead) || parkedFor l .twin

/-- A thread that completes its bundle before a pre-emption halts it: its FORK has recruited (R288), or the answer that it waited for has come
and its reissue only takes it, such as a migration granted or a semaphore's unit (R292, R319). -/
def finishing (th : Thread) : Bool := th.forked || (isReady th && th.inside.isSome && th.reply.isSome)

/-- A thread may issue in this cycle. -/
def eligible (s : State) (c t : Nat) : Bool :=
  let k := coreAt s c
  let th := thrOf k t
  isReady th && decide (th.busyTil ≤ k.time) && (!k.stopping || finishing th) && (!isTrail th || mayTrail k t) && (match th.last with
    | none => true
    | some l => decide (l + 8 ≤ k.time))

/-- The threads a cycle is offered to, in order: its owner, then those whose own next slot is 8 cycles away or more. -/
def offered (time : Nat) : List Nat :=
  let o := time % 16
  o :: ((List.range 15).map (fun i => (o + 1 + i) % 16)).filter (fun t => decide (8 ≤ (t + 16 - o) % 16))

/-- The high half of a bundle that issued ganged takes the cycle after it (R258). -/
def highHalf (k : Core) : Bool := k.high == some k.time

/-- The cycle counts as an issue of the thread that issued in it, th as it was before, while that still holds its slot, and of the odd slot
of its gang; the high half of a ganged bundle takes the next cycle (R16, R258). -/
def markIssue (s : State) (c t : Nat) (th : Thread) : State :=
  let now := (coreAt s c).time
  let f := fun (u : Thread) => { u with last := some now }
  let s := if isThread s c t th.uid then modThr s c t f else s
  if isGang th then modCore (modThr s c (t + 1) (fun u => if isUpper u then f u else u)) c (fun k => { k with high := some (now + 1) }) else s

/-- A cycle is offered to threads until one issues; a thread that parks at step 5 of R82 passes it on. -/
def offer (ex : Instr → State → Out) (c : Nat) : List Nat → State → Out
  | [], s => .next s
  | t :: r, s =>
    if !eligible s c t then offer ex c r s
    else match issueThread ex s c t with
      | .next s' =>
        if s'.iss.phase = .parked then offer ex c r { s' with iss := {} }
        else .next { markIssue s' c t (thrAt s c t) with iss := {} }
      | o => o

/-- The clock of a core runs: its cluster is not stopped or in VIGIL, its die is ready and not gated (R26, R421). -/
def clockRuns (s : State) (c : Nat) : Bool :=
  let k := cluAt s (clusterOf c)
  !k.stopped && k.vigil == 0 && s.dierdy.getLsbD (dieOfCore c) && !s.gated.getLsbD (dieOfCore c)

/-- A count has come to its end. -/
def isDue (k : Core) (o : Option Nat) : Bool :=
  match o with
  | some n => decide (n ≤ k.time)
  | none => false

/-- The head operation of the product-polynomial unit writes a register. -/
def ppaWrites (k : Core) : Bool :=
  match k.ppa.head?.map PpaReq.op with
  | some (.read _ _ _ _ _) | some (.exp _ _) => true
  | _ => false

/-- The events that come before a cycle's bundle: the divider and YIELD (R109, R127), neighbour pushes (R267), an operation on
accumulators (R214). ppaEnd gives the cycle of a head's end. -/
def dueBefore (s : State) (c : Nat) (ppaEnd : Core → Option Nat) : List Instr :=
  let k := coreAt s c
  (slots.filter (fun t => parkedFor (thrOf k t) .busy && decide ((thrOf k t).busyTil ≤ k.time))).map (fun t =>
      match (thrOf k t).park with
      | some q => if q.aux = 0 then .dividerDone c t else .yieldExpiry c t
      | none => .yieldExpiry c t)
    ++ ((k.nb.filter (fun p => decide (p.due < k.time))).map (fun _ => .neighbourArrival c 0))
    ++ (if isDue k (ppaEnd k) && !ppaWrites k then [.ppaOpComplete c] else [])

/-- The results that are written in a cycle, after its bundle has read its operands (R91, R153, R214). -/
def dueAfter (s : State) (c : Nat) (sfuEnd ppaEnd : Core → Option Nat) : List Instr :=
  let k := coreAt s c
  (if isDue k (sfuEnd k) then [.sfuResult c] else []) ++ (if isDue k (ppaEnd k) && ppaWrites k then [.ppaOpComplete c] else [])

/-- The events that this cycle of a core brings about by count. -/
def dueEvents (s : State) (c : Nat) (sfuEnd ppaEnd : Core → Option Nat) : List Instr :=
  dueBefore s c ppaEnd ++ dueAfter s c sfuEnd ppaEnd

/-- Events performed one after another. -/
def runEvents (ex : Instr → State → Out) : List Instr → State → Out
  | [], s => .next s
  | i :: r, s => match ex i s with
    | .next s => runEvents ex r s
    | o => o

/-- The end of a cycle: the results written, then the count. -/
def endCycle (ex : Instr → State → Out) (sfuEnd ppaEnd : Core → Option Nat) (c : Nat) (s : State) : Out :=
  match runEvents ex (dueAfter s c sfuEnd ppaEnd) s with
  | .next s => .next (modCore s c (fun k => { k with time := k.time + 1 }))
  | o => o

/-- One cycle of a core: what comes first, then the wheel, then the results written, then the count (R16, R91, R130). -/
def turn (ex : Instr → State → Out) (sfuEnd ppaEnd : Core → Option Nat) (c : Nat) (s : State) : Out :=
  if 5120 ≤ c ∨ !clockRuns s c then .next s
  else match runEvents ex (dueBefore s c ppaEnd) (modCore s c (fun k => { k with wrote := [] })) with
    | .next s =>
      let s := settleShoots (wakePorts (wakeAnswered (leaseTick s c) c) c) c
      if highHalf (coreAt s c) then endCycle ex sfuEnd ppaEnd c s
      else match offer ex c (offered (coreAt s c).time) s with
        | .next s => endCycle ex sfuEnd ppaEnd c s
        | o => o
    | o => o

end Sys2Proof.Machine

end
end

