-- ==== Sys2Proof/Machine/Operands.lean ====
section
/-!
DEFINITION. The operands of memory instructions: effective addresses (R95, R96, R155), the checks of an access (R70, R155, R378),
and the issue of an access (R86, R89, R161, R171, R172).
-/

namespace Sys2Proof.Machine

/-! ## Effective addresses (R155) -/

/-- The address of the CM format, for an access of n bytes. -/
def cmAddr (s : State) (base : Reg) (off : Off) (n : Nat) : W64 :=
  readX s base + (match off with
    | .short o => o.signExtend 64 * BitVec.ofNat 64 n
    | .long o => o.signExtend 64)

/-- The address of a CR-format memory instruction. -/
def crAddr (s : State) (ra : Reg) (ext : Ext) : W64 :=
  readX s ra + (match ext with
    | some e => e.signExtend 64
    | none => 0)

/-- The bytes of a vector access: 16, or 32 in a gang (R159). -/
def vbytes (s : State) : Nat := if ganged s then 32 else 16

/-! ## Checks -/

/-- A bit of CAP of a device's route entry (R376, R377). -/
def capBit (s : State) (dev b : Nat) : Bool := (tget 0 s.routes dev).getLsbD (16 + b)

/-- The CAP bit of an AMO operation (R377). -/
def amoCap (op : Nat) : Nat :=
  if op = 0 then 11 else if op = 1 ∨ op = 2 ∨ op = 3 ∨ op = 8 then 12 else if op = 9 then 14 else 13

/-- An order code that the links carry: plain, loose, and scope 4 when SYS is set (R378). -/
def orderCarried (s : State) (dev : Nat) : Order → Bool
  | .plain | .loose => true
  | .acq sc | .rel sc | .pacq sc => sc == .system && capBit s dev 8

/-- An access that the path to a device cannot carry (R378). -/
def linkRefuses (s : State) (op : AccOp) (order : Order) (n dev : Nat) : Bool :=
  (match op with
    | .amo o _ => !capBit s dev (amoCap o) || !capBit s dev (if n = 4 then 10 else 9)
    | .feLoad _ | .feStore _ | .feEmpty | .feStat => true
    | _ => false) || !orderCarried s dev order

/-- The outcome of an access's checks: its pieces and the leaves it used, or why it does not go on. -/
inductive Placed where
  | ok (lanes : List Lane) (leafs : List LeafKey)
  | trap (cause : Nat) (a : W64)
  | wait (a : W64)
  | unbacked
  deriving DecidableEq, Repr

/-- The checks of one piece of n bytes: alignment, then R70, then what the links carry (R155, R378), then what the peer device finds
(R74). -/
def placeOne (s : State) (op : AccOp) (order : Order) (rt : Rights) (n : Nat) (a : W64) : Xl × State :=
  if a.toNat % n ≠ 0 then (.trap cMISALIGNED, s)
  else match translate s (whoOf s (myCore s) (mySlot s)) rt a n with
    | (.reaches (.peer d x) ks, s) => if linkRefuses s op order n d then (.trap cLINKATOMIC, s) else atPeer rt (.reaches (.peer d x) ks, s)
    | r => r

/-- The checks of the pieces of an access, in order; the first that fails decides (R177). A piece is its byte offset in the
register, its address and the data it stores. -/
def placeAll (op : AccOp) (order : Order) (rt : Rights) (n : Nat) : State → List (Nat × W64 × Nat) → Placed × State
  | s, [] => (.ok [] [], s)
  | s, (off, a, d) :: r =>
    match placeOne s op order rt n a with
    | (.trap c, s) => (.trap c a, s)
    | (.wait _, s) => (.wait a, s)
    | (.unbacked, s) => (.unbacked, s)
    | (.reaches p ks, s) =>
      match placeAll op order rt n s r with
      | (.ok ls ks', s) => (.ok (⟨off, p, d⟩ :: ls) (ks ++ ks'), s)
      | x => x

/-- A 32-byte ganged access is two 16-byte halves (R156). -/
def splitHalves (l : Lane) : List Lane :=
  [{ l with data := l.data % 2 ^ 128 }, { off := l.off + 16, place := shiftPlace l.place 16, data := l.data / 2 ^ 128 }]

/-- The device a piece of an access goes to, when it is a peer. -/
def peerOf (ls : List Lane) : Option Nat := ls.findSome? (fun l => match l.place with
  | .peer d _ => some d
  | .here _ => none)

/-- The checks of an access as an answer of exec: k receives its number, its pieces and its leaves. -/
def withAccess (s : State) (op : AccOp) (order : Order) (rt : Rights) (n : Nat) (items : List (Nat × W64 × Nat))
    (k : State → Nat → List Lane → List LeafKey → Out) : Out :=
  match placeAll op order rt n s items with
  | (.trap c x, s) => trapC s c x
  | (.wait x, s) => wait s .pageMove x
  | (.unbacked, _) => .fault .unbackedWalk
  | (.ok ls ks, s) =>
    let (id, s) := withFresh s
    k s id ls ks

/-! ## Room (R89, R161) -/

/-- The thread has a plain access outstanding. -/
def plainBusy (th : Thread) : Bool := th.accs.any (fun a => a.order != .loose)

/-- Eight loose accesses of the thread await results. -/
def looseFull (th : Thread) : Bool := decide (8 ≤ looseCount th)

/-- The loose buffer of the core has no room for n entries. -/
def bufferFull (s : State) (n : Nat) : Bool := decide (32 < (coreAt s (myCore s)).loose.length + n)

/-- An acquire side of the thread has not completed: no later access, loose or not, issues (R228). -/
def acquiring (th : Thread) : Bool :=
  th.accs.any (fun a => match a.order with
    | .acq _ | .pacq _ => true
    | .plain | .loose | .rel _ => false)

/-- The readiness of an access that awaits a result (R89, R228). -/
def accessReady (s : State) (order : Order) : Bool :=
  if order = .loose then !looseFull (me s) && !acquiring (me s) else !plainBusy (me s)

/-- An access that must follow one that cannot be performed yet waits for it (R229, R232). -/
def waitOverlap (s : State) (op : AccOp) (n : Nat) (ls : List Lane) : Out :=
  wait s (if cmpOverlaps (me s) op n ls then .twin else .access)

/-- A request for a place, wr for one that writes, is not performed now, or an entry of the core's buffer that goes before it cannot drain
(R228, R336, R347, R375). -/
def placeBlocked (s : State) (wr : Bool) (p : Place) (n : Nat) : Bool :=
  outOfReach s p || (wr && heldWrite s p) || overlapLeft (drainOverlap s (myCore s) p n) (myCore s) p n

/-! ## Issue -/

/-- An outstanding access of the thread of the bundle. -/
def addAccess (s : State) (a : Access) : State := modMe s (fun th => setMark { th with accs := th.accs ++ [a] } a.dest)

/-- An access record issued now. -/
def newAccess (s : State) (id : Nat) (stamp : W64) (op : AccOp) (order : Order) (a : W64) (n : Nat) (dest : Dest)
    (ls : List Lane) (ks : List LeafKey) : Access :=
  { id := id, stamp := stamp, pc := s.iss.pc, op := op, order := order, addr := a, size := n, dest := dest, lanes := ls
    leafs := ks, since := (dieAt s (dieOfCore (myCore s))).ns }

/-- A number for the data and the addresses of the pieces of an access, as the comparator of a twin compares them (R259). -/
def itemsCode (items : List (Nat × W64 × Nat)) : Nat :=
  items.foldl (fun x i => ((x * 2 ^ 64 + i.1) * 2 ^ 256 + i.2.2) * 2 ^ 64 + i.2.1.toNat) 0

/-- A code of an order, for the comparator. -/
def scopeNo : Scope → Nat
  | .core => 0 | .cluster => 1 | .die => 2 | .device => 3 | .system => 4
def orderNo : Order → Nat
  | .plain => 0
  | .loose => 1
  | .acq sc => 2 + scopeNo sc
  | .rel sc => 7 + scopeNo sc
  | .pacq sc => 11 + scopeNo sc

/-- The release side of an access: earlier accesses are performed first, and with scope 1 or wider the loose buffer drains
(R161, R228). -/
def releaseSide (s : State) (order : Order) : State :=
  match order with
  | .rel sc =>
    let s := forceThread s (myCore s) (mySlot s)
    if sc = .core then s else drainAll s (myCore s)
  | _ => s

/-- A release side of scope 1 or wider whose drain is not done (R161). -/
def drainLeft (s : State) (order : Order) : Bool :=
  match order with
  | .rel sc => sc != .core && !(coreAt s (myCore s)).loose.isEmpty
  | _ => false

/-- A release side made by the instruction itself must wait: a loose read of the thread has not returned (R228), an earlier access that is
not loose cannot be performed, or the drain is not done (R161). -/
def releaseWaits (s : State) (sc : Scope) : Bool := looseOpen (me s) || unitUnperformed s (myCore s) (mySlot s) || drainLeft s (.rel sc)

/-- Loose stores enter the buffer of the core at its tail, one entry for each piece, with the leaves they were translated through (R161, R177,
R340). -/
def bufferPieces (s : State) (slot id : Nat) (stamp : W64) (n : Nat) (a : W64) (ls : List Lane) (ks : List LeafKey) : State :=
  let ctx := myCtx s
  let uid := (thrAt s (myCore s) slot).uid
  modCore s (myCore s) (fun k => { k with loose := k.loose ++ ls.map (fun l => ⟨id, slot, stamp, l.place, n, l.data, ctx, uid, a, ks⟩) })

/-- A load or a gather: an access whose value arrives later (R84, R160), with the stamp of its issue (R29). In a twin only the leading thread
performs it, and the trailing thread takes the value, which put writes (R259). -/
def issueReadWith (s : State) (op : AccOp) (order : Order) (rt : Rights) (n : Nat) (a : W64) (items : List (Nat × W64 × Nat)) (dest : Dest)
    (split : List Lane → List Lane) (size : Nat) (put : State → W256 → State) : Out :=
  let c := myCore s
  let t := mySlot s
  let th := me s
  if !accessReady s order then wait s .access
  else if isTwin th && !isTrail th && decide (32 ≤ th.lvq.length) then wait s .twin
  else withAccess s op order rt n items (fun s id ls ks =>
    if isTrail th then
      match (thrAt s c (t - 1)).lvq with
      | (_, some x) :: r => .next (put (wakeTwin (modThr s c (t - 1) (fun th => { th with lvq := r })) c (t - 1)) x)
      | _ => hold s .twin
    else
      let ls := split ls
      let (stamp, s) := stampCore s c
      let s := forceOverlap s c t op size ls
      if overlapWaits s c t op size ls then waitOverlap s op size ls
      else
      let s := addAccess s (newAccess s id stamp op order a size dest ls ks)
      .next (if isTwin th then wakeTwin (modMe s (fun th => { th with lvq := th.lvq ++ [(id, none)] })) c (t + 1) else s))

/-- An access that only reads. -/
def issueRead (s : State) (op : AccOp) (order : Order) (n : Nat) (a : W64) (items : List (Nat × W64 × Nat)) (dest : Dest)
    (split : List Lane → List Lane) (size : Nat) (put : State → W256 → State) : Out :=
  issueReadWith s op order { r := true } n a items dest split size put

/-- A store, a scatter, an AMO, a STx.X or FEMPTY: an access that writes, with its identity (R171). In a twin it is held until both
threads have issued it (R172). A loose store follows every earlier access that is not loose (R227). -/
def issueWrite (s : State) (op : AccOp) (order : Order) (n : Nat) (a : W64) (items : List (Nat × W64 × Nat)) (dest : Dest)
    (split : List Lane → List Lane) (size : Nat) : Out :=
  let c := myCore s
  let t := mySlot s
  let th := me s
  let lead := isTwin th && !isTrail th
  let toBuffer := decide (order = .loose) && decide (dest = .none)
  if toBuffer && !lead && bufferFull s (items.length * (if size = n then 1 else 2)) then wait s .access
  else if toBuffer && !isTrail th && acquiring th then wait s .access
  else if !toBuffer && !isTrail th && !accessReady s order then wait s .access
  else if lead && decide (16 ≤ th.cmp.length) then wait s .twin
  else withAccess s op order { r := decide (dest ≠ .none), w := true } n items (fun s id ls ks =>
    let ls := split ls
    let (stamp, s) := stampCore s c
    let s := forceOverlap s c t op size ls
    let s := releaseSide s order
    let e : CmpEntry := ⟨s.iss.word.toNat, a, n, orderNo order, itemsCode items, if toBuffer then none else some id, false, footLanes op ls, footSize op size⟩
    let acc := newAccess s id stamp op order a size dest ls ks
    if isTrail th then
      match (thrAt s c (t - 1)).cmp with
      | [] => .next (mismatch s a)
      | f :: r =>
        if !sameEffect f e then .next (mismatch s a)
        else if drainLeft s order || (toBuffer && unitUnperformed s c t) then wait s .access
        else
          let s := modThr s c (t - 1) (fun th =>
            modAcc { th with cmp := r } (f.acc.getD 0) (fun b => { b with lanes := ls, leafs := ks }))
          let s := if toBuffer then bufferPieces s (t - 1) id stamp size a ls ks else s
          let s := if dest = .none then s else addAccess s { acc with id := f.acc.getD id }
          .next (wakeTwin s c (t - 1))
    else if overlapWaits s c t op size ls then waitOverlap s op size ls
    else if drainLeft s order || (toBuffer && unitUnperformed s c t) then wait s .access
    else
      let s := if lead then wakeTwin (cmpPush s c t e) c (t + 1) else s
      .next (if !toBuffer then addAccess s acc else if lead then s else bufferPieces s t id stamp size a ls ks))

end Sys2Proof.Machine
end

