-- ==== Sys2Proof/Machine/Memory.lean ====
section
/-!
DEFINITION. Loads and stores, full/empty operations, AMO, fences, gather and scatter, and pointer functions (R155 to R178).
-/

namespace Sys2Proof.Machine

/-! ## Loads and stores (R159, R160) -/

/-- A scalar load of n bytes. -/
def loadScalar (s : State) (n : Nat) (sgn : Bool) (rd base : Reg) (off : Off) (ord : Order) : Out :=
  let a := cmAddr s base off n
  issueRead s (.load sgn) ord n a [(0, a, 0)] (.scalar rd) (fun l => l) n
    (fun s x => writeX s rd (if sgn then sext x.toNat (8 * n) else (x.setWidth 64)))

/-- A scalar store of n bytes. -/
def storeScalar (s : State) (n : Nat) (rd base : Reg) (off : Off) (ord : Order) : Out :=
  let a := cmAddr s base off n
  issueWrite s .store ord n a [(0, a, (readX s rd).toNat % 256 ^ n)] .none (fun l => l) n

/-- The pieces of a vector access: one, or the two halves of a gang (R156). -/
def vectorPieces (s : State) (ls : List Lane) : List Lane := if ganged s then ls.flatMap splitHalves else ls

/-- LDB (R160). -/
def execLdb (rd base : Reg) (off : Off) (ord : Order) (s : State) : Out := loadScalar s 1 true rd base off ord

/-- LDBU (R160). -/
def execLdbu (rd base : Reg) (off : Off) (ord : Order) (s : State) : Out := loadScalar s 1 false rd base off ord

/-- LDH (R160). -/
def execLdh (rd base : Reg) (off : Off) (ord : Order) (s : State) : Out := loadScalar s 2 true rd base off ord

/-- LDHU (R160). -/
def execLdhu (rd base : Reg) (off : Off) (ord : Order) (s : State) : Out := loadScalar s 2 false rd base off ord

/-- LDW (R160). -/
def execLdw (rd base : Reg) (off : Off) (ord : Order) (s : State) : Out := loadScalar s 4 true rd base off ord

/-- LDWU (R160). -/
def execLdwu (rd base : Reg) (off : Off) (ord : Order) (s : State) : Out := loadScalar s 4 false rd base off ord

/-- LDD (R160). -/
def execLdd (rd base : Reg) (off : Off) (ord : Order) (s : State) : Out := loadScalar s 8 false rd base off ord

/-- LDV (R160). -/
def execLdv (rd base : Reg) (off : Off) (ord : Order) (s : State) : Out :=
  let n := vbytes s
  let a := cmAddr s base off n
  issueRead s .loadV ord n a [(0, a, 0)] (.vector rd) (vectorPieces s) 16 (fun s x => writeV s rd x)

/-- STB (R160). -/
def execStb (rd base : Reg) (off : Off) (ord : Order) (s : State) : Out := storeScalar s 1 rd base off ord

/-- STH (R160). -/
def execSth (rd base : Reg) (off : Off) (ord : Order) (s : State) : Out := storeScalar s 2 rd base off ord

/-- STW (R160). -/
def execStw (rd base : Reg) (off : Off) (ord : Order) (s : State) : Out := storeScalar s 4 rd base off ord

/-- STD (R160). -/
def execStd (rd base : Reg) (off : Off) (ord : Order) (s : State) : Out := storeScalar s 8 rd base off ord

/-- STV (R160). -/
def execStv (rd base : Reg) (off : Off) (ord : Order) (s : State) : Out :=
  let n := vbytes s
  let a := cmAddr s base off n
  issueWrite s .store ord n a [(0, a, (readV s rd).toNat % 256 ^ n)] .none (vectorPieces s) 16

/-! ## Full/empty operations (R164 to R168) -/

/-- Whether an access is a full/empty request that its owner answers: LDx.F, LDx.T, STx.E, FSTAT. -/
def isFeRequest (a : Access) : Bool :=
  match a.op with
  | .feLoad _ | .feStat | .feStore false => true
  | _ => false

/-- The cores asked to drain for a full/empty load with a promoting code drain, and their stamps reach the core of the load
(R29, R162); those whose buffers still hold a store stay asked. -/
def drainAsked (s : State) (c : Nat) : State :=
  let s := s.drainReq.foldl (fun s k => carry (drainAll s k) (.core k) (.core c)) s
  { s with drainReq := s.drainReq.filter (fun k => !(coreAt s k).loose.isEmpty) }

/-- A thread whose full/empty request is out waits for its answer: ACCESS while the request travels or stands refused, FE_WAIT
while it waits at its word (R165, R242). -/
def feHold (s : State) : Out :=
  match (me s).accs.find? (fun a => isFeRequest a && a.order != .loose) with
  | some a => hold s (if a.stage = .waiting then .feWait else .access) a.addr
  | none => hold s .access

/-- A full/empty request that holds its thread until the reply (R165): LDx.F, LDx.T, FSTAT with rd, STx.E without. -/
def feHeld (s : State) (op : AccOp) (order : Order) (rt : Rights) (n : Nat) (a : W64) (data : Nat) (rd : Option Reg) : Out :=
  match (me s).reply with
  | some v =>
    let s := drainAsked s (myCore s)
    if s.drainReq = [] then .next (takeReply s rd v) else hold s .access
  | none =>
    if (me s).accs.any (fun a => isFeRequest a && a.order != .loose) then feHold s
    else if plainBusy (me s) then wait s .access
    else withAccess s op order rt n [(0, a, data)] (fun s id ls ks =>
      let (stamp, s) := stampCore s (myCore s)
      let s := releaseSide (forceOverlap s (myCore s) (mySlot s) op n ls) order
      if overlapWaits s (myCore s) (mySlot s) op n ls then waitOverlap s op n ls
      else if drainLeft s order then wait s .access
      else feHold (addAccess s (newAccess s id stamp op order a n .none ls ks)))

/-- The value that the leading thread of a twin received enters the load-value queue as its bundle completes (R259). -/
def feShare (s s' : State) : State :=
  match (me s).reply with
  | some v => wakeTwin (modMe s' (fun th => { th with lvq := th.lvq ++ [(0, some (v.setWidth 256))] })) (myCore s) (mySlot s + 1)
  | none => s'

/-- A full/empty load. Code 1 leaves its thread going; in a twin only the leading thread performs it (R165, R259). -/
def feLoad (s : State) (n : Nat) (take : Bool) (rd ra : Reg) (ord : Order) (ext : Ext) : Out :=
  let a := crAddr s ra ext
  let rt : Rights := { r := true, w := take }
  if ord = .loose then
    issueReadWith s (.feLoad take) ord rt n a [(0, a, 0)] (.scalar rd) (fun l => l) n
      (fun s x => writeX s rd (sext x.toNat (8 * n)))
  else if isTrail (me s) then
    match (thrAt s (myCore s) (mySlot s - 1)).lvq with
    | (_, some x) :: r =>
      let l := mySlot s - 1
      .next (writeX (wakeTwin (modThr s (myCore s) l (fun th => { th with lvq := r })) (myCore s) l) rd (x.setWidth 64))
    | _ => hold s .twin
  else if isTwin (me s) then
    if 32 ≤ (me s).lvq.length then wait s .twin
    else
      match feHeld s (.feLoad take) ord rt n a 0 (some rd) with
      | .next s' => .next (feShare s s')
      | r => r
  else feHeld s (.feLoad take) ord rt n a 0 (some rd)

/-- LDW.F (R165). -/
def execLdwF (rd ra : Reg) (ord : Order) (ext : Ext) (s : State) : Out := feLoad s 4 false rd ra ord ext

/-- LDD.F (R165). -/
def execLddF (rd ra : Reg) (ord : Order) (ext : Ext) (s : State) : Out := feLoad s 8 false rd ra ord ext

/-- LDW.T (R165). -/
def execLdwT (rd ra : Reg) (ord : Order) (ext : Ext) (s : State) : Out := feLoad s 4 true rd ra ord ext

/-- LDD.T (R165). -/
def execLddT (rd ra : Reg) (ord : Order) (ext : Ext) (s : State) : Out := feLoad s 8 true rd ra ord ext

/-- STx.E: a twin makes it once (R165, R259). Its thread waits with reason ACCESS until the owner answers, also when the word is empty
(log 72, DEDUCED). -/
def feStoreE (s : State) (n : Nat) (rd ra : Reg) (ord : Order) (ext : Ext) : Out :=
  let a := crAddr s ra ext
  let d := (readX s rd).toNat % 256 ^ n
  once s none a n (orderNo ord) d (fun s => feHeld s (.feStore false) ord { w := true } n a d none)

/-- STx.X: an access that does not hold its thread (R165). -/
def feStoreX (s : State) (n : Nat) (rd ra : Reg) (ord : Order) (ext : Ext) : Out :=
  let a := crAddr s ra ext
  issueWrite s (.feStore true) ord n a [(0, a, (readX s rd).toNat % 256 ^ n)] .none (fun l => l) n

/-- STW.E (R165). -/
def execStwE (rd ra : Reg) (ord : Order) (ext : Ext) (s : State) : Out := feStoreE s 4 rd ra ord ext

/-- STD.E (R165). -/
def execStdE (rd ra : Reg) (ord : Order) (ext : Ext) (s : State) : Out := feStoreE s 8 rd ra ord ext

/-- STW.X (R165). -/
def execStwX (rd ra : Reg) (ord : Order) (ext : Ext) (s : State) : Out := feStoreX s 4 rd ra ord ext

/-- STD.X (R165). -/
def execStdX (rd ra : Reg) (ord : Order) (ext : Ext) (s : State) : Out := feStoreX s 8 rd ra ord ext

/-- FEMPTY (R165). -/
def execFempty (ra : Reg) (ord : Order) (ext : Ext) (s : State) : Out :=
  let a := crAddr s ra ext
  issueWrite s .feEmpty ord 8 a [(0, a, 0)] .none (fun l => l) 8

/-- FSTAT: a read that holds its thread (R165). -/
def execFstat (rd ra : Reg) (ord : Order) (ext : Ext) (s : State) : Out :=
  let a := crAddr s ra ext
  if isTrail (me s) then
    match (thrAt s (myCore s) (mySlot s - 1)).lvq with
    | (_, some x) :: r =>
      let l := mySlot s - 1
      .next (writeX (wakeTwin (modThr s (myCore s) l (fun th => { th with lvq := r })) (myCore s) l) rd (x.setWidth 64))
    | _ => hold s .twin
  else if isTwin (me s) then
    if 32 ≤ (me s).lvq.length then wait s .twin
    else
      match feHeld s .feStat ord { r := true } 8 a 0 (some rd) with
      | .next s' => .next (feShare s s')
      | r => r
  else feHeld s .feStat ord { r := true } 8 a 0 (some rd)

/-! ## Atomic operations (R169, R170) -/

/-- An AMO of the given operation; AMOCAS reads its compare value from rd. -/
def amo (s : State) (op : Nat) (rd ra rb : Reg) (ord : Order) (w4 : Bool) (ext : Ext) : Out :=
  let a := crAddr s ra ext
  let n := if w4 then 4 else 8
  let c := if op = 9 then (readX s rd).toNat % 256 ^ n else 0
  issueWrite s (.amo op c) ord n a [(c, a, (readX s rb).toNat % 256 ^ n)] (.scalar rd) (fun l => l.map (fun x => { x with off := 0 })) n

/-- AMOADD (R170). -/
def execAmoadd (rd ra rb : Reg) (ord : Order) (w4 : Bool) (ext : Ext) (s : State) : Out := amo s 0 rd ra rb ord w4 ext

/-- AMOAND (R170). -/
def execAmoand (rd ra rb : Reg) (ord : Order) (w4 : Bool) (ext : Ext) (s : State) : Out := amo s 1 rd ra rb ord w4 ext

/-- AMOOR (R170). -/
def execAmoor (rd ra rb : Reg) (ord : Order) (w4 : Bool) (ext : Ext) (s : State) : Out := amo s 2 rd ra rb ord w4 ext

/-- AMOXOR (R170). -/
def execAmoxor (rd ra rb : Reg) (ord : Order) (w4 : Bool) (ext : Ext) (s : State) : Out := amo s 3 rd ra rb ord w4 ext

/-- AMOMIN (R170). -/
def execAmomin (rd ra rb : Reg) (ord : Order) (w4 : Bool) (ext : Ext) (s : State) : Out := amo s 4 rd ra rb ord w4 ext

/-- AMOMAX (R170). -/
def execAmomax (rd ra rb : Reg) (ord : Order) (w4 : Bool) (ext : Ext) (s : State) : Out := amo s 5 rd ra rb ord w4 ext

/-- AMOMINU (R170). -/
def execAmominu (rd ra rb : Reg) (ord : Order) (w4 : Bool) (ext : Ext) (s : State) : Out := amo s 6 rd ra rb ord w4 ext

/-- AMOMAXU (R170). -/
def execAmomaxu (rd ra rb : Reg) (ord : Order) (w4 : Bool) (ext : Ext) (s : State) : Out := amo s 7 rd ra rb ord w4 ext

/-- AMOSWAP (R170). -/
def execAmoswap (rd ra rb : Reg) (ord : Order) (w4 : Bool) (ext : Ext) (s : State) : Out := amo s 8 rd ra rb ord w4 ext

/-- AMOCAS (R170). -/
def execAmocas (rd ra rb : Reg) (ord : Order) (w4 : Bool) (ext : Ext) (s : State) : Out := amo s 9 rd ra rb ord w4 ext

/-! ## Fences (R174, R175) -/

/-- The loose buffer of the core has drained; then k goes on (R161). -/
def drained (s : State) (k : State → Out) : Out :=
  let s := drainAll s (myCore s)
  if (coreAt s (myCore s)).loose.isEmpty then k s else hold s .access

/-- A loose store of the leading thread of a twin stands at the comparator and has still to enter the loose buffer (R172). -/
def storePending (th : Thread) : Bool := isTwin th && !isTrail th && th.cmp.any (fun e => e.acc.isNone && !e.lanes.isEmpty)

/-- Every earlier access of the thread is complete, and with scope 1 or wider the loose buffer has drained; then k goes on. A leading thread
of a twin waits until its loose stores have passed the comparator (R172). -/
def fenced (s : State) (sc : Scope) (k : State → Out) : Out :=
  let c := myCore s
  let t := mySlot s
  let s := forceThread s c t
  if storePending (me s) then hold s .twin else
  if (me s).accs.any (fun a => match a.op with
      | .qstat _ => false
      | _ => true) then hold s .access
  else if sc = .core then k s
  else drained s k

/-- FENCE (R174). -/
def execFence (sc : Scope) (s : State) : Out := fenced s sc .next

/-- XFENCE: the thread waits while a command of a class it names, that it issued, has writes to perform: copies (bit 0, and bit 1
when bound for a FIFO), array commands (bit 1), WANTs (bit 2), scans (bit 3). A link agent (bit 4)
writes for no command of the thread (R33, R175, R226) (log 35, DEDUCED). -/
def xfencePending (s : State) (uid : Nat) (frm : BitVec 5) : Bool :=
  let copies := s.clusters.flatMap (fun p => p.2.chans.flatMap (fun q => q.2.filter (fun m => m.uid == uid)))
  (frm.getLsbD 0 && !copies.isEmpty)
    || (frm.getLsbD 1 && (copies.any (fun m => m.dk == 1 || m.dk == 2) || s.clusters.any (fun p =>
      let a := p.2.arr
      a.cmdq.any (·.uid == uid) || (match a.cur with
        | some (q, _, _) => q.uid == uid
        | none => false) || (match a.drain with
        | some d => d.cmd.uid == uid
        | none => false))))
    || (frm.getLsbD 2 && s.clusters.any (fun p => p.2.agent.cons.any (fun r => match r with
      | .want w => w.uid == uid
      | .remote _ _ _ _ => false)))
    || (frm.getLsbD 3 && s.scans.any (·.uid == uid))

/-- XFENCE (R175). -/
def execXfence (frm tgt : BitVec 5) (_sc : Scope) (s : State) : Out :=
  if xfencePending s (me s).uid frm then hold s .engine (tgt.setWidth 64) 0 else .next s

/-! ## Gather and scatter (R176, R177) -/

/-- The address of lane i: a + SExt(b[i], w) × w/8. -/
def laneAddr (a : W64) (b : W256) (w i : Nat) : W64 := a + sext (b.toNat / 2 ^ (w * i) % 2 ^ w) w * BitVec.ofNat 64 (w / 8)

/-- The active lanes of a gather or scatter: byte offset, address, data. -/
def laneItems (s : State) (ra vb : Reg) (m : MaskNo) (ext : Ext) (w : Nat) (v : W256) : List (Nat × W64 × Nat) :=
  let a := crAddr s ra ext
  let b := readV s vb
  let k := readM s m
  ((List.range (8 * vbytes s / w)).filter (fun i => k.getLsbD i)).map
    (fun i => (i * (w / 8), laneAddr a b w i, v.toNat / 2 ^ (w * i) % 2 ^ w))

/-- VGATH (R177). -/
def execVgath (vd ra vb : Reg) (ord : Order) (sz : BitVec 2) (m : MaskNo) (ext : Ext) (s : State) : Out :=
  let w := 8 * 2 ^ sz.toNat
  let items := laneItems s ra vb m ext w 0
  issueRead s .gather ord (w / 8) (crAddr s ra ext) items (.vector vd) (fun l => l) (w / 8) (fun s x =>
    writeV s vd (items.foldl (fun y i => pokeBytes y i.1 (w / 8) (x.toNat / 256 ^ i.1 % 256 ^ (w / 8)))
      (curV s (myCore s) (mySlot s) vd)) (items.foldl (fun b i => b ||| (2 ^ (w / 8) - 1) * 2 ^ i.1) 0))

/-- VSCAT (R177). -/
def execVscat (vd ra vb : Reg) (ord : Order) (sz : BitVec 2) (m : MaskNo) (ext : Ext) (s : State) : Out :=
  let w := 8 * 2 ^ sz.toNat
  issueWrite s .scatter ord (w / 8) (crAddr s ra ext) (laneItems s ra vb m ext w (readV s vd)) .none (fun l => l) (w / 8)

/-! ## Pointer functions (R77, R178) -/

/-- SPTST: WinCode (R77). -/
def execSptst (rd ra : Reg) (s : State) : Out :=
  .next (writeX s rd (BitVec.ofNat 64 (winCode s (seatDevice (was s).seat) (readX s ra))))

/-- CastAlias of R77, in the executing cluster. -/
def castAlias (s : State) (dev cluster : Nat) (a : W64) : W64 :=
  match winCode s dev a with
  | 2 =>
    let c := bits a 31 13
    let o := bits a 0 31
    if clusterOf c ≠ cluster ∨ 2 ^ 20 ≤ o then 0
    else BitVec.ofNat 64 (0xD * 2 ^ 44 + c % 32 * 2 ^ 20 + o)
  | 1 =>
    if bits a 25 19 ≠ 0 then 0
    else BitVec.ofNat 64 (0xE * 2 ^ 44 + (cluster * 32 + bits a 20 5) * 2 ^ 31 + bits a 0 20)
  | _ => 0

/-- SPCAST (R77). -/
def execSpcast (rd ra : Reg) (s : State) : Out :=
  .next (writeX s rd (castAlias s (seatDevice (was s).seat) (clusterOf (myCore s)) (readX s ra)))

/-- Pin of R77. -/
def pin (s : State) (seat a : W64) (lvl : Nat) : W64 :=
  if winCode s (seatDevice seat) a ≠ 0 then a
  else if lvl = 0 then a &&& 0x0000FFFFFFFFFFFF
  else (a &&& 0x0000FFFFFFFFFFFF) ||| BitVec.ofNat 64 (lvl * 2 ^ 61 + seatGroup seat lvl * 2 ^ 48)

/-- VPIN (R77). -/
def execVpin (rd ra : Reg) (lvl : BitVec 3) (s : State) : Out :=
  .next (writeX s rd (pin s (was s).seat (readX s ra) lvl.toNat))

end Sys2Proof.Machine
end

