-- ==== Sys2Proof/Machine/Arrivals.lean ====
section
/-!
DEFINITION. What comes back to threads: results and acknowledgements (R86, R89), drains (R161, R162), full/empty requests at their
owner, their resends and timeouts (R165 to R168), reissue and failure (R171, R173, R381), combining (R18), counts that end.
-/

namespace Sys2Proof.Machine

/-- The nanosecond count of a core's die. -/
def nsOf (s : State) (c : Nat) : Nat := (dieAt s (dieOfCore c)).ns

/-- The access of a thread at an index. -/
def accAt (s : State) (c t i : Nat) : Option Access := (thrAt s c t).accs[i]?

/-! ## Results (R86, R89) -/

/-- The result of an access arrives; a thread whose access has read a poisoned line is killed instead (R86, R257). -/
def arriveOr (s : State) (c t : Nat) (a : Access) : State :=
  let s := perform s c t a.id
  if ((accOf (thrAt s c t) a.id).any (fun b => b.result.isSome)) && consumesPoison s a then ueKill s c t else arrive s c t a.id

/-- RESULT_ARRIVAL: the result of one outstanding access is written (R86). -/
def execResultArrival (core slot idx : Nat) (s : State) : Out :=
  match accAt s core slot idx with
  | some a => match a.op with
    | .qstat p => .next (deliver s core slot a [(qstatWord s core p).toNat])
    | _ => .next (arriveOr s core slot a)
  | none => .next s

/-- ACCESS_COMPLETE: the result or acknowledgement of the plain access returns (R89). -/
def execAccessComplete (core slot : Nat) (s : State) : Out :=
  match (thrAt s core slot).accs.find? (fun a => a.order != .loose && !isFeRequest a) with
  | some a => .next (arriveOr s core slot a)
  | none => .next s

/-- AMO_COMBINE: two plain AMOADDs with the same address and size, on their way, are performed one after another (R18). -/
def execAmoCombine (core slot core2 slot2 : Nat) (s : State) : Out :=
  let adds := fun (c t : Nat) => (thrAt s c t).accs.find? (fun a => a.order == .plain && a.op == .amo 0 0 && a.result.isNone)
  match adds core slot, adds core2 slot2 with
  | some a, some b =>
    if a.id ≠ b.id ∧ a.size = b.size ∧ a.lanes.map (·.place) = b.lanes.map (·.place) then
      .next (perform (perform s core slot a.id) core2 slot2 b.id)
    else .next s
  | _, _ => .next s

/-! ## The loose buffer (R161, R162) -/

/-- LOOSE_BUFFER_DRAIN: the head entry is written to memory; bundles that wait for room go on (R161). -/
def execLooseBufferDrain (core : Nat) (s : State) : Out := .next (wakeAll (drainOne s core) core .access)

/-- DRAIN_REQUEST: the core that a promoting acquire's record names drains, and the acquire is acknowledged (R162). -/
def execDrainRequest (core slot : Nat) (s : State) : Out :=
  match (thrAt s core slot).accs.find? (fun a => !a.drain.isEmpty) with
  | some a => .next (ackDrain s core slot a.id)
  | none => if s.drainReq = [] then .next s else .next (wakeAccess (drainAsked s core) core slot)

/-! ## Full/empty requests at their owner (R165, R166) -/

/-- The thread's request stands in a stage, and its park shows it (R242). -/
def setStage (s : State) (c t : Nat) (a : Access) (g : Stage) : State :=
  let now := (coreAt s c).time
  modThr s c t (fun th =>
    let th := modAcc th a.id (fun a => { a with stage := g, since := now })
    if a.order = .loose || th.inside.isNone || th.slot != .parked then th
    else match th.park with
      | some p => if p.reason = .access ∨ p.reason = .feWait then
          { th with park := some { p with reason := if g = .waiting then .feWait else .access, since := now } } else th
      | none => th)

/-- A request waits at its word, or is refused for want of room (R166). -/
def enqueueFe (s : State) (c t : Nat) (a : Access) (loc data : Nat) : State :=
  let th := thrAt s c t
  let reader := match a.op with
    | .feLoad _ => true
    | _ => false
  if waitRoom s th.ctx loc reader then
    setStage { s with feWait := s.feWait ++ [⟨c, t, th.uid, a.id, loc, a.size, a.op, data, th.ctx⟩] } c t a .waiting
  else setStage s c t a .refused

/-- A full/empty request that is not performed now: it waits for its place, for what it must follow in the loose buffer, or, as a release
side, for earlier loose reads (R228, R336, R375). -/
def feBlocked (s : State) (c t : Nat) (a : Access) : Bool :=
  relBlocked (thrAt s c t) a || waitsAtPlace s a || waitsForBuffer s c a

/-- A full/empty request performed at the word's owner, enqueued or refused (R165, R166). -/
def serveFe (s : State) (c t : Nat) (a : Access) : State :=
  match a.lanes with
  | l :: _ => match l.place with
    | .peer _ _ => s
    | .here loc =>
      let s := receiveAt (drainOverlap s c (footPlace a.op l.place) (footSize a.op a.size)) (locClk loc) a.stamp
      let w := wordNo loc
      let uid := (thrAt s c t).uid
      match a.op with
      | .feLoad take =>
        if isEmpty s w then enqueueFe s c t a loc 0
        else if consumesPoison s a then ueKill s c t
        else
          let s := askDrain s w a.order
          let v := readBytes s loc a.size
          let s := if take then emptyWord s c w else s
          answerFe s c t uid a.id a.size v
      | .feStore false =>
        if isEmpty s w then
          let s := holdIdentity (fill s c loc a.size l.data (isRelCore a.order)) s.number c t a.stamp 0 (dieOfLoc loc)
          answerFe s c t uid a.id 8 0
        else enqueueFe s c t a loc l.data
      | .feStat => answerFe s c t uid a.id 8 (if isEmpty s w then 0 else 1)
      | _ => s
  | [] => s

/-- FE_REQUEST_ARRIVAL: a request on its way reaches its owner (R165). -/
def execFeRequestArrival (core slot idx : Nat) (s : State) : Out :=
  match accAt s core slot idx with
  | some a => if isFeRequest a && a.stage == .travel && !feBlocked s core slot a then .next (serveFe s core slot a) else .next s
  | none => .next s

/-- FE_RESEND: a refused request is sent again after 64 cycles (R166). -/
def execFeResend (core slot idx : Nat) (s : State) : Out :=
  match accAt s core slot idx with
  | some a =>
    if isFeRequest a && a.stage == .refused && decide (a.since + 64 ≤ (coreAt s core).time) && !feBlocked s core slot a then .next (serveFe s core slot a)
    else .next s
  | none => .next s

/-- A wait has lasted longer than the thread's $fewait; zero disables the timeout (R168). -/
def pastFewait (s : State) (c t since : Nat) : Bool :=
  let f := (thrAt s c t).fewait.toNat
  f != 0 && decide (since + f < (coreAt s c).time)

/-- FE_TIMEOUT: a request that has waited longer than $fewait sends a cancel (R168). -/
def execFeTimeout (core slot idx : Nat) (s : State) : Out :=
  match accAt s core slot idx with
  | some a =>
    if a.stage == .waiting && pastFewait s core slot a.since then
      .next (modThr s core slot (fun th => modAcc th a.id (fun a => { a with cancel := true })))
    else .next s
  | none => .next s

/-- A request that waits at its word is withdrawn (R168). -/
def withdrawOne (s : State) (c t id : Nat) : State :=
  let uid := (thrAt s c t).uid
  { s with feWait := s.feWait.filter (fun q => !(q.id == id && q.uid == uid)) }

/-- FE_CANCEL: a cancel that finds its waiter removes it, and the thread traps FE_TIMEOUT; a loose load's thread traps at its
next issue, and its destination keeps its value (R168). -/
def execFeCancel (core slot idx : Nat) (s : State) : Out :=
  match accAt s core slot idx with
  | some a =>
    if !a.cancel then .next s
    else if a.stage ≠ .waiting then .next (modThr s core slot (fun th => modAcc th a.id (fun a => { a with cancel := false })))
    else
      let s := withdrawOne s core slot a.id
      if a.order = .loose then .next (pend (dropAccess s core slot a.id) core slot cFETIMEOUT a.addr)
      else .next (trapOutside (modThr s core slot (fun th => dropAcc th a.id)) core slot cFETIMEOUT a.addr)
  | none => .next s

/-! ## Reissue (R171, R173, R381) -/

/-- A request that only reads. -/
def onlyReads (a : Access) : Bool :=
  match a.op with
  | .load _ | .loadV | .gather | .feStat | .qstat _ => true
  | .feLoad take => !take
  | _ => false

/-- A load, taking or not. -/
def isLoad (a : Access) : Bool := onlyReads a || (match a.op with
  | .feLoad _ => true
  | _ => false)

/-- The reissues a request may make: two for a load, nine for a store or AMO (R381). -/
def reissues (a : Access) : Nat := if isLoad a then 2 else 9

/-- A request that has been sent and has gone unanswered for 20 µs: no link carries it, no word keeps it, it was not answered "moving" or
"waking", and it is not held at the comparator of a twin (R172, R173, R337, R355, R380). -/
def unanswered (s : State) (c t : Nat) (a : Access) : Bool :=
  (peerOf a.lanes).isNone && a.stage != .waiting && a.stage != .refused && decide (a.since + 20000 ≤ nsOf s c)
    && !heldAcc (thrAt s c t) a.id && !(a.result.isNone && a.lanes.any (fun l => answeredLater s l.place))

/-- REQUEST_REISSUE: the request is sent again. A load that has not reached its target is performed by this request or a later one; one
that has brings the value it read, which what follows it has gone on from (R231; log 2, DESIGN CHOICE). A store or AMO that was
applied is not applied again, and its identity is held from this arrival on (R171, R173, R380). -/
def execRequestReissue (core slot idx : Nat) (s : State) : Out :=
  match accAt s core slot idx with
  | some a =>
    if !unanswered s core slot a || decide (reissues a ≤ a.tries) then .next s
    else
      let now := nsOf s core
      let s := modThr s core slot (fun th => modAcc th a.id (fun a => { a with tries := a.tries + 1, since := now }))
      .next (if onlyReads a || a.result.isNone then s
        else holdAccess s core slot a ((a.result.getD []).headD 0))
  | none => .next s

/-- REQUEST_FAIL: after its last reissue a request has gone unanswered for 20 µs more, and its thread is killed (R381). -/
def execRequestFail (core slot idx : Nat) (s : State) : Out :=
  match accAt s core slot idx with
  | some a => .next (if unanswered s core slot a && decide (reissues a ≤ a.tries) then ueKill s core slot else s)
  | none => .next s

/-- IDENTITY_EXPIRY: an identity has been held for 200 µs (R171). -/
def execIdentityExpiry (idx : Nat) (s : State) : Out :=
  match s.idents[idx]? with
  | some e => .next (if e.since + 200000 ≤ (dieAt s e.die).ns then { s with idents := s.idents.eraseIdx idx } else s)
  | none => .next s

/-! ## Counts (R109, R127) -/

/-- A BUSY park ends with its count; what the bundle left for its end follows. -/
def endBusy (s : State) (c t aux : Nat) : State :=
  let th := thrAt s c t
  match th.park with
  | none => s
  | some p =>
    if parkedFor th .busy && p.aux.toNat == aux && decide (th.busyTil ≤ (coreAt s c).time) then
      let s := lateFlags (freeThr s c t) c t
      parkMarker s c t
    else s

/-- DIVIDER_DONE (R109). -/
def execDividerDone (core slot : Nat) (s : State) : Out := .next (endBusy s core slot 0)

/-- YIELD_EXPIRY (R127). -/
def execYieldExpiry (core slot : Nat) (s : State) : Out := .next (endBusy s core slot 1)

end Sys2Proof.Machine
end

