-- ==== Sys2Proof/Machine/Copy.lean ====
section
/-!
DEFINITION. Copies (R72, R73, R179 to R183, R305): the shape record, the issue of CPY and CPYS, the start of a command at the head of its
channel, its end.
-/

namespace Sys2Proof.Machine

/-! ## The shape record (R179, R180) -/

/-- RANK and FMT of a record. -/
def shRank (r : Shape) : Nat := nbits r.word 72 3
def shFmt (r : Shape) : Option Fmt := (fmtOf (nbits r.word 64 6)).filter (fun f => f.isAny)
def shBase (r : Shape) : W64 := BitVec.ofNat 64 (nbits r.word 0 64)

/-- Bytes of an element. -/
def shElem (r : Shape) : Nat := match shFmt r with
  | some f => f.width / 8
  | none => 1

/-- TILE, SIZE and STRIDE of dimension d; from RANK on 1, 1 and ignored (R180). -/
def shTile (r : Shape) (d : Nat) : Nat := if d < shRank r then nbits r.word (192 + 16 * d) 16 else 1
def shSize (r : Shape) (d : Nat) : Nat := if d < shRank r then nbits r.word (128 + 16 * d) 16 else 1
def shStride (r : Shape) (d : Nat) : Int := if d < shRank r then (BitVec.ofNat 64 (nbits r.word (256 + 64 * d) 64)).toInt else 0

/-- The four dimensions. -/
def dims : List Nat := [0, 1, 2, 3]

/-- Elements of the tile. -/
def shCount (r : Shape) : Nat := shTile r 0 * shTile r 1 * shTile r 2 * shTile r 3

/-- A malformed record (R180). -/
def shMalformed (r : Shape) : Bool :=
  shRank r == 0 || decide (4 < shRank r) || (shFmt r).isNone || nbits r.word 70 2 != 0 || nbits r.word 75 53 != 0
    || dims.any (fun d => shTile r d == 0) || decide (2 ^ 24 < shCount r * shElem r)

/-- A misaligned record (R180). -/
def shMisaligned (r : Shape) : Bool :=
  (shBase r).toNat % shElem r != 0 || dims.any (fun d => (shStride r d) % (shElem r : Int) != 0)

/-- Tile coordinate d of a coordinate word (R181). -/
def coordOf (c : W64) (d : Nat) : Nat := bits c (16 * d) 16

/-- Global index of dimension d at element k of the stream (R182). -/
def globalIdx (r : Shape) (c : W64) (k d : Nat) : Nat :=
  let below := (dims.take d).foldl (fun p i => p * shTile r i) 1
  coordOf c d * shTile r d + k / below % max (shTile r d) 1

/-- The source address of element k; none outside the tensor, where it is 0 (R182). -/
def srcAddr (r : Shape) (c : W64) (k : Nat) : Option W64 :=
  if dims.all (fun d => decide (globalIdx r c k d < shSize r d)) then
    some (shBase r + BitVec.ofInt 64 (dims.foldl (fun a d => a + (globalIdx r c k d : Int) * shStride r d) 0))
  else none

/-- The lowest source address and the number of bytes to the highest; none when the shape reads nothing (R69). -/
def srcSpan (r : Shape) (c : W64) : Option (W64 × Nat) :=
  if dims.any (fun d => decide (shSize r d ≤ coordOf c d * shTile r d)) then none
  else
    let lo := fun (d : Nat) => ((coordOf c d * shTile r d : Nat) : Int) * shStride r d
    let hi := fun (d : Nat) => ((min (shSize r d) (coordOf c d * shTile r d + shTile r d) - 1 : Nat) : Int) * shStride r d
    let a := dims.foldl (fun s d => s + min (lo d) (hi d)) 0
    let b := dims.foldl (fun s d => s + max (lo d) (hi d)) 0
    some (shBase r + BitVec.ofInt 64 a, (b - a).toNat + shElem r)

/-- A range straddles two regions (R69). -/
def straddlesRange (a : W64) (n : Nat) : Bool := decide (2 ^ 48 < n) || straddles a n

/-- The checks on a record: cause and address of the first that fails (R180, R183) (log 32, DEDUCED). -/
def shapeFault (r : Shape) (rc c dst : W64) (dk : Nat) : Option (Nat × W64) :=
  let mem := dk == 0 || dk == 3
  if shMalformed r then some (cPROTECTION, rc)
  else if shMisaligned r then some (cMISALIGNED, shBase r)
  else if mem && dst.toNat % shElem r != 0 then some (cMISALIGNED, dst)
  else match srcSpan r c with
    | some (a, n) => if straddlesRange a n then some (cSTRADDLE, a)
      else if mem && straddlesRange dst (shCount r * shElem r) then some (cSTRADDLE, dst) else none
    | none => if mem && straddlesRange dst (shCount r * shElem r) then some (cSTRADDLE, dst) else none

/-! ## Issue (R181, R183) -/

/-- The commands of a channel. -/
def chanOf (s : State) (k ch : Nat) : List CopyCmd := tget [] (cluAt s k).chans ch

/-- A channel's commands replaced. -/
def setChan (s : State) (k ch : Nat) (l : List CopyCmd) : State := modClu s k (fun c => { c with chans := tput c.chans ch l })

/-- A tag of the thread becomes busy: $tags and $tagerr clear (R183). -/
def openTag (s : State) (tag : Nat) : State :=
  let b : W64 := 1 <<< tag
  modMe s (fun th => { th with tags := th.tags &&& ~~~b, tagerr := th.tagerr &&& ~~~b, busyTags := th.busyTags ||| b })

/-- The tag belongs to an incomplete command of the thread. -/
def tagBusy (s : State) (tag : Nat) : Bool := (me s).busyTags.getLsbD tag

/-- n bytes read by a thread where a translation leads; a peer's bytes are what it answers (log 14, DESIGN CHOICE). -/
def readPlace (s : State) (id off : Nat) (p : Place) (n : Nat) : Nat :=
  match p with
  | .here l => loadAt s l n
  | .peer _ _ => Config.peerData id off % 256 ^ n

/-- The read of a record by the thread at issue, in order after its own stores (R181, R185, R228). It waits as an access does when a
request for its place, or a store before it, is not performed now (R336, R375). -/
def readAtIssue (s : State) (a : W64) (n : Nat) (k : State → Nat → Out) : Out :=
  match translateFar s (whoOf s (myCore s) (mySlot s)) { r := true } a n with
  | (.reaches p _, s) =>
    let (id, s) := withFresh s
    let s := drainOverlap s (myCore s) p n
    if outOfReach s p || overlapLeft s (myCore s) p n then wait (reachPlace s p) .access
    else k (placeAnswered s p) (readPlace s id 0 p n)
  | (.trap c, s) => trapC s c a
  | (.wait _, s) => wait s .pageMove a
  | (.unbacked, _) => .fault .unbackedWalk

/-- A copy command enters its channel, and its stamp reaches the engine (R29, R183). -/
def enterCopy (s : State) (rc coords dst : W64) (dk tag : Nat) (shape : Option Shape) : State :=
  let (id, s) := withFresh s
  let th := me s
  let k := clusterOf (myCore s)
  let s := carry s (.core (myCore s)) (.clu k)
  let m : CopyCmd := { id := id, core := myCore s, slot := mySlot s, uid := th.uid, ctx := th.ctx, privid := th.privid.toNat
                       seat := th.seat, pc := s.iss.pc, recAddr := rc, coords := coords, dst := dst, dk := dk, tag := tag, shape := shape }
  openTag (setChan s k (tag % 8) (chanOf s k (tag % 8) ++ [m])) tag

/-- The issue of a copy (R181, R183, R193): now reads the record at issue. -/
def copyIssue (s : State) (now : Bool) (rd ra rb : Reg) (dk : BitVec 2) (tag : BitVec 6) : Out :=
  let rc := readX s ra
  let coords := readX s rb
  let d := dk.toNat
  let dst := if d = 0 ∨ d = 3 then readX s rd else 0
  let fifo := d == 1 || d == 2
  let c := myCore s
  let t := mySlot s
  once s none rc 64 d (coords.toNat * 2 ^ 64 + dst.toNat) (fun s =>
    if tagBusy s tag.toNat || decide (16 ≤ (chanOf s (clusterOf c) (tag.toNat % 8)).length) then wait s .engine
    else if fifo && lapsed s c t then wait s .lease
    else if rc.toNat % 64 ≠ 0 then trapC s cMISALIGNED rc
    else if fifo && !holdsLease s c t then trapC s cLEASE 0
    else if !now then .next (enterCopy s rc coords dst d tag.toNat none)
    else readAtIssue s rc 64 (fun s w =>
      match shapeFault ⟨w⟩ rc coords dst d with
      | some (x, e) => trapC s x e
      | none => .next (enterCopy s rc coords dst d tag.toNat (some ⟨w⟩))))

/-- CPY (R183). -/
def execCpy (rd ra rb : Reg) (dk : BitVec 2) (tag : BitVec 6) (s : State) : Out := copyIssue s false rd ra rb dk tag

/-- CPYS (R183). -/
def execCpys (rd ra rb : Reg) (dk : BitVec 2) (tag : BitVec 6) (s : State) : Out := copyIssue s true rd ra rb dk tag

/-! ## The engine: start (R72, R182) -/

/-- Who a copy translates as: its thread at issue, through the cache of its channel (R72, R332). -/
def copyWho (k ch : Nat) (m : CopyCmd) : Who :=
  { ctx := m.ctx, privid := m.privid, seat := m.seat, core := m.core, chan := some (k, ch) }

/-- 64 KiB pieces of a range of addresses, in the order they are met, each with its lowest and highest element address. -/
def addPiece (l : List (W64 × W64)) (a : W64) : List (W64 × W64) :=
  if l.any (fun p => bits p.1 16 48 == bits a 16 48) then
    l.map (fun p => if bits p.1 16 48 = bits a 16 48 then (if a.ult p.1 then a else p.1, if p.2.ult a then a else p.2) else p)
  else l ++ [(a, a)]

/-- The source pieces of a copy (R182). -/
def srcPieces (r : Shape) (c : W64) : List (W64 × W64) :=
  (List.range (shCount r)).foldl (fun l k => match srcAddr r c k with
    | some a => addPiece l a
    | none => l) []

/-- The destination pieces of a copy. -/
def dstPieces (r : Shape) (dst : W64) : List (W64 × W64) :=
  (List.range (shCount r)).foldl (fun l k => addPiece l (dst + BitVec.ofNat 64 (k * shElem r))) []

/-- What the translation of a command's pages gives. -/
inductive Pages where
  | ok (ps : List PagePlace) (ks : List LeafKey)
  | trap (cause : Nat) (a : W64)
  | wait
  | unbacked
  deriving DecidableEq, Repr

/-- The place of the first byte of the 64 KiB piece that holds an address. -/
def pieceBase (p : Place) (a : W64) : Place :=
  match p with
  | .here l => .here (l - bits a 0 16)
  | .peer d x => .peer d (x - BitVec.ofNat 64 (bits a 0 16))

/-- The 64 KiB piece of an address with the places of its bytes. -/
def pageAt (a : W64) (ps : List Place) : PagePlace := { va := bits a 16 48 * 65536, bits := 16, places := ps.map (fun p => pieceBase p a) }

/-- One piece translated: at its lowest address, and in a scratchpad at its highest too (R70); on a peer device's page with what that
device finds (R74). -/
def pageOf (s : State) (w : Who) (rt : Rights) (e : Nat) (p : W64 × W64) : Pages × State :=
  match translateFar s w rt p.1 e with
  | (.trap c, s) => (.trap c p.1, s)
  | (.wait _, s) => (.wait, s)
  | (.unbacked, s) => (.unbacked, s)
  | (.reaches pl ks, s) =>
    if 0xD ≤ winOf p.1 ∧ winOf p.1 ≤ 0xE then
      match translate s w rt p.2 e with
      | (.trap c, s) => (.trap c p.2, s)
      | (_, s) => (.ok [pageAt p.1 [pl]] ks, s)
    else (.ok [pageAt p.1 [pl]] ks, s)

/-- One piece of a broadcast's destination: every die's replica (R73, R182). -/
def pageOfReplica (s : State) (w : Who) (e : Nat) (p : W64 × W64) : Pages × State :=
  if 0xD ≤ winOf p.1 ∧ bits p.1 48 16 = 0 then (.trap cPROTECTION p.1, s)
  else match translate s w { w := true } p.1 e with
    | (.reaches _ _, s) => (.trap cPROTECTION p.1, s)
    | (.wait _, s) => (.wait, s)
    | (.unbacked, s) => (.unbacked, s)
    | (.trap c, s) =>
      if c ≠ cREPLICA then (.trap c p.1, s)
      else match replicas s w p.1 with
        | .ok (ls, ks) => (.ok [pageAt p.1 (ls.map .here)] ks, s)
        | .error (.trap x) => (.trap x p.1, s)
        | .error .unbacked => (.unbacked, s)
        | .error (.wait k) => (.wait, startExit s k)
        | .error _ => (.wait, s)

/-- Pieces translated in order; the first that fails decides. -/
def pagesOf (f : State → (W64 × W64) → Pages × State) : State → List (W64 × W64) → Pages × State
  | s, [] => (.ok [] [], s)
  | s, p :: r =>
    match f s p with
    | (.ok ps ks, s) =>
      match pagesOf f s r with
      | (.ok qs js, s) => (.ok (ps ++ qs) (ks ++ js), s)
      | x => x
    | x => x

/-- The head of a channel replaced. -/
def setHead (s : State) (k ch : Nat) (f : CopyCmd → CopyCmd) : State :=
  match chanOf s k ch with
  | m :: r => setChan s k ch (f m :: r)
  | [] => s

/-- Threads of a cluster that wait for room in a unit try again; a core without threads has none. -/
def wakeCluster (s : State) (k : Nat) : State :=
  ((coresOfCluster k).filter (fun c => !(coreAt s c).threads.isEmpty)).foldl wakeUnits s

/-- The head command of a channel leaves it, its tag completes (R183) with the engine's stamp (R29), and bundles that wait for the
channel go on. -/
def endCopy (s : State) (k ch : Nat) (err : Bool) : State :=
  match chanOf s k ch with
  | m :: r => wakeCluster (completeTag (setChan (carry s (.clu k) (.core m.core)) k ch r) m.core m.slot m.uid m.tag err) k
  | [] => s

/-- The head command ends in error, with a message to the supervisor (R183). -/
def failCopy (s : State) (k ch : Nat) (m : CopyCmd) (cause : Nat) (e : W64) : State :=
  endCopy (supEngine s k m.ctx m.core m.slot cause m.pc e) k ch true

/-- The record of a command read by the engine when CPY left it to it (R181). -/
def copyRecord (s : State) (k ch : Nat) (m : CopyCmd) : Except Xl Shape × State :=
  match m.shape with
  | some r => (.ok r, s)
  | none =>
    match translateFar s (copyWho k ch m) { r := true } m.recAddr 64 with
    | (.reaches p _, s) => if outOfReach s p then (.error (.wait none), reachPlace s p) else (.ok ⟨readPlace s m.id 0 p 64⟩, s)
    | (x, s) => (.error x, s)

/-- COPY_START: a command at the head of its channel reads its record and translates every page (R182). -/
def execCopyStart (cluster chan : Nat) (s : State) : Out :=
  match chanOf s cluster chan with
  | [] => .next s
  | m :: _ =>
    if m.started then .next s
    else
      let park := fun (s : State) => setHead s cluster chan (fun m => { m with parked := true })
      match copyRecord s cluster chan m with
      | (.error (.trap c), s) => .next (failCopy s cluster chan m c m.recAddr)
      | (.error .unbacked, _) => .fault .unbackedWalk
      | (.error _, s) => .next (park s)
      | (.ok r, s) =>
        match (if m.shape.isNone then shapeFault r m.recAddr m.coords m.dst m.dk else none) with
        | some (c, e) => .next (failCopy s cluster chan m c e)
        | none =>
          let w := copyWho cluster chan m
          match pagesOf (fun s p => pageOf s w { r := true } (shElem r) p) s (srcPieces r m.coords) with
          | (.trap c e, s) => .next (failCopy s cluster chan m c e)
          | (.wait, s) => .next (park s)
          | (.unbacked, _) => .fault .unbackedWalk
          | (.ok src ks, s) =>
            let f := fun (s : State) (p : W64 × W64) =>
              if m.dk = 3 then pageOfReplica s w (shElem r) p else pageOf s w { w := true } (shElem r) p
            match pagesOf f s (if m.dk = 0 ∨ m.dk = 3 then dstPieces r m.dst else []) with
            | (.trap c e, s) => .next (failCopy s cluster chan m c e)
            | (.wait, s) => .next (park s)
            | (.unbacked, _) => .fault .unbackedWalk
            | (.ok dst js, s) =>
              .next (setHead s cluster chan (fun m => { m with
                shape := some r, started := true, parked := false, srcs := src, dsts := dst, leafs := ks ++ js }))

/-! ## The engine: moving (R182, R197, R305) -/

/-- The places of an address among translated pieces. -/
def placesAt (ps : List PagePlace) (a : W64) : List Place :=
  match ps.find? (fun p => p.va == bits a 16 48 * 65536) with
  | some p => p.places.map (fun x => shiftPlace x (bits a 0 16))
  | none => []

/-- A place in a scratchpad that is not live for a context. -/
def deadPlace (s : State) (ctx : Nat) : Place → Bool
  | .here l => isScratch l && !liveFor s (scratchCore l) ctx
  | .peer _ _ => false

/-- A started command reaches an unmapped scratchpad (R305). -/
def copyDead (s : State) (m : CopyCmd) : Bool := (m.srcs ++ m.dsts).any (fun p => p.places.any (deadPlace s m.ctx))

/-- Element k of a command's stream. -/
def copyElem (s : State) (m : CopyCmd) (r : Shape) (k : Nat) : Nat :=
  match srcAddr r m.coords k with
  | none => 0
  | some a => match placesAt m.srcs a with
    | p :: _ => readPlace s m.id (k + 64) p (shElem r)
    | [] => 0

/-- A started command has a page for which a request is not performed now (R336, R355, R375, R420). -/
def pagesBlocked (s : State) (ps : List PagePlace) : Bool := ps.any (fun p => p.places.any (outOfReach s))

/-- An engine's requests have reached some pages: clusters in VIGIL leave it (R355). -/
def reachPages (s : State) (ps : List PagePlace) : State := (ps.flatMap (fun p => p.places)).foldl reachPlace s

/-- n bytes written by an engine at a place (R162, R167); stamp is the engine's. -/
def engineStore (s : State) (core slot id : Nat) (stamp : W64) (p : Place) (n v : Nat) : State :=
  match p with
  | .here l => storeAt none s l n v
  | .peer d a => linkSend s (.access d core slot id a .store .plain n v stamp)

/-- Bytes done to done + n of a command's stream. -/
def streamPart (s : State) (m : CopyCmd) (r : Shape) (done n : Nat) : Nat :=
  let e := shElem r
  (List.range (n / e)).foldl (fun x i => x + copyElem s m r (done / e + i) * 256 ^ (e * i)) 0

/-- Part of the stream, within one aligned 8-byte word of the destination, read and written at once, to every replica for a broadcast
(R156, R182): its length and the bytes of the stream before it. -/
def moveWord (m : CopyCmd) (r : Shape) (stamp : W64) (s : State) (p : Nat × Nat × Nat) : State :=
  let x := streamPart s m r p.2.2 p.2.1
  (placesAt m.dsts (m.dst + BitVec.ofNat 64 p.2.2)).foldl (fun s q => engineStore s m.core m.slot m.id stamp q p.2.1 x) s

/-- The destination of a command cut at aligned 8-byte words. -/
def copyWords (m : CopyCmd) (r : Shape) : List (Nat × Nat × Nat) :=
  wordPieces m.dst.toNat (shCount r * shElem r + 1) (shCount r * shElem r) 0

/-- A word of a started command's destination stands in a line that an evacuation copies now (R347). -/
def copyHeld (s : State) (m : CopyCmd) (r : Shape) : Bool :=
  (copyWords m r).any (fun p => (placesAt m.dsts (m.dst + BitVec.ofNat 64 p.2.2)).any (heldWrite s))

/-- Stamps between an engine and what holds some pages: from them before it reads, to them with what it writes (R29); a peer's page is
answered for (R382). -/
def stampPages (s : State) (u : Clk) (out : Bool) (ps : List PagePlace) : State :=
  (ps.flatMap (fun p => p.places)).foldl (fun s q => match q with
    | .here l => if out then carry s u (locClk l) else carry s (locClk l) u
    | .peer d _ => peerUp s d) s

/-- A started command moves its whole tile (R182). -/
def moveTile (s : State) (k : Nat) (m : CopyCmd) (r : Shape) : State :=
  let s := stampPages s (.clu k) false m.srcs
  let (stamp, s) := stampClu s k
  (copyWords m r).foldl (moveWord m r stamp) (stampPages s (.clu k) true m.dsts)

/-- Bytes in a FIFO. -/
def fifoBytes (l : List FifoElem) : Nat := l.foldl (fun n e => n + e.bytes) 0

/-- The FIFO that a command feeds has no room for an element (R197). -/
def fifoFull (s : State) (cluster : Nat) (m : CopyCmd) (r : Shape) : Bool :=
  let a := (cluAt s cluster).arr
  decide (65536 < fifoBytes (if m.dk = 1 then a.fifoA else a.fifoB) + shElem r)

/-- Elements from k on pushed into the A or B FIFO while it has room (R197). -/
def feedFifo (m : CopyCmd) (r : Shape) (cluster chan : Nat) : Nat → State → State
  | 0, s => s
  | n + 1, s =>
    match chanOf s cluster chan with
    | [] => s
    | h :: _ =>
      if shCount r ≤ h.moved ∨ fifoFull s cluster m r then s
      else
        let e : FifoElem := ⟨copyElem s m r h.moved, shElem r, m.uid, m.ctx⟩
        let s := modArr s cluster (fun a => if m.dk = 1 then { a with fifoA := a.fifoA ++ [e] } else { a with fifoB := a.fifoB ++ [e] })
        feedFifo m r cluster chan n (setHead s cluster chan (fun m => { m with moved := m.moved + 1 }))

/-- A command feeds a FIFO of an array that is frozen (R206). -/
def feedsFrozen (s : State) (cluster : Nat) (m : CopyCmd) : Bool := (m.dk == 1 || m.dk == 2) && (cluAt s cluster).arr.frozen.isSome

/-- COPY_COMPLETE: a started command moves its tile and completes its tag; one bound for a FIFO goes on as the FIFO has room, and not while
the array is frozen (R182, R183, R197, R206) (log 4, DESIGN CHOICE). -/
def execCopyComplete (cluster chan : Nat) (s : State) : Out :=
  match chanOf s cluster chan with
  | [] => .next s
  | m :: _ =>
    match m.shape with
    | none => .next s
    | some r =>
      if !m.started then .next s
      else if copyDead s m then .next (failCopy s cluster chan m cPEERGONE m.dst)
      else if pagesBlocked s (m.srcs ++ m.dsts) then .next (reachPages s (m.srcs ++ m.dsts))
      else if feedsFrozen s cluster m then .next s
      else if m.dk = 0 ∨ m.dk = 3 then .next (if copyHeld s m r then s else endCopy (moveTile s cluster m r) cluster chan false)
      else if fifoFull s cluster m r && decide (m.moved < shCount r) then .next s
      else
        let s := feedFifo m r cluster chan (shCount r) (stampPages s (.clu cluster) false m.srcs)
        match chanOf s cluster chan with
        | h :: _ => .next (if shCount r ≤ h.moved then endCopy s cluster chan false else s)
        | [] => .next s

/-- ENGINE_WRITE_DROP: a command that reaches an unmapped scratchpad ends in error with PEER_GONE (R305). -/
def execEngineWriteDrop (cluster chan : Nat) (s : State) : Out :=
  match chanOf s cluster chan with
  | [] => .next s
  | m :: _ => .next (if m.started && copyDead s m then failCopy s cluster chan m cPEERGONE m.dst else s)

end Sys2Proof.Machine
end

