-- ==== Sys2Proof/Machine/Flags.lean ====
section
/-!
DEFINITION. Floating-point numbers as exact dyadic values, the rounding of exact results to FP32, FP16, BF16 and binary8, and
every flag that a rounding sets (R35 to R44).
-/

namespace Sys2Proof.Machine

/-! ## Flags (R43), in the bit order of $fflags -/

abbrev Flags := BitVec 5
def fNV : Flags := 16
def fDZ : Flags := 8
def fOF : Flags := 4
def fUF : Flags := 2
def fNX : Flags := 1

/-! ## Values -/

/-- A floating-point value: NaN, signalling or not, an infinity, or (-1)^neg × m × 2^e. -/
inductive FVal where
  | nan (sig : Bool)
  | inf (neg : Bool)
  | fin (neg : Bool) (m : Nat) (e : Int)
  deriving DecidableEq, Repr

/-- The value is a NaN. -/
def FVal.isNan : FVal → Bool
  | .nan _ => true
  | _ => false

/-- The value is a signalling NaN. -/
def FVal.isSig : FVal → Bool
  | .nan s => s
  | _ => false

/-- The value is a zero. -/
def FVal.isZero : FVal → Bool
  | .fin _ m _ => m == 0
  | _ => false

/-- The sign of a value, false for a NaN. -/
def FVal.neg : FVal → Bool
  | .nan _ => false
  | .inf n => n
  | .fin n _ _ => n

/-- The value with its sign replaced; a NaN stays. -/
def FVal.withSign (n : Bool) : FVal → FVal
  | .nan s => .nan s
  | .inf _ => .inf n
  | .fin _ m e => .fin n m e

/-- The value with its sign turned; a NaN stays. -/
def FVal.flip : FVal → FVal
  | .nan s => .nan s
  | .inf n => .inf (!n)
  | .fin n m e => .fin (!n) m e

/-- m × 2^e as an integer, for e at most the exponent of m. -/
def scaled (n : Bool) (m : Nat) (e lo : Int) : Int :=
  let v : Int := (m * 2 ^ (e - lo).toNat : Nat)
  if n then -v else v

/-- a < b for values that are no NaN; zeros of both signs are equal. -/
def FVal.lt : FVal → FVal → Bool
  | .fin n m e, .fin k p f =>
    let lo := min e f
    decide (scaled n m e lo < scaled k p f lo)
  | .inf n, .inf k => n && !k
  | .inf n, _ => n
  | _, .inf k => !k
  | _, _ => false

/-- a = b for values that are no NaN. -/
def FVal.eq (a b : FVal) : Bool := !a.isNan && !b.isNan && !a.lt b && !b.lt a

/-! ## IEEE formats (R41) -/

/-- An IEEE format: exponent bits, and precision with the leading bit. -/
structure Ieee where
  ebits : Nat
  prec  : Nat
  deriving DecidableEq, Repr

def fp32 : Ieee := ⟨8, 24⟩
def fp16 : Ieee := ⟨5, 11⟩
def bf16 : Ieee := ⟨8, 8⟩

/-- The exponent bias. -/
def Ieee.bias (f : Ieee) : Nat := 2 ^ (f.ebits - 1) - 1

/-- The weight of the last bit of a subnormal. -/
def Ieee.qmin (f : Ieee) : Int := 2 - (f.bias : Int) - (f.prec : Int)

/-- Bits of a code. -/
def Ieee.width (f : Ieee) : Nat := f.ebits + f.prec

/-- The value of a code. -/
def Ieee.decode (f : Ieee) (c : Nat) : FVal :=
  let k := f.prec - 1
  let t := c % 2 ^ k
  let e := c / 2 ^ k % 2 ^ f.ebits
  let n := c / 2 ^ (k + f.ebits) % 2 == 1
  if e = 2 ^ f.ebits - 1 then (if t = 0 then .inf n else .nan (t < 2 ^ (k - 1)))
  else if e = 0 then .fin n t f.qmin
  else .fin n (2 ^ k + t) (f.qmin + (e - 1 : Nat))

/-- The canonical NaN (R41). -/
def Ieee.nan (f : Ieee) : Nat := (2 ^ (f.ebits + 1) - 1) * 2 ^ (f.prec - 2)

/-- The code of an infinity, of a zero, of the largest finite value. -/
def Ieee.sign (f : Ieee) (n : Bool) : Nat := if n then 2 ^ (f.width - 1) else 0
def Ieee.inf (f : Ieee) (n : Bool) : Nat := f.sign n + (2 ^ f.ebits - 1) * 2 ^ (f.prec - 1)
def Ieee.maxFin (f : Ieee) (n : Bool) : Nat := f.inf n - 1

/-- The dynamic rounding mode (R42). -/
abbrev Mode := BitVec 2

/-- A magnitude cut at weight 2^d, rounded: quotient, and whether bits were lost. -/
def cut (mode : Mode) (n : Bool) (m d : Nat) : Nat × Bool :=
  let q := m / 2 ^ d
  let r := m % 2 ^ d
  let up := match mode.toNat with
    | 0 => decide (2 ^ d < 2 * r) || (2 * r == 2 ^ d && r != 0 && q % 2 == 1)
    | 1 => false
    | 2 => n && r != 0
    | _ => !n && r != 0
  (if up then q + 1 else q, r != 0)

/-- Number of bits of a number. -/
def bitLen (m : Nat) : Nat := if m = 0 then 0 else m.log2 + 1

/-- A magnitude m × 2^e rounded to multiples of 2^q. -/
def roundAt (mode : Mode) (n : Bool) (m : Nat) (e q : Int) : Nat × Bool :=
  if q ≤ e then (m * 2 ^ (e - q).toNat, false) else cut mode n m (q - e).toNat

/-- An exact value rounded to an IEEE format, with OF, UF and NX (R43); tininess is detected after rounding. -/
def Ieee.round (f : Ieee) (mode : Mode) (n : Bool) (m : Nat) (e : Int) : Nat × Flags :=
  if m = 0 then (f.sign n, 0)
  else
    let qfree : Int := e + (bitLen m : Int) - (f.prec : Int)
    let q := max qfree f.qmin
    let (r, lost) := roundAt mode n m e q
    let (rf, _) := roundAt mode n m e qfree
    let code := (q - f.qmin).toNat * 2 ^ (f.prec - 1) + r
    let top := f.inf false
    let tiny := decide (qfree < f.qmin) && !(qfree + 1 == f.qmin && rf == 2 ^ f.prec)
    if top ≤ code then
      let away := match mode.toNat with
        | 0 => true
        | 1 => false
        | 2 => n
        | _ => !n
      (if away then f.inf n else f.maxFin n, fOF ||| fNX)
    else (f.sign n + code, (if lost then fNX else 0) ||| (if lost && tiny then fUF else 0))

/-- A value rounded to an IEEE format; a NaN becomes the canonical one, NV when it signals. -/
def Ieee.encode (f : Ieee) (mode : Mode) : FVal → Nat × Flags
  | .nan s => (f.nan, if s then fNV else 0)
  | .inf n => (f.inf n, 0)
  | .fin n m e => f.round mode n m e

/-! ## Binary8 (R35 to R39) -/

/-- The exponent bias of a binary8 format. -/
def b8Bias (sgn : Bool) (p : Nat) : Int := if sgn then 2 ^ (7 - p) else 2 ^ (8 - p)

/-- The weight of the last bit of a binary8 subnormal. -/
def b8Qmin (sgn : Bool) (p : Nat) : Int := 2 - b8Bias sgn p - (p : Int)

/-- The code of the largest finite value. -/
def b8Max (sgn inf : Bool) : Nat := (if sgn then 0x7F else 0xFE) - (if inf then 1 else 0)

/-- The NaN code. -/
def b8Nan (sgn : Bool) : Nat := if sgn then 0x80 else 0xFF

/-- The value of a binary8 code. -/
def b8Decode (sgn inf : Bool) (p c : Nat) : FVal :=
  let n := sgn && decide (0x80 ≤ c)
  let k := if sgn then c % 0x80 else c
  if c = b8Nan sgn then .nan false
  else if inf && k == b8Max sgn true + 1 then .inf n
  else
    let t := k % 2 ^ (p - 1)
    let e := k / 2 ^ (p - 1)
    if e = 0 then .fin n t (b8Qmin sgn p) else .fin n (2 ^ (p - 1) + t) (b8Qmin sgn p + (e - 1 : Nat))

/-- The code of a magnitude code with a sign. -/
def b8Signed (sgn n : Bool) (k : Nat) : Nat := if sgn && n then 0x80 + k else k

/-- A magnitude m × 2^e rounded to multiples of 2^q, to the nearest; in a tie the number whose code, off more than it, is even is taken:
for precision 1, where every significand is 1, the code whose last bit is 0 (log 18, DESIGN CHOICE). -/
def roundCode (off : Nat) (n : Bool) (m : Nat) (e q : Int) : Nat × Bool :=
  if q ≤ e then (m * 2 ^ (e - q).toNat, false)
  else
    let d := (q - e).toNat
    let (r, lost) := cut 0 n (off % 2 * 2 ^ d + m) d
    (r - off % 2, lost)

/-- The conversion of a value into a binary8 format (R39) (log 18, DESIGN CHOICE). -/
def b8Encode (sgn inf : Bool) (p : Nat) (sat : Bool) : FVal → Nat × Flags
  | .nan s => (b8Nan sgn, if s then fNV else 0)
  | .inf n =>
    if n && !sgn then (if sat then (0, fNX) else (b8Nan sgn, fNV))
    else if inf then (b8Signed sgn n (b8Max sgn true + 1), 0)
    else if sat then (b8Signed sgn n (b8Max sgn inf), fNX)
    else (b8Nan sgn, fNV)
  | .fin n m e =>
    let q := max (e + (bitLen m : Int) - (p : Int)) (b8Qmin sgn p)
    let off := (q - b8Qmin sgn p).toNat * 2 ^ (p - 1)
    let (r, lost) := roundCode off n m e q
    if r = 0 then (0, if m = 0 then 0 else fNX ||| fUF)
    else if n && !sgn then (if sat then (0, fNX) else (b8Nan sgn, fNV))
    else
      let code := off + r
      if b8Max sgn inf < code then
        (if sat then b8Signed sgn n (b8Max sgn inf)
          else if inf then b8Signed sgn n (b8Max sgn true + 1) else b8Nan sgn, fOF ||| fNX)
      else (b8Signed sgn n code, (if lost then fNX else 0) ||| (if lost && decide (code < 2 ^ (p - 1)) then fUF else 0))

/-! ## Element formats (R98) -/

/-- The IEEE format of a floating element format. -/
def fmtIeee : Fmt → Ieee
  | .fp16 => fp16
  | .bf16 => bf16
  | _ => fp32

/-- The IEEE format of a scalar form (R113). -/
def formIeee : FForm → Ieee
  | .fp32 => fp32
  | .fp16 => fp16
  | .bf16 => bf16

/-- The integer that a code of an integer format stands for (R44). -/
def intOf (signed : Bool) (w c : Nat) : Int :=
  if signed && decide (2 ^ (w - 1) ≤ c) then (c : Int) - 2 ^ w else c

/-- An exact integer as a value. -/
def ofInt (i : Int) : FVal := .fin (decide (i < 0)) i.natAbs 0

/-- The value of an element. -/
def fmtValue (f : Fmt) (c : Nat) : FVal :=
  match f with
  | .b8 s i p => b8Decode s i p.toNat c
  | .fp16 => fp16.decode c
  | .bf16 => bf16.decode c
  | .fp32 => fp32.decode c
  | .int8 => ofInt (intOf true 8 c)
  | .int16 => ofInt (intOf true 16 c)
  | .int32 => ofInt (intOf true 32 c)
  | .int64 => ofInt (intOf true 64 c)
  | .uint8 | .uint16 | .uint32 | .uint64 | .bs64 => ofInt (c : Int)

/-- A value rounded to an integer by a mode: the integer and whether it is inexact. -/
def toInt (mode : Mode) (n : Bool) (m : Nat) (e : Int) : Int × Bool :=
  let (r, lost) := roundAt mode n m e 0
  (if n then -(r : Int) else r, lost)

/-- The smallest and largest integer of a format. -/
def intMin (signed : Bool) (w : Nat) : Int := if signed then -(2 ^ (w - 1)) else 0
def intMax (signed : Bool) (w : Nat) : Int := if signed then 2 ^ (w - 1) - 1 else 2 ^ w - 1

/-- The code of an integer on w bits. -/
def wrapTo (w : Nat) (i : Int) : Nat := (i % 2 ^ w).toNat

/-- The conversion of a floating value to an integer (R43): out of range saturates and NaN gives 0, both with NV alone. -/
def toIntCode (mode : Mode) (signed : Bool) (w : Nat) : FVal → Nat × Flags
  | .nan _ => (0, fNV)
  | .inf n => (wrapTo w (if n then intMin signed w else intMax signed w), fNV)
  | .fin n m e =>
    let (i, lost) := toInt mode n m e
    if i < intMin signed w then (wrapTo w (intMin signed w), fNV)
    else if intMax signed w < i then (wrapTo w (intMax signed w), fNV)
    else (wrapTo w i, if lost then fNX else 0)

/-- A conversion between formats (R116, R145): a floating destination rounds by the mode, binary8 by R39, an integer one by
R43. -/
def convert (mode : Mode) (sat : Bool) (dst src : Fmt) (c : Nat) : Nat × Flags :=
  let v := fmtValue src c
  match dst with
  | .b8 s i p => b8Encode s i p.toNat sat v
  | .fp16 => fp16.encode mode v
  | .bf16 => bf16.encode mode v
  | .fp32 => fp32.encode mode v
  | .int8 => toIntCode mode true 8 v
  | .int16 => toIntCode mode true 16 v
  | .int32 => toIntCode mode true 32 v
  | .int64 => toIntCode mode true 64 v
  | .uint8 => toIntCode mode false 8 v
  | .uint16 => toIntCode mode false 16 v
  | .uint32 => toIntCode mode false 32 v
  | .uint64 | .bs64 => toIntCode mode false 64 v

end Sys2Proof.Machine
end

