-- ==== Sys2Proof/Machine/Scan.lean ====
section
/-!
DEFINITION. Scan queries: SCANQ and the end of a scan (R185 to R187).
-/

namespace Sys2Proof.Machine

/-! ## The descriptor (R185) -/

/-- A format a scan accepts: a code of R98 from 0 to 2, 4 to 6 or 8 to 10. -/
def scanFmt (code : Nat) : Option Fmt :=
  if code = 3 ∨ code = 7 ∨ 10 < code then none else (fmtOf code).filter (fun f => f.isAny)

/-- The fields of a descriptor: SRC, DST, THRESH, COUNT, CAP, CMP and the code FMT. -/
def scSrc (n : Nat) : W64 := BitVec.ofNat 64 n
def scDst (n : Nat) : W64 := BitVec.ofNat 64 (nbits n 192 64)
def scThresh (n : Nat) : W64 := BitVec.ofNat 64 (nbits n 128 64)
def scCount (n : Nat) : Nat := nbits n 96 32
def scCap (n : Nat) : Nat := nbits n 72 24
def scCmp (n : Nat) : Nat := nbits n 70 2
def scFmt (n : Nat) : Option Fmt := scanFmt (nbits n 64 6)

/-- The cause of a descriptor's issue fault (R186, R187). -/
def scanFault (n : Nat) : Option Nat :=
  match scFmt n with
  | none => some cPROTECTION
  | some f =>
    let e := f.width / 8
    if scCmp n = 3 ∨ (scDst n).toNat % 8 ≠ 0 ∨ (scSrc n).toNat % e ≠ 0 then some cPROTECTION
    else if (0 < scCount n ∧ straddlesRange (scSrc n) (scCount n * e)) ∨ straddlesRange (scDst n) (8 + 8 * scCap n) then some cSTRADDLE
    else none

/-- The clock of the scan units that serve a core's scans, for the stamps of their commands (log 70, DESIGN CHOICE). -/
def scanClk (c : Nat) : Clk := .die (dieOfCore c)

/-- SCANQ: the thread reads the descriptor, and the command goes to the scan units (R185, R186). -/
def execScanq (ra : Reg) (tag : BitVec 6) (s : State) : Out :=
  let a := readX s ra
  once s none a 32 0 tag.toNat (fun s =>
    if tagBusy s tag.toNat then wait s .engine
    else if a.toNat % 32 ≠ 0 then trapC s cMISALIGNED a
    else readAtIssue s a 32 (fun s n =>
      match scanFault n, scFmt n with
      | some c, _ => trapC s c a
      | none, none => trapC s cPROTECTION a
      | none, some f =>
        let (id, s) := withFresh s
        let th := me s
        let s := carry s (.core (myCore s)) (scanClk (myCore s))
        let m : ScanCmd := { id := id, core := myCore s, slot := mySlot s, uid := th.uid, ctx := th.ctx, privid := th.privid.toNat
                             seat := th.seat, pc := s.iss.pc, src := scSrc n, dst := scDst n, count := scCount n, cap := scCap n
                             cmp := scCmp n, fmt := f, thresh := scThresh n, tag := tag.toNat }
        .next (openTag { s with scans := s.scans ++ [m] } tag.toNat)))

/-! ## The scan units (R186) -/

/-- Who a scan translates as: its thread at issue. -/
def scanWho (m : ScanCmd) : Who := { ctx := m.ctx, privid := m.privid, seat := m.seat, core := m.core }

/-- Bytes of an element. -/
def scElem (m : ScanCmd) : Nat := m.fmt.width / 8

/-- The 64 KiB pieces of n bytes from an address, in items of e bytes. -/
def rangePieces (a : W64) (n e : Nat) : List (W64 × W64) :=
  if n = 0 then []
  else
    let k := (bits a 0 16 + n - 1) / 65536
    let base : W64 := a - BitVec.ofNat 64 (bits a 0 16)
    (List.range (k + 1)).map (fun i =>
      (if i = 0 then a else base + BitVec.ofNat 64 (i * 65536),
       if i = k then a + BitVec.ofNat 64 (n - e) else base + BitVec.ofNat 64 ((i + 1) * 65536 - e)))

/-- The value of an element, without its sign when CMP asks for absolute values. -/
def scanVal (m : ScanCmd) (c : Nat) : FVal :=
  let v := fmtValue m.fmt c
  if m.cmp = 2 then v.withSign false else v

/-- An element passes (R186). -/
def scanPass (m : ScanCmd) (x : Nat) : Bool :=
  let v := scanVal m x
  let t := scanVal m (m.thresh.toNat % 2 ^ m.fmt.width)
  !v.isNan && !t.isNan && (if m.cmp = 1 then !v.lt t else t.lt v)

/-- Element i as it is read. -/
def scanElem (s : State) (m : ScanCmd) (ps : List PagePlace) (i : Nat) : Nat :=
  match placesAt ps (m.src + BitVec.ofNat 64 (i * scElem m)) with
  | p :: _ => readPlace s m.id (i + 64) p (scElem m)
  | [] => 0

/-- The word and the records written at DST (R186) (log 27, DESIGN CHOICE). -/
def scanWrite (s : State) (m : ScanCmd) (src dst : List PagePlace) (order : List Nat) : State :=
  let (stamp, s) := stampOf s (scanClk m.core)
  let put := fun (s : State) (off v : Nat) => (placesAt dst (m.dst + BitVec.ofNat 64 off)).foldl
    (fun s p => engineStore s m.core m.slot m.id stamp p 8 v) s
  let recs := (List.zip (List.range m.cap) order).map (fun q => (q.1, q.2 + scanElem s m src q.2 * 2 ^ 32))
  recs.foldl (fun s q => put s (8 + 8 * q.1) q.2) (put s 0 order.length)

/-- An address in each block of 512 bytes, the unit of the channels, that a scan's source lies in (R343). -/
def scanBlocks (m : ScanCmd) : List W64 :=
  let n := m.count * scElem m
  let d := m.src.toNat % 512
  if n = 0 then [] else (List.range ((d + n + 511) / 512)).map (fun i => if i = 0 then m.src else m.src + BitVec.ofNat 64 (512 * i - d))

/-- The scan unit, by its channel, of an address of a scan's source; a page in CXL, in a scratchpad or at a peer has none, and that of a
page that is not translated now, moving say, cannot be told (none). -/
def scanUnitAt (s : State) (m : ScanCmd) (a : W64) : Option (List Nat) :=
  match (place s (scanWho m) { r := true } a (scElem m)).1 with
  | .reaches (.here l) _ =>
    let u := waitUnit s l
    some (if 6000 ≤ u ∧ u < 7000 then [u] else [])
  | .wait _ => none
  | _ => some []

/-- Two scans may use one unit: they share one, or a unit of either cannot be told. -/
def scansMeet (s : State) (p q : ScanCmd) : Bool :=
  let us := (scanBlocks p).map (scanUnitAt s p)
  let vs := (scanBlocks q).map (scanUnitAt s q)
  us.any (fun u => vs.any (fun v => match u, v with
    | some x, some y => x.any y.contains
    | _, _ => true))

/-- An earlier scan uses one of a scan's units, so that it must end first (R225). -/
def scanBehind (s : State) (idx : Nat) (m : ScanCmd) : Bool := (s.scans.take idx).any (fun q => scansMeet s q m)

/-- A scan ends: its tag completes, with the stamp of its units (R29). -/
def endScan (s : State) (m : ScanCmd) (err : Bool) : State :=
  completeTag (carry { s with scans := s.scans.filter (·.id != m.id) } (scanClk m.core) (.core m.core)) m.core m.slot m.uid m.tag err

/-- A scan ends in error, with a message to the supervisor (R183, R186). -/
def failScan (s : State) (m : ScanCmd) (cause : Nat) (e : W64) : State :=
  endScan (supEngine s (clusterOf m.core) m.ctx m.core m.slot cause m.pc e) m true

/-- SCAN_COMPLETE: a scan compares its elements and writes its records, in the order given when that lists each passing element
once, else by rising index (R186). A page that is gone from a scratchpad ends it in error with PEER_GONE (R305). Pages forwarded to a
peer device are read and written as a copy's are (log 74, DESIGN CHOICE). -/
def execScanComplete (idx : Nat) (order : List Nat) (s : State) : Out :=
  match s.scans[idx]? with
  | none => .next s
  | some m =>
    if scanBehind s idx m then .next s
    else
      let w := scanWho m
      match pagesOf (fun s p => pageOf s w { r := true } (scElem m) p) s (rangePieces m.src (m.count * scElem m) (scElem m)) with
      | (.trap c e, s) => .next (failScan s m c e)
      | (.wait, s) => .next s
      | (.unbacked, _) => .fault .unbackedWalk
      | (.ok src _, s1) =>
        match pagesOf (fun s p => pageOf s w { w := true } 8 p) s1 (rangePieces m.dst (8 + 8 * m.cap) 8) with
        | (.trap c e, s) => .next (failScan s m c e)
        | (.wait, s) => .next s
        | (.unbacked, _) => .fault .unbackedWalk
        | (.ok dst _, s2) =>
          let held := (List.range (m.cap + 1)).any (fun j => (placesAt dst (m.dst + BitVec.ofNat 64 (8 * j))).any (heldWrite s2))
          if pagesBlocked s2 (src ++ dst) then .next (reachPages s (src ++ dst))
          else if held then .next s
          else if (src ++ dst).any (fun p => p.places.any (deadPlace s2 m.ctx)) then .next (failScan s2 m cPEERGONE m.dst)
          else
          let s := stampPages (stampPages s2 (scanClk m.core) false src) (scanClk m.core) true dst
          let pass := (List.range m.count).filter (fun i => scanPass m (scanElem s m src i))
          let order := if order.length = pass.length ∧ pass.all (fun i => order.contains i) then order else pass
          .next (endScan (scanWrite s m src dst order) m false)

end Sys2Proof.Machine
end

