-- ==== Sys2Proof/Machine/Name.lean ====
section
/-!
DEFINITION. Tile names: ANNC, WANT, RETRC (R368 to R370), the name agents with their tarns (R358 to R366), NAMEROUTE (R371).
-/

namespace Sys2Proof.Machine

/-! ## Deadlines and routes -/

/-- A deadline has passed at a cluster (R358, R365). -/
def deadlinePassed (s : State) (k deadline : Nat) : Bool :=
  let d := (physOf s (dieOf k) + 2 ^ 48 - deadline % 2 ^ 48) % 2 ^ 48
  decide (0 < d) && decide (d < 2 ^ 47)

/-- The later of two deadlines (R358). -/
def laterDeadline (a b : Nat) : Nat := if (b + 2 ^ 48 - a % 2 ^ 48) % 2 ^ 48 < 2 ^ 47 then b else a

/-- Fields of a route word (R361). -/
def rtPlen (w : W64) : Nat := bits w 45 5
def rtDir (w : W64) : Nat := bits w 42 3
def rtPort (w : W64) : Nat := bits w 38 4
def rtDevice (w : W64) : Nat := bits w 29 9

/-- A route word matches an interest (R361). -/
def rtMatches (w name : W64) (ctx : Nat) : Bool :=
  let d := 2 ^ (24 - rtPlen w)
  bits w 63 1 == 1 && (bits w 62 1 == 1 || bits w 50 12 == ctx) && bits name 40 24 / d == bits w 0 24 / d

/-- A route word as its entry keeps it: the reserved field reads as zero (R6, R361). -/
def rtKept (w : W64) : W64 := w &&& ~~~(0x1F000000 : W64)

/-- A malformed route word for a cluster (R361). -/
def rtBad (k : Nat) (w : W64) : Bool :=
  decide (24 < rtPlen w) || decide (5 < rtDir w) || bits w 0 24 % 2 ^ (24 - rtPlen w) != 0
    || (decide (1 ≤ rtDir w) && decide (rtDir w ≤ 4) && (neighbour k (rtDir w)).isNone)

/-- The matching route word with the largest PLEN, the lowest index on a tie (R362). -/
def rtBest (a : NameAgent) (name : W64) (ctx : Nat) : Option W64 :=
  (a.routes.filter (fun p => rtMatches p.2 name ctx)).foldl (fun b p => match b with
    | none => some p.2
    | some w => if rtPlen w < rtPlen p.2 then some p.2 else b) none

/-! ## The tarn (R364) -/

/-- Granules of a tile. -/
def tileGrans (data : List (BitVec 8)) : Nat := (data.length + 1023) / 1024

/-- Granules that tiles take. -/
def usedGrans (l : List Tile) : Nat := l.foldl (fun n t => n + t.grans.length) 0

/-- The least recently used unpinned tile. -/
def oldestTile (l : List Tile) : Option Tile :=
  (l.filter (fun t => !t.pin)).foldl (fun b t => match b with
    | none => some t
    | some x => if t.age < x.age then some t else b) none

/-- Unpinned tiles evicted until there is room; the fuel bounds the tiles there are. -/
def evictFor (cap need : Nat) : Nat → List Tile → List Tile
  | 0, l => l
  | n + 1, l =>
    if usedGrans l + need ≤ cap then l
    else match oldestTile l with
      | none => l
      | some t => evictFor cap need n (l.filter (fun x => x.name != t.name))

/-- A logical slice bank has a physical bank. -/
def sliceBacked (c : Cluster) (l : Nat) : Bool :=
  (List.range 32).any (fun b => ((sliceBank c b).st == .inService || (sliceBank c b).st == .evacuating) && (sliceBank c b).logical == some l)

/-- The granules of a tarn: 64 to each of its logical banks that a physical bank backs, numbered from bank 31 downward (R364, R430). -/
def tarnGrans (c : Cluster) : List Nat := (List.range (64 * c.tarn)).filter (fun g => sliceBacked c (31 - g / 64))

/-- What storing a tile in the tarn of a cluster takes: the tiles that stay and the granules of the new one; none when it is there already,
or has no room without the pinned tiles (log 40, DESIGN CHOICE). -/
def tarnPlan (s : State) (k : Nat) (name : W64) (data : List (BitVec 8)) : Option (List Tile × List Nat) :=
  let c := cluAt s k
  let a := c.agent
  let cap := (tarnGrans c).length
  let need := tileGrans data
  if a.tiles.any (fun t => t.name == name) || decide (cap < need + usedGrans (a.tiles.filter (·.pin))) then none
  else
    let l := evictFor cap need a.tiles.length a.tiles
    let used := l.flatMap (·.grans)
    some (l, ((tarnGrans c).filter (fun g => !used.contains g)).take need)

/-- A tile stored in the tarn of a cluster, if it has room. -/
def tarnStore (s : State) (k : Nat) (name : W64) (data : List (BitVec 8)) (pin : Bool) : State :=
  match tarnPlan s k name data with
  | none => s
  | some (l, gs) =>
    modAgent s k (fun a => { a with
      tiles := l ++ [{ name := name, data := data, pin := pin, age := a.age + 1, grans := gs }], age := a.age + 1 })

/-- The line that the evacuation of a slice bank copies now is one of the 16 of a granule, which the granules of a bank fill in ascending
order (R347, R364; log 40, DESIGN CHOICE). -/
def granHeld (c : Cluster) (g : Nat) : Bool :=
  (List.range 32).any (fun b => let u := sliceBank c b
    copying u && u.logical == some (31 - g / 64) && u.pointer / 16 == g % 64)

/-- The write of a tile into the tarn waits for a line that is copied now (R347). -/
def tarnHeld (s : State) (k : Nat) (name : W64) (data : List (BitVec 8)) : Bool :=
  match tarnPlan s k name data with
  | none => false
  | some (_, gs) => gs.any (granHeld (cluAt s k))

/-- The tarn of a cluster answers: its clock runs, or its die is gated, whose name agents stay in service (R359, R421). -/
def tarnRuns (s : State) (k : Nat) : Bool :=
  let c := cluAt s k
  s.gated.getLsbD (dieOf k) || (!c.stopped && c.vigil == 0)

/-- A hit counts as a use (R364). -/
def tarnTouch (s : State) (k : Nat) (name : W64) : State :=
  modAgent s k (fun a => { a with age := a.age + 1, tiles := a.tiles.map (fun t => if t.name = name then { t with age := a.age + 1 } else t) })

/-- Tiles in banks from number n on, counted from the highest, are dropped (R371, R430). -/
def tarnKeep (s : State) (k n : Nat) : State :=
  modAgent s k (fun a => { a with tiles := a.tiles.filter (fun t => t.grans.all (fun g => decide (g < 64 * n))) })

/-! ## Delivery (R363) -/

/-- Bytes of a number, least significant first, and back. -/
def bytesOf (n k : Nat) : List (BitVec 8) := (List.range k).map (fun i => BitVec.ofNat 8 (n / 256 ^ i))
def natOf (l : List (BitVec 8)) : Nat := l.foldr (fun b n => b.toNat + 256 * n) 0

/-- A local consumer record served: data is empty when the source could not be read (R363, R305) (log 39, DEDUCED). -/
def serveWant (s : State) (k : Nat) (w : WantRec) (data : List (BitVec 8)) : State :=
  let fin := fun (s : State) (err : Bool) => completeTag (carry s (.clu k) (.core w.core)) w.core w.slot w.uid w.tag err
  if data = [] then fin s true
  else if w.cap < data.length then fin (supEngine s k w.ctx w.core w.slot cPROTECTION w.pc w.name) true
  else if !liveFor s (scratchCore w.loc) w.ctx then fin (supEngine s k w.ctx w.core w.slot cPEERGONE w.pc w.name) true
  else fin (storeAt none (carry s (.clu k) (locClk w.loc)) w.loc data.length (natOf data)) false

/-- A consumer record of an agent that a delivery of a name serves (R363). -/
def served (s : State) (k : Nat) (name : W64) : Consumer → Bool
  | .want w => w.name == name && !deadlinePassed s k w.deadline
  | .remote n _ _ _ => n == name

/-- A delivery waits at an agent: its tarn, or a destination, has a line that is copied now (R347), or the tarn is in VIGIL and the delivery
uses it (R355). -/
def deliveryWaits (s : State) (k : Nat) (name : W64) (data : List (BitVec 8)) (store : Bool) : Bool :=
  (store && data != [] && (tarnHeld s k name data || ((tarnPlan s k name data).isSome && !tarnRuns s k))) ||
    ((cluAt s k).agent.cons.filter (served s k name)).any (fun r => match r with
      | .want w => decide (data.length ≤ w.cap) && (List.range ((data.length + 63) / 64)).any (fun i => lineHeld s (w.loc + 64 * i))
      | .remote _ _ _ _ => false)

/-- A tile, or the news that there is none, at an agent: tarn, neighbours, consumers, and the entry goes (R363). -/
def deliverTile (s : State) (k : Nat) (name : W64) (data : List (BitVec 8)) (pin store : Bool) : State :=
  let a := (cluAt s k).agent
  let s := if store && data != [] then tarnStore s k name data pin else s
  let dirs := match a.ints.find? (fun e => e.name == name) with
    | some e => e.dirs
    | none => []
  let s := (dirs.filterMap (neighbour k)).foldl (fun s j =>
    let s := carry s (.clu k) (.clu j)
    { s with tiles := s.tiles ++ [⟨name, data, pin, j⟩] }) s
  let mine := served s k name
  let s := modAgent s k (fun a => { a with ints := a.ints.filter (fun e => e.name != name), cons := a.cons.filter (fun r => !mine r) })
  let s := (a.cons.filter mine).foldl (fun s r => match r with
    | .want w => serveWant s k w data
    | .remote _ p d dl => if deadlinePassed s k dl then s else linkSend s (.tile p d name data pin)) s
  wakeCluster s k

/-- What an agent has for a name: nothing; a tile of its tarn; the bytes of a binding's source; a source whose page moves or
faults (R362, R363). -/
inductive Source where
  | absent
  | tarn (t : Tile)
  | bound (b : Binding) (data : List (BitVec 8))
  | moving
  | faulty (b : Binding) (cause : Nat) (a : W64)
  | unbacked
  deriving DecidableEq, Repr

/-- Who a delivery translates as: the thread of ANNC (R363). -/
def bindWho (b : Binding) : Who := { ctx := b.ctx, privid := b.privid, seat := b.seat, core := b.core }

/-- The bytes of a binding's source at its pages. -/
def sourceBytes (s : State) (id : Nat) (b : Binding) (ps : List PagePlace) : List (BitVec 8) :=
  (List.range (b.size / 8)).flatMap (fun i => match placesAt ps (b.src + BitVec.ofNat 64 (8 * i)) with
    | p :: _ => bytesOf (readPlace s id (8 * i) p 8) 8
    | [] => bytesOf 0 8)

/-- The source of a name at an agent; a binding's source is read now (R362, R363). -/
def sourceOf (s : State) (k : Nat) (name : W64) : Source × State :=
  let a := (cluAt s k).agent
  match a.binds.find? (fun b => b.name == name && !b.withdrawn) with
  | some b =>
    match pagesOf (fun s p => pageOf s (bindWho b) { r := true } 8 p) s (rangePieces b.src b.size 8) with
    | (.ok ps _, s) =>
      if pagesBlocked s ps then (.moving, reachPages s ps)
      else
      let (id, s) := withFresh (stampPages s (.clu k) false ps)
      (.bound b (sourceBytes s id b ps), s)
    | (.trap c e, s) => (.faulty b c e, s)
    | (.wait, s) => (.moving, s)
    | (.unbacked, s) => (.unbacked, s)
  | none => match a.tiles.find? (fun t => t.name == name) with
    | some t => (.tarn t, s)
    | none => (.absent, s)

/-! ## Interests (R362) -/

/-- Who asks an agent: a local WANT, a neighbour in a direction, a device behind a port; or nobody new, when what waits there
is tried again. -/
inductive Asker where
  | want (w : WantRec)
  | dir (d : Nat)
  | link (port dev : Nat)
  | none
  deriving DecidableEq, Repr

/-- The entry of a name takes one more interest: its deadline becomes the later one (R360, R362) (log 38, DEDUCED). -/
def addInterest (s : State) (k : Nat) (name : W64) (ctx deadline : Nat) (q : Asker) : State :=
  let loc := match q with
    | .want _ => true
    | _ => false
  let dirs := match q with
    | .dir d => [d]
    | _ => []
  modAgent s k (fun a =>
    let cons := match q with
      | .want w => a.cons ++ [.want w]
      | .link p d => a.cons ++ [.remote name p d deadline]
      | _ => a.cons
    let ints := if a.ints.any (fun e => e.name == name) then
        a.ints.map (fun e => if e.name = name then { e with
          deadline := laterDeadline e.deadline deadline, loc := e.loc || loc
          dirs := e.dirs ++ dirs.filter (fun d => !e.dirs.contains d) } else e)
      else a.ints ++ [⟨name, ctx, deadline, dirs, loc, none⟩]
    { a with cons := cons, ints := ints })

/-- An agent has room for an interest (R358, R362). -/
def agentRoom (s : State) (k : Nat) (name : W64) (q : Asker) : Bool :=
  let a := (cluAt s k).agent
  let rc := match q with
    | .want _ | .link _ _ => true
    | _ => false
  (a.ints.any (fun e => e.name == name) || decide (a.ints.length < 512)) && (!rc || decide (a.cons.length < 1024))

/-- A new entry forwards its interest by its route, and keeps the way of the reply when it crosses a link (R362, R366); one for a device that
has failed is not sent. -/
def forwardInterest (s : State) (k : Nat) (name : W64) (ctx deadline : Nat) : State :=
  match rtBest (cluAt s k).agent name ctx with
  | none => s
  | some w =>
    if rtDir w = 5 then
      if routeState s (rtDevice w) = 2 then s
      else
        let s := modAgent s k (fun a => { a with ints := a.ints.map (fun e =>
          if e.name = name then { e with sent := some (rtPort w, rtDevice w) } else e) })
        linkSend s (.interest (rtPort w) (rtDevice w) name ctx deadline)
    else match neighbour k (rtDir w) with
      | some j =>
        let s := carry s (.clu k) (.clu j)
        { s with ints := s.ints ++ [⟨name, ctx, deadline, j, backDir (rtDir w), none⟩] }
      | none => s

/-- An interest handled at an agent (R362). again is what is left while the source's page moves, or the delivery waits. -/
def handleInterest (s : State) (k : Nat) (name : W64) (ctx deadline : Nat) (q : Asker) (again : State → State) : Out :=
  let add := fun (s : State) => if q = .none then s else addInterest s k name ctx deadline q
  let had := (cluAt s k).agent.ints.any (fun e => e.name == name)
  let s0 := if tarnRuns s k then s else startExit s (some k)
  match sourceOf s k name with
  | (.bound b data, t) => if deliveryWaits (add t) k name data true then .next (again s0) else .next (deliverTile (add t) k name data b.pin true)
  | (.tarn x, t) =>
    if !tarnRuns s k || deliveryWaits (add t) k name x.data false then .next (again s0)
    else .next (deliverTile (add (tarnTouch t k name)) k name x.data x.pin false)
  | (.faulty b c e, s) => .next (deliverTile (add (supEngine s k b.ctx b.core b.slot c b.pc e)) k name [] false false)
  | (.moving, t) => .next (again t)
  | (.unbacked, _) => .fault .unbackedWalk
  | (.absent, s) =>
    if q = .none then .next s
    else if !agentRoom s k name q then
      .next (modAgent s k (fun a => { a with drops := if a.drops = BitVec.allOnes 32 then a.drops else a.drops + 1 }))
    else if had then .next (add s)
    else .next (forwardInterest (add s) k name ctx deadline)

/-- What waits at an agent for a name is tried when its source can be read. -/
def tryLater (s : State) (k : Nat) (name : W64) (ctx deadline : Nat) : State :=
  { s with ints := s.ints ++ [⟨name, ctx, deadline, k, 0, none⟩] }

/-! ## ANNC, WANT, RETRC -/

/-- A binding's source translated for reading, from its first page on (R368). -/
def anncPages (s : State) (b : Binding) : Pages × State :=
  pagesOf (fun s p => pageOf s (bindWho b) { r := true } 8 p) s (rangePieces b.src b.size 8)

/-- The agent's answer to a binding (R357, R359, R368). -/
def bindName (s : State) (k : Nat) (rd : Reg) (b : Binding) : Out :=
  let a := (cluAt s k).agent
  if a.binds.any (fun x => x.name == b.name) then trapC s cREBOUND b.name
  else if 256 ≤ a.binds.length then .next (writeX s rd 2)
  else
    let s := writeX (modAgent s k (fun a => { a with binds := a.binds ++ [b] })) rd 0
    match a.ints.find? (fun e => e.name == b.name) with
    | none => .next s
    | some e => handleInterest s k b.name e.ctx e.deadline .none (fun s => tryLater s k b.name e.ctx e.deadline)

/-- ANNC (R368). -/
def execAnnc (rd ra rb : Reg) (ext : BitVec 32) (s : State) : Out :=
  let name := readX s ra
  let src := readX s rb
  let size := ext.toNat % 2 ^ 17
  once s (some rd) name 64 0 (src.toNat * 2 ^ 32 + ext.toNat) (fun s =>
    let c := myCore s
    let k := clusterOf c
    let th := me s
    if size = 0 then
      if (cluAt s k).agent.binds.any (fun b => b.name == name && b.ctx == th.ctx && !b.withdrawn) then
        .next (writeX (withdrawBinding (carry s (.core c) (.clu k)) k name) rd 0)
      else .next (writeX s rd 1)
    else if size % 64 ≠ 0 ∨ 65536 < size then trapC s cPROTECTION (BitVec.ofNat 64 size)
    else if src.toNat % 64 ≠ 0 then trapC s cMISALIGNED src
    else if winOf src = 0xC ∨ winOf src = 0xF then trapC s cPROTECTION src
    else if straddlesRange src size then trapC s cSTRADDLE src
    else
      let b : Binding := { name := name, ctx := th.ctx, src := src, size := size, pin := ext.getLsbD 17, seat := th.seat, core := c
                           slot := mySlot s, pc := s.iss.pc, privid := th.privid.toNat }
      match anncPages s b with
      | (.trap x e, s) => trapC s x e
      | (.wait, s) => wait s .pageMove src
      | (.unbacked, _) => .fault .unbackedWalk
      | (.ok _ _, s) => unitAnswers s (fun s => bindName (carry s (.core c) (.clu k)) k rd b))

/-- The place of a WANT's destination: its location, or the cause of its fault (R369, R70). -/
def wantPlace (s : State) (dst : W64) (cap : Nat) : Xl × State :=
  let w := whoOf s (myCore s) (mySlot s)
  match translate s w { w := true } dst 64 with
  | (.reaches p ks, s) => match translate s w { w := true } (dst + BitVec.ofNat 64 (cap - 64)) 64 with
    | (.reaches _ _, s) => (.reaches p ks, s)
    | r => r
  | r => r

/-- A local WANT that nothing serves in its time: its tag completes in error, and with NPTRAP its thread traps at its next issue (R365). -/
def neverServed (s : State) (w : WantRec) : State :=
  let s := completeTag s w.core w.slot w.uid w.tag true
  if w.trap && isThread s w.core w.slot w.uid then pend s w.core w.slot cNEVER w.name else s

/-- WANT (R369) (log 41, DEDUCED). One of LIFE 0 that neither a binding nor the tarn of its cluster serves expires at once (R365). -/
def execWant (ra rb : Reg) (tag : BitVec 6) (ext : BitVec 32) (s : State) : Out :=
  let name := readX s ra
  let dst := readX s rb
  let cap := if ext.toNat / 2 ^ 17 % 64 = 0 then 65536 else ext.toNat / 2 ^ 17 % 64 * 1024
  once s none name 64 tag.toNat (dst.toNat * 2 ^ 32 + ext.toNat) (fun s =>
    let c := myCore s
    let k := clusterOf c
    let th := me s
    let a := (cluAt s k).agent
    let hit := a.binds.any (fun b => b.name == name && !b.withdrawn) || a.tiles.any (fun t => t.name == name)
    let w : WantRec := { name := name, core := c, slot := mySlot s, uid := th.uid, ctx := th.ctx, pc := s.iss.pc, loc := 0, cap := cap
                         tag := tag.toNat, trap := ext.getLsbD 16, deadline := 0 }
    let life := ext.toNat % 2 ^ 16
    if tagBusy s tag.toNat || (!hit && decide (0 < life) && !agentRoom s k name (.want w)) then wait s .engine
    else if dst.toNat % 64 ≠ 0 then trapC s cMISALIGNED dst
    else if winOf dst ≠ 0xD ∧ winOf dst ≠ 0xE then trapC s cPROTECTION dst
    else if straddlesRange dst cap then trapC s cSTRADDLE dst
    else match wantPlace s dst cap with
      | (.trap x, s) => trapC s x dst
      | (.wait _, s) => wait s .pageMove dst
      | (.unbacked, _) => .fault .unbackedWalk
      | (.reaches (.peer _ _) _, s) => trapC s cPROTECTION dst
      | (.reaches (.here l) _, s) =>
        let (m, s) := stampCore (openTag s tag.toNat) c
        let dl := (bits m 16 48 + life * 1000) % 2 ^ 48
        let w := { w with loc := l, deadline := dl }
        let s := receiveAt s (.clu k) m
        if !hit ∧ life = 0 then .next (neverServed s w)
        else handleInterest s k name th.ctx dl (.want w) (fun s => tryLater (addInterest s k name th.ctx dl (.want w)) k name th.ctx dl))

/-- RETRC: the thread parks ENGINE until its agent answers (R370). -/
def execRetrc (rd : Reg) (tag : BitVec 6) (s : State) : Out :=
  once s (some rd) 0 8 tag.toNat 0 (fun s =>
    let k := clusterOf (myCore s)
    let th := me s
    let mine := fun (r : Consumer) => match r with
      | .want w => w.uid == th.uid && w.tag == tag.toNat
      | .remote _ _ _ _ => false
    unitAnswers s (fun s =>
      let s := carry (carry s (.core (myCore s)) (.clu k)) (.clu k) (.core (myCore s))
      if (cluAt s k).agent.cons.any mine then
        let s := modAgent s k (fun a => { a with cons := a.cons.filter (fun r => !mine r) })
        .next (wakeCluster (completeTag (writeX s rd 0) (myCore s) (mySlot s) th.uid tag.toNat true) k)
      else .next (writeX s rd (if (me s).tags.getLsbD tag.toNat then 1 else 2))))

/-! ## Events -/

/-- INTEREST_ARRIVAL: an interest reaches an agent (R362). -/
def execInterestArrival (idx : Nat) (s : State) : Out :=
  match s.ints[idx]? with
  | none => .next s
  | some m =>
    let q : Asker := match m.link with
      | some (p, d) => .link p d
      | none => if m.dir = 0 then .none else .dir m.dir
    handleInterest { s with ints := s.ints.eraseIdx idx } m.tgt m.name m.ctx m.deadline q (fun t => { t with ints := s.ints })

/-- TILE_DELIVERY: a tile reaches an agent; without an entry for it, it is discarded (R363). It waits for a line that is copied, and for a
tarn in VIGIL (R347, R355). -/
def execTileDelivery (idx : Nat) (s : State) : Out :=
  match s.tiles[idx]? with
  | none => .next s
  | some m =>
    let t := { s with tiles := s.tiles.eraseIdx idx }
    .next (if !(cluAt s m.tgt).agent.ints.any (fun e => e.name == m.name) then t
      else if deliveryWaits s m.tgt m.name m.data true then (if tarnRuns s m.tgt then s else startExit s (some m.tgt))
      else deliverTile t m.tgt m.name m.data m.pin true)

/-- INTEREST_EXPIRY: an entry's deadline has passed; it goes, and remote records with it (R360). -/
def execInterestExpiry (cluster idx : Nat) (s : State) : Out :=
  match (cluAt s cluster).agent.ints[idx]? with
  | none => .next s
  | some e =>
    if deadlinePassed s cluster e.deadline then
      .next (wakeCluster (modAgent s cluster (fun a => { a with
        ints := a.ints.eraseIdx idx
        cons := a.cons.filter (fun r => match r with
          | .want _ => true
          | .remote n _ _ _ => n != e.name) })) cluster)
    else .next s

/-- NEVER_PRODUCED: a local record's deadline has passed; its tag completes in error, and with NPTRAP its thread traps at its next
issue (R365). -/
def execNeverProduced (cluster idx : Nat) (s : State) : Out :=
  match (cluAt s cluster).agent.cons[idx]? with
  | some (.want w) =>
    if deadlinePassed s cluster w.deadline then
      let s := modAgent s cluster (fun a => { a with cons := a.cons.eraseIdx idx })
      .next (wakeCluster (neverServed (carry s (.clu cluster) (.core w.core)) w) cluster)
    else .next s
  | _ => .next s

/-- PURGE_ACK: a tarn drops a withdrawn name and acknowledges; after the last, the name is UNBOUND (R359). A cluster in VIGIL, or whose
clock stands, answers once its clock runs again. -/
def execPurgeAck (idx : Nat) (s : State) : Out :=
  match s.purges[idx]? with
  | none => .next s
  | some p =>
    if !tarnRuns s p.tgt then .next (startExit s (some p.tgt))
    else
      let s := carry (carry { s with purges := s.purges.eraseIdx idx } (.clu p.home) (.clu p.tgt)) (.clu p.tgt) (.clu p.home)
      let s := modAgent s p.tgt (fun a => { a with tiles := a.tiles.filter (fun t => t.name != p.name) })
      .next (modAgent s p.home (fun a => { a with
        binds := (a.binds.map (fun b => if b.name = p.name ∧ b.withdrawn then { b with acks := b.acks + 1 } else b)).filter
          (fun b => !(b.withdrawn && decide (160 ≤ b.acks))) }))

/-! ## NAMEROUTE (R371) -/

/-- The operand word of NAMEROUTE is malformed. -/
def nameRouteBad (a : W64) : Bool :=
  let op := bits a 16 2
  let k := bits a 8 8
  bits a 18 46 != 0 || (decide (160 ≤ k) && k != 0xFF) || (k == 0xFF && (op == 1 || op == 3))
    || (decide (2 ≤ op) && bits a 0 8 != 0)

/-- The clusters that the operand word names. -/
def nameRouteSet (a : W64) : List Nat := if bits a 8 8 = 0xFF then List.range 160 else [bits a 8 8]

/-- The in-service physical slice bank that backs the highest logical bank below n (R346, R430). -/
def topSlice (c : Cluster) (n : Nat) : Option Nat :=
  ((List.range n).reverse).findSome? (fun l => firstBelow 32 (fun b => (sliceBank c b).st == .inService && (sliceBank c b).logical == some l))

/-- The tarn of a cluster takes n banks: the highest n logical banks, whose map entries stay as they are (R341, R371, R430). -/
def setTarn (s : State) (n k : Nat) : State := modClu (tarnKeep s k n) k (fun c => { c with tarn := n })

/-- NAMEROUTE: its result and the state after (R371) (log 42, DEDUCED). Under OP 1 and 3 the value of rb is ignored, and under OP 2 all of it
but its bits 4:0 (log 94, DESIGN CHOICE). -/
def nameRoute (s : State) (a b : W64) : W64 × State :=
  let ks := nameRouteSet a
  let i := bits a 0 8
  if nameRouteBad a then (0xFFFFFFFFFFFFFFFF, s)
  else match bits a 16 2 with
    | 0 =>
      if ks.any (fun k => rtBad k b) then (2, s)
      else (0, ks.foldl (fun s k => modAgent s k (fun g => { g with routes := tset 0 g.routes i (rtKept b) })) s)
    | 1 => (tget 0 (cluAt s (bits a 8 8)).agent.routes i, s)
    | 2 =>
      let n := bits b 0 5
      if 16 < n ∨ ks.any (fun k => decide (capslice (cluAt s k) < n)) then (2, s) else (0, ks.foldl (fun s k => setTarn s n k) s)
    | _ => (((cluAt s (bits a 8 8)).agent.drops).setWidth 64, s)

/-- NAMEROUTE for a privileged thread. -/
def nameRouteOp (rd ra rb : Reg) (s : State) : Out :=
  let a := readX s ra
  let b := readX s rb
  privOnly s (fun s => once s (some rd) a 8 0 b.toNat (fun s =>
    unitAnswers s (fun s =>
      let (v, s) := nameRoute s a b
      .next (writeX s rd v))))

/-- NAMEROUTE, write route (R371). -/
def execNamerouteWriteRoute (rd ra rb : Reg) (s : State) : Out := nameRouteOp rd ra rb s

/-- NAMEROUTE, read route (R371). -/
def execNamerouteReadRoute (rd ra rb : Reg) (s : State) : Out := nameRouteOp rd ra rb s

/-- NAMEROUTE, set tarn size (R371). -/
def execNamerouteSetTarn (rd ra rb : Reg) (s : State) : Out := nameRouteOp rd ra rb s

/-- NAMEROUTE, read drop counter (R371). -/
def execNamerouteReadDrops (rd ra rb : Reg) (s : State) : Out := nameRouteOp rd ra rb s

end Sys2Proof.Machine
end

