-- ==== Sys2Proof/Machine/Kernel.lean ====
section
/-!
DEFINITION. Kernels and threads: SPAWN, QUIT, FORK, JOIN, MIGR, ANCHOR (R284 to R294), AMSEND (R295, R296), starts and their arrival
(R281 to R283), OVERCAP, shrinking, relaunch and completion (R131, R244, R280, R297).
-/

namespace Sys2Proof.Machine

/-! ## Shared checks -/

/-- The target of a long form: PC + 8 × SExt(ext, 32) (R284). -/
def labelTarget (s : State) (e : BitVec 32) : W64 := s.iss.pc + 8 * e.signExtend 64

/-- An instruction that traps ILLEGAL in a gang, in a twin, and while the odd slot is SPLIT from the thread (R284). -/
def soloOnly (s : State) (k : State → Out) : Out :=
  let t := mySlot s
  if isGang (me s) || isTwin (me s) || (t % 2 == 0 && isUpper (thrAt s (myCore s) (t + 1))) then trapC s cILLEGAL 0 else k s

/-- The thread waits until its marks are clear and its plain access has completed (R286, R290, R292). -/
def settled (s : State) (k : State → Out) : Out :=
  if !noMarks (me s) then hold s .marks
  else if (me s).accs.any (fun a => a.order != .loose) then hold s .access
  else k s

/-- The bundle's thread is no longer there. -/
def ended (s : State) : State := { s with iss := { s.iss with phase := .ended } }

/-- A thread waits for the answer to a start of its own that is on its way. -/
def startPending (s : State) : Bool :=
  s.starts.any (fun q => q.back == some (myCore s, mySlot s, (me s).uid) && q.kind != 4)

/-- Scalars x0 to xn-1 of the thread as the bundle found them. -/
def firstRegs (s : State) (n : Nat) : List W64 := (List.range n).map (fun i => tget 0 (was s).x i)

/-! ## SPAWN (R285) -/

/-- SPAWN. -/
def execSpawn (rd ra rb : Reg) (ext : Ext) (s : State) : Out :=
  let w := readX s ra
  let p := match ext with
    | some e => labelTarget s e
    | none => readX s rb
  once s (some rd) p 8 0 w.toNat (fun s =>
    match (me s).reply with
    | some v => .next (takeReply s (some rd) v)
    | none =>
      if startPending s then hold s .engine 0 3
      else if p.toNat % 8 ≠ 0 then trapC s cMISALIGNED p
      else
        let c := bits w 0 13
        let th := me s
        if bits w 13 51 ≠ 0 ∨ !openFor s c th.ctx then .next (writeX s rd 2)
        else
          let (m, s) := stampCore s (myCore s)
          let st : Start := { kind := 1, ctx := th.ctx, core := c, src := myCore s, pc := p, x := firstRegs s 4, stamp := m
                              back := some (myCore s, mySlot s, th.uid) }
          hold { s with starts := s.starts ++ [st] } .engine 0 3)

/-! ## QUIT (R286) -/

/-- The thread ends, its waits over: the loose buffer drains first (R286). -/
def quit (s : State) (keepId : Bool) : Out :=
  drained s (fun s => .next (ended (endThread s (myCore s) (mySlot s) keepId)))

/-- QUIT. -/
def execQuit (s : State) : Out := once s none 0 0 0 0 (fun s => settled s (fun s => quit s false))

/-! ## FORK (R287 to R289) -/

/-- A rising list from the first member above a number, wrapping. -/
def wrapFrom (l : List Nat) (n : Nat) : List Nat := l.filter (fun x => decide (n < x)) ++ l.filter (fun x => decide (x < n))

/-- The cores of a recruitment tree in its order (R289). -/
def treeOrder (sc : Scope) (c : Nat) : List Nat :=
  let k := clusterOf c
  let d := dieOf k
  let own := c :: (List.range 31).map (fun i => k * 32 + (c % 32 + 1 + i) % 32)
  let die := (wrapFrom (clustersOfDie d) k).flatMap coresOfCluster
  let dev := ((List.range 3).map (fun i => (d + 1 + i) % 4)).flatMap (fun e => (clustersOfDie e).flatMap coresOfCluster)
  match sc with
  | .core | .cluster => own
  | .die => own ++ die
  | .device | .system => own ++ die ++ dev

/-- A slot of a core is reserved by a start in flight (R289). -/
def anyReserved (s : State) (c : Nat) : Bool := (s.starts ++ s.packets).any (fun q => q.core == c && q.slot.isSome)

/-- The idle cores of a tree with the slot of each; the parent's own counts with the parent's slot (R289). -/
def idleCores (s : State) (sc : Scope) : List (Nat × Nat) :=
  let c := myCore s
  (treeOrder sc c).filterMap (fun d =>
    let t := if anyReserved s d then none else idleSlot s (me s).ctx d
    if d = c then some (d, t.getD (mySlot s)) else t.map (fun t => (d, t)))

/-- The 64 bytes of a join cell (R287). -/
def joinCell (s : State) (target : W64) (r : Nat) : Nat :=
  let x := fun i => (tget 0 (was s).x i).toNat
  r + r * 2 ^ 64 + (me s).privid.toNat * 2 ^ 128 + target.toNat * 2 ^ 192 + x 3 * 2 ^ 256 + x 4 * 2 ^ 320 + x 5 * 2 ^ 384 + x 6 * 2 ^ 448

/-- A plain write of bytes by the thread, complete at once, with its stamp and identity (R160, R171, R228). -/
def writeNow (s : State) (p : Place) (n v : Nat) : State :=
  let c := myCore s
  let t := mySlot s
  let (id, s) := withFresh s
  let (m, s) := stampCore s c
  let s := drainOverlap (forceOverlap s c t .store n [⟨0, p, 0⟩]) c p n
  match p with
  | .here l => holdIdentity (storeAt (some c) (receiveAt s (locClk l) m) l n v) s.number c t m 0 (dieOfLoc l)
  | .peer d a => linkSend s (.access d c t id a .store .plain n v m)

/-- FORK recruits: the cell is written, the starts are on their way to the idle cores, with the slots they have reserved (R288, R289). -/
def recruit (s : State) (p : Place) (sc : Scope) (a target : W64) (n g : Nat) : State :=
  let l := idleCores s sc
  let r := min ((n + g - 1) / g) l.length
  let s := writeNow s p 64 (joinCell s target r)
  let (m, s) := stampCore s (myCore s)
  let mk := fun (j : Nat) (q : Nat × Nat) =>
    ({ kind := 2, ctx := (me s).ctx, core := q.1, src := myCore s, pc := s.iss.pc + 8, stamp := m, slot := some q.2
       x := [BitVec.ofNat 64 (j * n / r), BitVec.ofNat 64 ((j + 1) * n / r), a] ++ (firstRegs s 6).drop 3
       back := some (myCore s, mySlot s, (me s).uid) } : Start)
  modMe { s with starts := s.starts ++ (List.zip (List.range r) l).map (fun q => mk q.1 q.2) } (fun th => { th with forked := true })

/-- FORK (log 73, DEDUCED). A parent that has recruited waits as QUIT does; the recruits begin when it has ended. With a count of 0 its
writes of x0 to x2 stand over those of the A-word beside it, and no trap is taken (R81, R102; log 86, DESIGN CHOICE). -/
def execFork (ra rb : Reg) (sc : Scope) (ext : BitVec 32) (s : State) : Out :=
  let a := readX s ra
  let n := bits (readX s rb) 0 32
  let g := max 1 (bits (readX s rb) 32 32)
  let target := labelTarget s ext
  let stop := fun (s : State) => settled s (fun s => quit s true)
  if (me s).forked then stop s
  else soloOnly s (fun s =>
    if a.toNat % 64 ≠ 0 then trapC s cMISALIGNED a
    else match translateFar s (whoOf s (myCore s) (mySlot s)) { w := true } a 64 with
      | (.trap c, s) => trapC s c a
      | (.wait _, s) => wait s .pageMove a
      | (.unbacked, _) => .fault .unbackedWalk
      | (.reaches p _, s) =>
        if n = 0 then .next (modMe s (fun th => { th with pc := target, x := tput (tput (tput th.x 0 0) 1 0) 2 a }))
        else if placeBlocked s true p 64 then wait s .access
        else stop (recruit s p sc a target n g))

/-! ## JOIN (R290) -/

/-- The thread of a continuation: what R281 gives a started thread, with the identity and registers of the cell (R290). The low three bits
of a CONTPC that software wrote are dropped, since the PC is a multiple of 8 (R78; log 85, DESIGN CHOICE). The bundle of the JOIN counts as
its slot's issue (R16). -/
def continueThread (s : State) (a : W64) (cell : Nat) : State :=
  let c := myCore s
  let t := mySlot s
  let s := releaseRow (leaseRelease s c t) c t
  let s := dropId s (me s).ctx (me s).privid.toNat
  let (uid, s) := withFresh s
  let th := me s
  let f := fun lo => BitVec.ofNat 64 (nbits cell lo 64)
  let new : Thread :=
    { slot := .ready, uid := uid, ctx := th.ctx, pc := f 192 &&& ~~~(7 : W64)
      x := regsOf [BitVec.ofNat 64 (nbits cell 64 32), 0, a, f 256, f 320, f 384, f 448]
      privid := BitVec.ofNat 20 (nbits cell 128 20), seat := mkSeat s.number c, hbase := (ctxAt s th.ctx).hbase, last := some (coreAt s c).time }
  let s := setThr s c t new
  { s with iss := { s.iss with flags := 0 } }

/-- The count of a join cell lowered at its owner, by the thread: an atomic with its stamp, whose target answers (R29, R290). -/
def lowerPending (s : State) (l p : Nat) : State :=
  let c := myCore s
  let (m, s) := stampCore s c
  carry (storeAt (some c) (receiveAt s (locClk l) m) l 4 (p - 1)) (locClk l) (.core c)

/-- JOIN. It waits for marks and the plain access as QUIT does, and drains when it ends its thread, before the count falls, so that the
continuation follows what each finisher did (R222, R227; log 45, DEDUCED). -/
def execJoin (ra : Reg) (s : State) : Out :=
  let a := readX s ra
  let c := myCore s
  let t := mySlot s
  soloOnly s (fun s =>
    if a.toNat % 64 ≠ 0 then trapC s cMISALIGNED a
    else match translate s (whoOf s c t) { r := true, w := true } a 64 with
      | (.trap x, s) => trapC s x a
      | (.wait _, s) => wait s .pageMove a
      | (.unbacked, _) => .fault .unbackedWalk
      | (.reaches (.peer _ _) _, s) => trapC s cLINKATOMIC a
      | (.reaches (.here l) _, s) =>
        if placeBlocked s true (.here l) 64 then wait s .access
        else
          let s := drainOverlap (forceOverlap s c t .store 64 [⟨0, .here l, 0⟩]) c (.here l) 64
          let p := loadAt s l 4
          if p = 0 then trapC s cPROTECTION a
          else settled s (fun s =>
            if 1 < p then drained s (fun s => .next (ended (endThread (lowerPending s l p) c t false)))
            else .next (continueThread (lowerPending s l p) a (loadAt (lowerPending s l p) l 64))))

/-! ## MIGR and ANCHOR (R291 to R294) -/

/-- The owner core of an address, by its window and its place (R291). -/
def ownerCore (s : State) (a : W64) (loc : Nat) : Nat :=
  let c := myCore s
  match winOf a with
  | 0xD => clusterOf c * 32 + bits a 20 5
  | 0xE => bits a 31 13
  | 0xF => c
  | _ => 32 * homeCluster loc + nbits loc 9 5

/-- The status word of a migrating thread (R293). -/
def migrStatus (th : Thread) : W64 :=
  BitVec.ofNat 64 (th.privid.toNat * 2 ^ 44 + (if th.mode.getLsbD 3 then 2 ^ 43 else 0) + th.fflags.toNat * 2 ^ 38 + th.fen.toNat * 2 ^ 33
    + th.rm.toNat * 2 ^ 31 + th.pdeg.toNat * 2 ^ 25)

/-- The predicate word (R93). -/
def predWord (th : Thread) : W64 :=
  BitVec.ofNat 64 (0xFFFF + th.m1.toNat * 2 ^ 16 + th.m2.toNat * 2 ^ 32 + th.m3.toNat * 2 ^ 48)

/-- A thread departs with what its bundle has done: its packet carries it, and its slot is free (R292). -/
def depart (s : State) (st : Start) : State :=
  let c := myCore s
  let t := mySlot s
  let th := { me s with fflags := (me s).fflags ||| s.iss.flags }
  let q := { st with
    x := (List.range 10).map (fun i => tget 0 th.x i), pred := predWord th, status := migrStatus th, tags := th.tags
    anchor := if th.mode.getLsbD 3 then some th.seat else none, row := th.row, back := none }
  refill (setThr { s with packets := s.packets ++ [q], starts := s.starts.erase st } c t {}) c

/-- The reservation of the thread of the bundle that has been accepted (R292). -/
def acceptedMigr (s : State) : Option Start :=
  s.starts.find? (fun q => q.kind == 3 && q.back == some (myCore s, mySlot s, (me s).uid) && (q.slot.isSome || q.queued))

/-- MIGR (log 47, DEDUCED). One whose destination has gone by the time its reservation comes traps PEER_GONE, and the lease and the ports that
it has given up by then stay given up (R82, R292, R302; log 88, DESIGN CHOICE). -/
def execMigr (ra : Reg) (s : State) : Out :=
  let a := readX s ra
  let c := myCore s
  let t := mySlot s
  if 0 < (me s).tl then trapC s cILLEGAL 0
  else soloOnly s (fun s => match acceptedMigr s with
    | some st => .next (ended (depart s st))
    | none =>
    if startPending s then hold s .engine 0 3
    else match translate s (whoOf s c t) { r := true } a 1 with
      | (.trap x, s) => trapC s x a
      | (.wait _, s) => wait s .pageMove a
      | (.unbacked, _) => .fault .unbackedWalk
      | (.reaches (.peer _ _) _, s) => trapC s cVPINVALID a
      | (.reaches (.here l) _, s) => settled s (fun s =>
        if (me s).busyTags ≠ 0 then hold s .engine 0 0
        else drained s (fun s =>
          let d := ownerCore s a l
          let s := unbindExcl (leaseRelease s c t) c t
          if d = c then .next s
          else
            let (m, s) := stampCore s c
            let th := me s
            let st : Start := { kind := 3, ctx := th.ctx, core := d, src := c, pc := s.iss.pc + 8, stamp := m, uid := th.uid
                                back := some (c, t, th.uid), arg := a }
            hold { s with starts := s.starts ++ [st] } .engine 0 3)))

/-- ANCHOR (R294). -/
def execAnchor (ra : Reg) (s : State) : Out :=
  let b := (readX s ra).getLsbD 0
  let f := fun (th : Thread) => { th with mode := if b then th.mode ||| 8 else th.mode &&& 7 }
  once s none 0 0 0 (if b then 1 else 0) (fun s =>
    let s := if isTwin (me s) then modThr s (myCore s) (mySlot s + 1) f else s
    .next (modMe s f))

/-! ## AMSEND (R295, R296) -/

/-- AMSEND. -/
def execAmsend (ra rb : Reg) (tag : BitVec 6) (ext : Ext) (s : State) : Out :=
  let w := readX s ra
  let p := match ext with
    | some e => labelTarget s e
    | none => readX s rb
  once s none p 8 tag.toNat w.toNat (fun s =>
    let th := me s
    let c := myCore s
    let n := tag.toNat
    if tagBusy s n then wait s .engine
    else if p.toNat % 8 ≠ 0 then trapC s cMISALIGNED p
    else
      let s := openTag s n
      let dst := bits w 0 13
      let dev := bits w 48 9
      let x := firstRegs s 4
      let fail := fun (s : State) => completeTag s c (mySlot s) th.uid n true
      if bits w 13 35 ≠ 0 ∨ bits w 57 7 ≠ 0 ∨ 5120 ≤ dst then .next (fail s)
      else
        let (m, s) := stampCore s c
        if dev = s.number then
          let st : Start := { kind := 4, ctx := th.ctx, core := dst, src := c, pc := p, x := x, stamp := m, tag := n
                              back := some (c, mySlot s, th.uid) }
          .next { s with starts := s.starts ++ [st] }
        else if routeState s dev = 0 ∨ routeState s dev = 2 then .next (fail s)
        else
          let q : AmMsg := ⟨c, mySlot s, th.uid, n, th.ctx, dev, dst, p, x, nsOf s c, m⟩
          .next (linkSend { s with ams := s.ams ++ [q] } (.start dev q)))

/-! ## Arrival of starts (R282, R285, R288, R292, R296) -/

/-- The answer of the core that a start was sent to reaches the core of its sender with a stamp (R29). -/
def answerStamp (s : State) (st : Start) : State :=
  match st.back with
  | some (c, _, _) => carry s (.core st.core) (.core c)
  | none => s

/-- The thread that waits for the answer to a start receives it. -/
def answerBack (s : State) (st : Start) (v : W64) : State :=
  match st.back with
  | some (c, t, u) => if isThread s c t u then answer (answerStamp s st) c t v else s
  | none => s

/-- The tag of an active message completes. -/
def endAm (s : State) (st : Start) (err : Bool) : State :=
  match st.back with
  | some (c, t, u) => completeTag (answerStamp s st) c t u st.tag err
  | none => s

/-- The cycle count of the core that waits for the answer to a start. -/
def senderTime (s : State) (st : Start) : Nat := (coreAt s st.src).time

/-- A start refused for a full run queue stays with its sender (R285, R292). -/
def refuseStart (s : State) (st : Start) : State := { s with starts := s.starts ++ [{ st with refused := some (senderTime s st) }] }

/-- A reservation is accepted: the thread's bundle reissues and departs (R292). -/
def grantMigr (s : State) (st : Start) (c t : Nat) : State := answer { s with starts := s.starts ++ [st] } c t 0

/-- The reservation of a migrating thread reaches its destination, with its stamp, and the answer its source (R29, R292, R302). -/
def reserveMigr (s : State) (st : Start) : State :=
  match st.back with
  | none => s
  | some (c, t, u) =>
    if !isThread s c t u then s
    else
    let s := answerStamp (receiveCore s st.core st.stamp) st
    if !openFor s st.core st.ctx then trapOutside s c t cPEERGONE st.arg
    else match idleSlot s st.ctx st.core with
      | some n => grantMigr s { st with slot := some n } c t
      | none => if runqRoom s st.core then grantMigr s { st with queued := true } c t else refuseStart s st

/-- An active message reaches a core of this device, with its stamp: accepted, in error, or refused, to be sent again (R29, R296). -/
def arriveAm (s : State) (st : Start) : State :=
  let s := receiveCore s st.core st.stamp
  if !openFor s st.core st.ctx then endAm s st true
  else match acceptStart s st with
    | some (_, s) => endAm s st false
    | none => match st.back with
      | some (c, t, u) => { s with ams := s.ams ++ [⟨c, t, u, st.tag, st.ctx, s.number, st.core, st.pc, st.x, nsOf s c, st.stamp⟩] }
      | none => s

/-- The parent of a recruit has still to end (R288). -/
def parentThere (s : State) (st : Start) : Bool :=
  match st.back with
  | some (c, t, u) => isThread s c t u
  | none => false

/-- A start of a lower-numbered source core that arrives at its core in the cycle of one of a higher-numbered core: it would have entered
first (R282). -/
def outOfTurn (s : State) (st : Start) : Bool :=
  match (coreAt s st.core).entered with
  | some (n, src) => n == (coreAt s st.core).time && decide (st.src < src)
  | none => false

/-- The cycle and the source core of an arrival are noted. -/
def noteEntry (s : State) (st : Start) : State := modCore s st.core (fun k => { k with entered := some (k.time, st.src) })

/-- START_MESSAGE: a start on its way reaches its core (R282). A FORK recruit with a reserved slot begins at a core that was closed to starts
after the reservation, by OVERCAP or a shrink, and takes no OVERCAP there (R297; log 92, DESIGN CHOICE). -/
def execStartMessage (idx : Nat) (s : State) : Out :=
  match s.starts[idx]? with
  | none => .next s
  | some st =>
    if st.refused.isSome || (st.kind == 3 && (st.slot.isSome || st.queued)) || (st.kind == 2 && parentThere s st)
        || (st.kind != 2 && outOfTurn s st) then .next s
    else
      let s := { s with starts := s.starts.eraseIdx idx }
      match st.kind with
      | 2 => match st.slot with
        | some t => .next (if liveFor s st.core st.ctx && (thrAt s st.core t).slot == .free then
            receiveCore (beginThread s st.core t st) st.core st.stamp else s)
        | none => .next s
      | 3 => .next (reserveMigr (noteEntry s st) st)
      | 4 => .next (arriveAm (noteEntry s st) st)
      | _ =>
        let s := receiveCore (noteEntry s st) st.core st.stamp
        if !openFor s st.core st.ctx then .next (answerBack s st 2)
        else match acceptStart s st with
          | some (v, s) => .next (answerBack s st (BitVec.ofNat 64 v))
          | none => .next (refuseStart (answerStamp s st) st)

/-- START_RESEND: a refused start of a parked thread is sent again after 64 cycles (R285, R292). -/
def execStartResend (core slot : Nat) (s : State) : Out :=
  let due := fun (st : Start) => st.back == some (core, slot, (thrAt s core slot).uid) && (match st.refused with
    | some n => decide (n + 64 ≤ (coreAt s core).time)
    | none => false)
  .next { s with starts := s.starts.map (fun st => if due st then { st with refused := none } else st) }

/-- SLOT_LOADED: the registers of a started thread are written (R241). -/
def execSlotLoaded (core slot : Nat) (s : State) : Out :=
  .next (modThr s core slot (fun th => if th.slot = .loading then { th with slot := .ready } else th))

/-- MIGR_ARRIVAL: a migrating thread reaches its core (R292), after those of lower-numbered cores in its cycle (R282); one bound for the run
queue of a core that accepts no start any more is discarded with that queue's entries (R297; log 47, DEDUCED), one with a reserved slot
begins there (log 92, DESIGN CHOICE). -/
def execMigrArrival (idx : Nat) (s : State) : Out :=
  match s.packets[idx]? with
  | none => .next s
  | some st =>
    if outOfTurn s st then .next s
    else
    let s := noteEntry (receiveCore { s with packets := s.packets.eraseIdx idx } st.core st.stamp) st
    if !liveFor s st.core st.ctx || (st.slot.isNone && !openFor s st.core st.ctx) then .next (dropId s st.ctx (bits st.status 44 20))
    else match st.slot with
      | some t => .next (beginThread s st.core t st)
      | none => .next (refill (modCore s st.core (fun k => { k with runq := k.runq ++ [st] })) st.core)

/-- AMSEND_RETRY: after 50 µs the transport sends a message again: to a core of this device, or to a peer, which answers as it
will (R296; log 14, DESIGN CHOICE). -/
def execAmsendRetry (idx : Nat) (s : State) : Out :=
  match s.ams[idx]? with
  | none => .next s
  | some q =>
    let s0 := { s with ams := s.ams.eraseIdx idx }
    if q.dev = s.number then
      let st : Start := { kind := 4, ctx := q.ctx, core := q.dst, src := q.core, pc := q.pc, x := q.x, tag := q.tag, stamp := q.stamp
                          back := some (q.core, q.slot, q.uid) }
      if q.since + 50000 ≤ nsOf s q.core ∧ !outOfTurn s st then .next (arriveAm (noteEntry s0 st) st) else .next s
    else if routeState s q.dev = 2 then .next (completeTag s0 q.core q.slot q.uid q.tag true)
    else
      let (id, s) := withFresh s
      let s0 := peerUp { s with ams := s.ams.eraseIdx idx } q.dev
      match Config.peerData id 0 with
      | 0 => .next (completeTag s0 q.core q.slot q.uid q.tag false)
      | 1 => .next (completeTag s0 q.core q.slot q.uid q.tag true)
      | _ =>
        let q := { q with since := nsOf s q.core }
        .next (if s.ams[idx]?.any (fun p => decide (p.since + 50000 ≤ nsOf s q.core)) then
          linkSend { s with ams := s.ams.set idx q } (.start q.dev q) else s)

/-! ## OVERCAP (R131, R244, R297) -/

/-- A thread parked for a reason whose bundle reissues has its wait withdrawn (R242, R244). -/
def withdrawPark (s : State) (c t : Nat) : State :=
  let th := thrAt s c t
  let s := match th.accs.find? (fun a => isFeRequest a && a.order != .loose) with
    | some a => modThr (withdrawOne s c t a.id) c t (fun th => dropAcc th a.id)
    | none => s
  let s := leavePorts (cancelResv s c t) c t
  let s := if parkedFor th .lease then leaseRelease s c t else s
  let mine := some (c, t, th.uid)
  let s := { s with
    starts := s.starts.filter (fun q => !(q.back == mine && (q.kind == 1 || q.kind == 3)))
    shoots := s.shoots.filter (fun q => some (q.core, q.slot, q.uid) != mine)
    swaps := s.swaps.map (fun q => if q.issuer = mine then { q with issuer := none } else q)
    ctxs := s.ctxs.map (fun q => (q.1, { q.2 with waiter := if q.2.waiter = mine then none else q.2.waiter })) }
  modCore s c (fun k => { k with semWait := k.semWait.filter (fun q => q.2 != t) })

/-- A park whose bundle reissues (R242). -/
def reissues' (r : Reason) : Bool :=
  match r with
  | .access | .port | .feWait | .pageMove | .lease | .sync | .event | .engine => true
  | .marks | .busy | .supervisor | .fpx | .twin | .preempt => false

/-- OVERCAP raised in one thread (R244). -/
def overcapThread (s : State) (c t : Nat) (v : W64) : State :=
  let th := thrAt s c t
  if isUpper th || th.slot == .free || th.slot == .killed then s
  else match th.slot, th.park with
    | .parked, some p => if reissues' p.reason then trapOutside (withdrawPark s c t) c t cOVERCAP v else pend s c t cOVERCAP v
    | _, _ => pend s c t cOVERCAP v

/-- OVERCAP raised on a core: its group evacuates, its kernel shrinks, its run queue is discarded, its threads trap (R131, R244,
R280, R297, R301). -/
def raiseOvercap (s : State) (c : Nat) : State :=
  let k := coreAt s c
  if k.group = .idle ∨ k.group = .exited then s
  else
    let v := BitVec.ofNat 64 (cappool k)
    let s := modCore s c (fun k => { k with group := if k.group = .active then .evacuating else k.group, runq := [] })
    let s := (k.runq.filter (fun q => q.kind == 3)).foldl (fun s q => dropId s q.ctx (bits q.status 44 20)) s
    let s := modCtx s k.ctx (fun x => if x.kern = .running ∨ x.kern = .launched then { x with kern := .shrinking } else x)
    slots.foldl (fun s t => overcapThread s c t v) s

/-! ## Exit, relaunch, completion (R280, R297, R301, R306) -/

/-- Cores of a context whose groups have not exited. -/
def staying (s : State) (ctx : Nat) : List Nat := (coresOf s ctx).filter (fun c => (coreAt s c).group != .exited)

/-- Core groups exit; the cells of coarser groups that lose their last core are released (R301, R306). -/
def exitCores (s : State) (ctx : Nat) (cs : List Nat) : State :=
  let s := cs.foldl (fun s c => modCore s c (fun k => { k with group := .exited, runq := k.runq.filter (·.ctx != ctx) })) s
  let left := staying s ctx
  freeCells s ctx (fun n => cs.any (inCellGroup n) && !left.any (inCellGroup n))

/-- A command of a context is queued or under way in an engine (R280). -/
def hasCommands (s : State) (ctx : Nat) : Bool :=
  s.clusters.any (fun p =>
      let a := p.2.arr
      p.2.chans.any (fun q => q.2.any (·.ctx == ctx)) || a.cmdq.any (·.ctx == ctx) || (match a.cur with
        | some (m, _, _) => m.ctx == ctx
        | none => false) || (match a.drain with
        | some d => d.cmd.ctx == ctx
        | none => false) || p.2.agent.cons.any (fun r => match r with
        | .want w => w.ctx == ctx
        | .remote _ _ _ _ => false))
    || s.scans.any (·.ctx == ctx) || s.ams.any (·.ctx == ctx)

/-- No thread, run-queue entry, start on its way or incomplete command of a context is left (R280) (log 44, DEDUCED). -/
def kernelIdle (s : State) (ctx : Nat) : Bool :=
  (coresOf s ctx).all (fun c => slots.all (fun t => (thrAt s c t).slot == .free || (thrAt s c t).slot == .killed || (thrAt s c t).ctx != ctx)
      && (coreAt s c).runq.all (·.ctx != ctx) && (coreAt s c).landed.isEmpty)
    && s.starts.all (·.ctx != ctx) && s.packets.all (·.ctx != ctx) && !hasCommands s ctx

/-- A context that becomes FREE: its names and cells go, and the messages held about it (R240, R248, R372). -/
def freeCtx (s : State) (ctx : Nat) : State :=
  let s := freeCells (dropNames s ctx) ctx (fun _ => true)
  modCtx { s with sups := supsWithout s.sups ctx } ctx (fun _ => {})

/-- KERNEL_RELAUNCH: the groups that leave exit, and one thread starts at RELAUNCH (R297). -/
def execKernelRelaunch (ctx : Nat) (s : State) : Out :=
  let x := ctxAt s ctx
  if x.st ≠ .live ∨ x.kern ≠ .shrinking ∨ !kernelIdle s ctx then .next s
  else
    let gone := (staying s ctx).filter (fun c => (coreAt s c).group == .evacuating)
    let left := (staying s ctx).filter (fun c => (coreAt s c).group == .active)
    match left with
    | [] => .next s
    | c :: _ =>
      if x.relaunch = 0 then .next s
      else
        let s := exitCores s ctx gone
        let s := modCtx s ctx (fun x => { x with kern := .running, shrink := [], count := x.count + 1
                                                 place := x.place.filter (fun d => !gone.contains d) })
        let st : Start := { kind := 0, ctx := ctx, core := c, src := c, pc := x.relaunch
                            x := [BitVec.ofNat 64 (x.count + 1), BitVec.ofNat 64 left.length] }
        match acceptStart s st with
        | some (_, s) => .next s
        | none => .next s

/-- KERNEL_COMPLETE: a kernel with nothing left to run becomes COMPLETE, its groups exit and its context is FREE (R240, R280). -/
def execKernelComplete (ctx : Nat) (s : State) : Out :=
  let x := ctxAt s ctx
  let left := (staying s ctx).filter (fun c => (coreAt s c).group == .active)
  let ends := x.kern == .running || (x.kern == .shrinking && (x.relaunch == 0 || left.isEmpty))
  if x.st ≠ .live ∨ !ends ∨ !kernelIdle s ctx then .next s
  else .next (freeCtx (exitCores s ctx (staying s ctx)) ctx)

end Sys2Proof.Machine
end

