-- ==== Sys2Proof/Machine/Page.lean ====
section
/-!
DEFINITION. Mappings: MAPSET, MAPINV, PGHOT, TLBFL (R339, R340), shootdowns, the eviction of a cached leaf (R333), the swaps of
congruence groups (R336).
-/

namespace Sys2Proof.Machine

/-! ## Target words (R339) -/

/-- CTX, LVL and VA of a target word. -/
def twCtx (w : W64) : Nat := bits w 52 12
def twLvl (w : W64) : Nat := bits w 48 2 + 1
def twVa (w : W64) : Nat := bits w 0 48

/-- A well-formed target word: no reserved bit, an address in windows 0x0 to 0xB. -/
def targetOk (w : W64) : Bool := bits w 50 2 == 0 && decide (bits w 44 4 ≤ 0xB)

/-- The context is live or saved (R339). -/
def liveOrSaved (s : State) (ctx : Nat) : Bool := (ctxAt s ctx).st == .live || (ctxAt s ctx).st == .saved

/-- Number of address bits under an entry of a level. -/
def levelBits (lvl : Nat) : Nat := if lvl = 4 then 16 else 48 - 9 * lvl

/-- What a walk to the entry of a level gives: the entry's address; status 1 when the path fails. -/
inductive Path where
  | at (e : Nat)
  | fail | wait (k : Option Nat) | unbacked
  deriving DecidableEq, Repr

/-- The walk through the directories above a level (R324). The fuel counts the levels that are left. -/
def pathTo (s : State) (va lvl : Nat) : Nat → Nat → Path
  | 0, t => .at (t + 16 * walkIdx va lvl)
  | n + 1, t =>
    let l := lvl - (n + 1)
    let e := t + 16 * walkIdx va l
    match answerOf s e with
    | .unbacked => .unbacked
    | .wait k => .wait k
    | .now =>
      let word := readBytes s e 8
      if nbits word 0 1 = 0 ∨ nbits word 46 2 = 2 ∨ nbits word 1 1 = 1 ∨ entryBad l word (readBytes s (e + 8) 8) then .fail
      else pathTo s va lvl n (nbits word 6 37 * 64)

/-- The entry of a target word. -/
def entryOf (s : State) (w : W64) : Path :=
  match pathTo s (twVa w) (twLvl w) (twLvl w - 1) (ctxAt s (twCtx w)).groot.toNat with
  | .at e => match answerOf s e with
    | .now => .at e
    | .wait k => .wait k
    | .unbacked => .unbacked
  | r => r

/-- The leaves of a context beneath an entry. -/
def beneath (w : W64) (k : LeafKey) : Bool :=
  k.ctx == twCtx w && k.priv.isNone && k.va / 2 ^ levelBits (twLvl w) == twVa w / 2 ^ levelBits (twLvl w)

/-! ## The operations of the mapping unit -/

/-- A page instruction: made once by a twin, after a FENCE.dev when it is one of those that wait for it; it waits while the tables
of its context change, and for its own answer (R339, R340). -/
def pageOp (s : State) (rd ra rb : Reg) (fence : Bool) (k : State → Out) : Out :=
  let a := readX s ra
  privOnly s (fun s => once s (some rd) a 8 0 (readX s rb).toNat (fun s =>
    match (me s).reply with
    | some v => .next (takeReply s (some rd) v)
    | none =>
      let mine := fun (q : Shoot) => q.core == myCore s && q.slot == mySlot s && q.uid == (me s).uid
      if s.shoots.any mine || s.swaps.any (fun q => q.issuer == some (myCore s, mySlot s, (me s).uid)) then hold s .engine 0 3
      else if s.shoots.any (fun q => q.ctx == twCtx a) then hold s .engine 0 5
      else if fence then fenced s .device k else k s))

/-- A status in rd. -/
def status (s : State) (rd : Reg) (n : Nat) : Out := .next (writeX s rd (BitVec.ofNat 64 n))

/-- The mapping unit has an operation of the thread under way, which waits ENGINE for its status: what the unit still waits for, and the
status (R339). -/
def unitWorks (s : State) (ctx : Nat) (ids : List Nat) (value : Nat) : Out :=
  hold { s with shoots := s.shoots ++ [⟨myCore s, mySlot s, (me s).uid, ctx, ids, BitVec.ofNat 64 value⟩] } .engine 0 3

/-- The mapping unit answers with a status and nothing else (R339). -/
def unitStatus (s : State) (w : W64) (n : Nat) : Out := unitWorks s (twCtx w) [] n

/-- The numbers of the accesses, of the stores in loose buffers and of the started copies that translated through a set of leaves and are still to be performed. A store
held at the comparator of a twin is not among them: the trailing thread, which releases it, translates it anew (R172). -/
def throughIds (s : State) (inSet : LeafKey → Bool) : List Nat :=
  s.cores.flatMap (fun p => p.2.threads.flatMap (fun q =>
      (q.2.accs.filter (fun a => throughSet inSet a && a.result.isNone && !heldAcc q.2 a.id)).map (·.id))
      ++ (p.2.loose.filter (fun e => e.leafs.any inSet)).map (·.id))
    ++ s.clusters.flatMap (fun p => p.2.chans.flatMap (fun q => (q.2.filter (fun m => m.started && m.leafs.any inSet)).map (·.id)))

/-- Loose buffers with a store of a context drain (R340). -/
def drainCtx (s : State) (p : Nat → Bool) : State :=
  s.cores.foldl (fun s q => if q.2.loose.any (fun e => p e.ctx) then drainAll s q.1 else s) s

/-- Shootdown of a set of leaves, already dropped by the caches: accesses through them are performed, and the thread waits
for what cannot be yet; p tells the contexts of the set (R340) (log 48, DEDUCED). -/
def shootdown (s : State) (ctx : Nat) (p : Nat → Bool) (inSet : LeafKey → Bool) : Out :=
  let s := drainCtx (forceWhere s (throughSet inSet)) p
  unitWorks s ctx (throughIds s inSet) 0

/-- Cached counts of one table entry are discarded (R340). -/
def discardCounts (s : State) (e : Nat) : State :=
  let f := fun (t : TlbEntry) => if t.entry = e then { t with count := 0, pre := 0 } else t
  let s := s.cores.foldl (fun s p => if p.2.tlb.any (·.entry == e) then modCore s p.1 (fun k => { k with tlb := k.tlb.map f }) else s) s
  s.clusters.foldl (fun s p => if p.2.tlbs.any (fun q => q.2.any (·.entry == e)) then
    modClu s p.1 (fun c => { c with tlbs := c.tlbs.map (fun q => (q.1, q.2.map f)) }) else s) s

/-- An entry written, and what is beneath it shot down (R340). -/
def writeEntry (s : State) (w : W64) (e n v : Nat) : Out :=
  let s := dropLeaves (discardCounts (storeAt none s e n v) e) (beneath w)
  shootdown s (twCtx w) (fun x => x == twCtx w) (beneath w)

/-- The entry of a target word as an answer of exec: status 1 when the path fails, through memory that nothing backs among the rest
(log 65, DEDUCED); a wait for memory that is moving. -/
def withEntry (s : State) (w : W64) (k : State → Nat → Out) : Out :=
  if !liveOrSaved s (twCtx w) then unitStatus s w 1
  else match entryOf s w with
    | .at e => k s e
    | .fail | .unbacked => unitStatus s w 1
    | .wait k => waitAnew (startExit s k)

/-! ## MAPSET and MAPINV (R340) -/

/-- A record is malformed for a level: a valid one by R326, another by its reserved bits. -/
def recordBad (lvl word comp : Nat) : Bool :=
  if nbits word 0 1 = 1 then entryBad lvl word comp
  else nbits word 48 16 != 0 || nbits word 43 3 != 0 || nbits comp 48 8 != 0 || nbits comp 10 30 != 0 || nbits comp 2 6 != 0

/-- A record is a SHARED leaf with a frame that nothing backs. -/
def recordUnbacked (s : State) (lvl word comp : Nat) : Bool :=
  nbits word 0 2 == 3 && nbits comp 0 2 == 0 &&
    (List.range (if lvl = 3 then 32 else 1)).any (fun i => answerOf s (nbits word 6 37 * 64 + i * 65536) == .unbacked)

/-- MAPSET. -/
def execMapset (rd ra rb : Reg) (s : State) : Out :=
  let w := readX s ra
  let b := readX s rb
  pageOp s rd ra rb true (fun s =>
    if !targetOk w then unitStatus s w 2
    else if b.toNat % 16 ≠ 0 then trapC s cMISALIGNED b
    else match translateFar s (whoOf s (myCore s) (mySlot s)) { r := true } b 16 with
      | (.trap c, s) => trapC s c b
      | (.wait _, s) => waitAnew s b
      | (.unbacked, _) => .fault .unbackedWalk
      | (.reaches p _, s) =>
        if outOfReach s p then waitAnew (reachPlace s p) b
        else
        let (id, s) := withFresh s
        let r := readPlace s id 0 p 16
        let word := nbits r 0 64
        let comp := nbits r 64 64
        if recordBad (twLvl w) word comp then unitStatus s w 2
        else withEntry s w (fun s e =>
          if recordUnbacked s (twLvl w) word comp then unitStatus s w 3
          else writeEntry s w e 16 (word + comp * 2 ^ 64)))

/-- MAPINV once its entry is found: the checks of MAPSET on the new entry word with the companion word that is kept, then the write
(R340). -/
def rewriteEntry (s : State) (w : W64) (e word : Nat) : Out :=
  let comp := readBytes s (e + 8) 8
  if recordBad (twLvl w) word comp then unitStatus s w 2
  else if recordUnbacked s (twLvl w) word comp then unitStatus s w 3
  else writeEntry s w e 8 word

/-- MAPINV, mode UNMAP; a mode that is none of the two is malformed. -/
def execMapinvUnmap (rd ra rb : Reg) (s : State) : Out :=
  let w := readX s ra
  pageOp s rd ra rb true (fun s =>
    if !targetOk w ∨ readX s rb ≠ 0 then unitStatus s w 2
    else withEntry s w (fun s e => rewriteEntry s w e (readBytes s e 8 / 2 * 2)))

/-- MAPINV, mode RETIRE; a valid directory entry gives 2. -/
def execMapinvRetire (rd ra rb : Reg) (s : State) : Out :=
  let w := readX s ra
  pageOp s rd ra rb true (fun s =>
    if !targetOk w ∨ readX s rb ≠ 1 then unitStatus s w 2
    else withEntry s w (fun s e =>
      let old := readBytes s e 8
      if nbits old 0 2 = 1 then unitStatus s w 2
      else rewriteEntry s w e (old - nbits old 46 2 * 2 ^ 46 + 2 * 2 ^ 46)))

/-! ## PGHOT (R333, R340) -/

/-- Every cache's count of an entry added to its HOT and cleared (R333). -/
def collectHot (s : State) (e : Nat) : State :=
  let l := s.cores.flatMap (fun p => p.2.tlb) ++ s.clusters.flatMap (fun p => p.2.tlbs.flatMap (·.2))
  let n := (l.filter (·.entry == e)).foldl (fun n t => n + t.count) 0
  let f := fun (t : TlbEntry) => if t.entry = e then { t with count := 0 } else t
  let s := s.cores.foldl (fun s p => if p.2.tlb.any (·.entry == e) then modCore s p.1 (fun k => { k with tlb := k.tlb.map f }) else s) s
  let s := s.clusters.foldl (fun s p => if p.2.tlbs.any (fun q => q.2.any (·.entry == e)) then
    modClu s p.1 (fun c => { c with tlbs := c.tlbs.map (fun q => (q.1, q.2.map f)) }) else s) s
  addHot s e n

/-- PGHOT of a mode below PROMOTE: g gives the new HOT; without it HOT keeps its value. -/
def pghot (s : State) (rd ra rb : Reg) (mode : Nat) (g : Option (Nat → Nat)) : Out :=
  let w := readX s ra
  pageOp s rd ra rb false (fun s =>
    if !targetOk w ∨ twLvl w ≠ 1 ∨ readX s rb ≠ BitVec.ofNat 64 mode then unitStatus s w 2
    else if !liveOrSaved s (twCtx w) then unitStatus s w 1
    else match leafGlobal s (twCtx w) (twVa w) with
      | .leaf e _ _ _ =>
        let s := collectHot s e
        let h := (readByte s (e + 15)).toNat
        let s := match g with
          | some g => writeByte s (e + 15) (BitVec.ofNat 8 (g h))
          | none => s
        unitStatus s w (h * 256)
      | .wait k => waitAnew (startExit s k)
      | .absent | .bad | .unbacked => unitStatus s w 1)

/-- PGHOT, mode READ; a mode that is none of the four is malformed. -/
def execPghotRead (rd ra rb : Reg) (s : State) : Out := pghot s rd ra rb 0 none

/-- PGHOT, mode HALVE. -/
def execPghotHalve (rd ra rb : Reg) (s : State) : Out := pghot s rd ra rb 1 (some (fun h => h / 2))

/-- PGHOT, mode CLEAR. -/
def execPghotClear (rd ra rb : Reg) (s : State) : Out := pghot s rd ra rb 2 (some (fun _ => 0))

/-- An access touches the frame of a name. -/
def touchesFrame (pa : Nat) (a : Access) : Bool :=
  a.lanes.any (fun l => match l.place with
    | .here loc => loc / 65536 == pa / 65536
    | .peer _ _ => false)

/-- The name that a slot of a congruence group stores (R335). -/
def nameInSlot (r : BitVec 32) (slot : Nat) : Nat := (firstBelow 8 (fun i => slotOfName r i == slot)).getD 0

/-- The CXL port of a slot other than slot 0 of a congruence group. -/
def slotPort (g slot : Nat) : Nat := (7 * g + slot - 1) / cxlWindow

/-- The CXL port of a slot other than slot 0 of a congruence group is ready, and its expander backs the slot (R335, R416, R427). -/
def slotReady (s : State) (g slot : Nat) : Bool :=
  cxlReady s (slotPort g slot) &&
    decide ((7 * g + slot - 1) % cxlWindow < min ((cxlAt s (slotPort g slot)).bytes / 65536) cxlWindow)

/-- PGHOT, mode PROMOTE: the name is swapped with the one in slot 0 of its group (R336) (log 49, DEDUCED). No name moves into a slot that
is not backed (R335); while CXLRDY of the port is clear every name counts as backed, and the swap waits (R427). -/
def execPghotPromote (rd ra rb : Reg) (s : State) : Out :=
  let a := readX s ra
  pageOp s rd ra rb false (fun s =>
    if a.toNat % 65536 ≠ 0 ∨ readX s rb ≠ 3 then unitStatus s a 2
    else if answerOf s a.toNat = .unbacked then unitStatus s a 3
    else
      let (g, i) := congruence a.toNat
      let r := tget remapIdentity s.remap g
      if slotOfName r i = 0 then unitStatus s a 65536
      else if s.swaps.any (fun w => w.group == g) then unitStatus s a 4
      else if !(dieAt s (groupDie g)).domain then unitStatus s a 3
      else if !cxlReady s (slotPort g (slotOfName r i)) then hold s .engine 0 5
      else if !slotReady s g (slotOfName r i) then unitStatus s a 3
      else
        let n := nameInSlot r 0
        let s := forceWhere s (fun a => touchesFrame (nameAddr g i) a || touchesFrame (nameAddr g n) a)
        hold { s with swaps := s.swaps ++ [⟨g, i, n, some (myCore s, mySlot s, (me s).uid)⟩] } .engine 0 3)

/-- SWAP_COMPLETE: the remap entry exchanges the two slots, requesters answered moving are woken, and PGHOT's issuer receives 0.
Contents follow their names, by which memory is kept (R336; log 6, DESIGN CHOICE). It waits while the CXL slot cannot be reached. -/
def execSwapComplete (idx : Nat) (s : State) : Out :=
  match s.swaps[idx]? with
  | none => .next s
  | some w =>
    let r0 := tget remapIdentity s.remap w.group
    if !slotReady s w.group (max (slotOfName r0 w.m) (slotOfName r0 w.n)) then .next s
    else
    let r := swapSlots r0 w.m w.n
    let s := wakeBlocked <| wakePages { s with swaps := s.swaps.eraseIdx idx, remap := tset remapIdentity s.remap w.group r }
    .next (match w.issuer with
      | some (c, t, u) => if isThread s c t u then answer s c t 0 else s
      | none => s)

/-! ## TLBFL (R340) -/

/-- A flush of a set of leaves of one context, or of all. -/
def tlbfl (s : State) (rd ra rb : Reg) (mode : Nat) (inSet : W64 → LeafKey → Bool) : Out :=
  let w := readX s ra
  pageOp s rd ra rb true (fun s =>
    if !targetOk w ∨ twLvl w ≠ 1 ∨ readX s rb ≠ BitVec.ofNat 64 mode then unitStatus s w 2
    else if !liveOrSaved s (twCtx w) then unitStatus s w 1
    else
      let f := inSet w
      shootdown (dropLeaves s f) (twCtx w) (fun x => x == twCtx w || mode == 4) f)

/-- The page of an address is the page of a leaf. -/
def pageOfLeaf (w : W64) (k : LeafKey) : Bool := k.ctx == twCtx w && k.priv.isNone && k.va == twVa w / 2 ^ k.bits * 2 ^ k.bits

/-- TLBFL, mode PAGE; a mode that is none of the five is malformed. -/
def execTlbflPage (rd ra rb : Reg) (s : State) : Out := tlbfl s rd ra rb 0 pageOfLeaf

/-- TLBFL, mode GLOBAL. -/
def execTlbflGlobal (rd ra rb : Reg) (s : State) : Out := tlbfl s rd ra rb 1 (fun w k => k.ctx == twCtx w && k.priv.isNone)

/-- TLBFL, mode PRIVATE. -/
def execTlbflPrivate (rd ra rb : Reg) (s : State) : Out := tlbfl s rd ra rb 2 (fun w k => k.ctx == twCtx w && k.priv.isSome)

/-- TLBFL, mode CONTEXT. -/
def execTlbflContext (rd ra rb : Reg) (s : State) : Out := tlbfl s rd ra rb 3 (fun w k => k.ctx == twCtx w)

/-- TLBFL, mode DEVICE. -/
def execTlbflDevice (rd ra rb : Reg) (s : State) : Out := tlbfl s rd ra rb 4 (fun _ _ => true)

/-- TLB_EVICT: the cache of a core, or of a channel (numbered after the cores, 8 to a cluster), drops a leaf and adds its count to
HOT (R333). -/
def execTlbEvict (core idx : Nat) (s : State) : Out :=
  let w : Who := { ctx := 0, privid := 0, seat := 0, core := core, chan := if core < 5120 then none else some ((core - 5120) / 8, core % 8) }
  let l := tlbOf s w
  match l[idx]? with
  | none => .next s
  | some e => .next (addHot (setTlb s w (l.eraseIdx idx)) e.entry e.count)

end Sys2Proof.Machine
end

