-- ==== Sys2Proof/Machine/Bank.lean ====
section
/-!
DEFINITION. Banks, capacity, VIGIL: BANKRET and BANKQ (R351 to R354, R430), evacuations (R344 to R349), VIGIL (R355).
-/

namespace Sys2Proof.Machine

/-! ## Units (R341) -/

/-- A unit of a kind (1 pool bank, 2 slice bank, 3 pseudo-channel) of a holder: core, cluster or die. -/
def unitAt (s : State) (kind holder b : Nat) : BankUnit :=
  if kind = 1 then poolBank (coreAt s holder) b
  else if kind = 2 then sliceBank (cluAt s holder) b
  else pseudoUnit (dieAt s holder) b

/-- A unit replaced. -/
def setUnit (s : State) (kind holder b : Nat) (u : BankUnit) : State :=
  if kind = 1 then modCore s holder (fun k => { k with banks := tput k.banks b u })
  else if kind = 2 then modClu s holder (fun c => { c with slices := tput c.slices b u })
  else modDie s holder (fun d => { d with pchs := tput d.pchs b u })

/-- How many holders a kind has, and units in a holder; the lines of a unit. -/
def holders (kind : Nat) : Nat := if kind = 1 then 5120 else if kind = 2 then 160 else 4
def unitsOf (kind : Nat) : Nat := if kind = 1 then 20 else if kind = 2 then 32 else if kind = 3 then 192 else 1
def linesOf (kind : Nat) : Nat := if kind = 1 then 128 else if kind = 2 then 1024 else 12582912

/-- The unit that stamps at the holder of banks of a kind: the core, the cluster, the die (R29; log 70, DESIGN CHOICE). -/
def unitClk (kind h : Nat) : Clk := if kind = 1 then .core h else if kind = 2 then .clu h else .die h

/-- The die of a holder. -/
def holderDie (kind h : Nat) : Nat := if kind = 1 then dieOfCore h else if kind = 2 then dieOf h else h

/-- The fields of a bank word (R352). -/
def bwKind (w : W64) : Nat := bits w 61 3
def bwUnit (w : W64) : Nat := bits w 32 13
def bwBank (w : W64) : Nat := bits w 0 8

/-- A well-formed bank word. -/
def bankOk (w : W64) : Bool :=
  bits w 45 16 == 0 && bits w 8 24 == 0 && decide (1 ≤ bwKind w) && decide (bwKind w ≤ 4) && decide (bwUnit w < holders (bwKind w))
    && decide (bwBank w < unitsOf (bwKind w))

/-! ## Destinations (R346) -/

/-- The logical bank that a pool bank leaves with no copy is backed by the bank of the highest logical number above it, so that the
banks in service back the lowest logical banks (R341, R342; log 25, DEDUCED). -/
def fillHole (k : Core) (hole : Nat) : Core :=
  let above := (List.range 20).filter (fun b => inCount (poolBank k b) && (match (poolBank k b).logical with
    | some l => decide (hole < l)
    | none => false))
  let top := above.foldl (fun n b => max n ((poolBank k b).logical.getD 0)) 0
  match above.find? (fun b => (poolBank k b).logical == some top) with
  | some b => { k with banks := tput k.banks b { poolBank k b with logical := some hole } }
  | none => k

/-- A pool bank retires with no copy. -/
def retirePool (k : Core) (b : Nat) : Core :=
  let u := poolBank k b
  let k := { k with banks := tput k.banks b { u with st := .retired, logical := none, held := false } }
  match u.logical with
  | some l => fillHole k l
  | none => k

/-- Held banks of a core retire when its group exits or its image is done (R344, R346). -/
def retireHeld (s : State) (c : Nat) : State :=
  ((List.range 20).filter (fun b => (poolBank (coreAt s c) b).held)).foldl (fun s b => modCore s c (fun k => retirePool k b)) s

/-- 64 KiB blocks redirected into the spare area of a pseudo-channel. -/
def spareUsed (d : Die) (p : Nat) : Nat := (d.redirect.filter (fun q => q.2 == p)).length

/-- Free blocks of the spare areas of a die's other pseudo-channels in service (R351). -/
def spareFree (d : Die) (p : Nat) : Nat :=
  ((List.range 192).filter (fun q => q != p && inCount (pseudoUnit d q))).foldl (fun n q => n + (512 - spareUsed d q)) 0

/-- The next pseudo-channel in service with a free block, from one on. -/
def nextSpare (d : Die) (used : Tbl Nat) (p : Nat) : Option Nat :=
  ((List.range 192).map (fun i => (p + i) % 192)).find? (fun q => inCount (pseudoUnit d q) && decide (tget 0 used q < 512))

/-- Blocks allocated in spare areas, round-robin from a pseudo-channel on (R346). -/
def allotBlocks (d : Die) : List Nat → Nat → Tbl Nat → List (Nat × Nat)
  | [], _, _ => []
  | b :: r, p, used =>
    match nextSpare d used p with
    | some q => (b, q) :: allotBlocks d r (q + 1) (tput used q (tget 0 used q + 1))
    | none => []

/-- The redirect table once pseudo-channel p, no longer in service, evacuates: its blocks, and those that its spare area held. -/
def redirected (d : Die) (p : Nat) : List (Nat × Nat) :=
  let keep := d.redirect.filter (fun q => q.2 != p)
  let used : Tbl Nat := (List.range 192).map (fun q => (q, (keep.filter (fun r => r.2 == q)).length))
  let blocks := (List.range 12288).map (fun i => p * 12288 + i) ++ (d.redirect.filter (fun q => q.2 == p)).map (·.1)
  keep ++ allotBlocks d blocks (p + 1) used

/-! ## BANKRET (R353) -/

/-- Retirement of a pool bank begins: at once when SPARE, held without a SPARE bank, else towards the lowest SPARE bank. -/
def retireOnePool (s : State) (c b : Nat) : State :=
  let k := coreAt s c
  let s :=
    if isSpare k b then modCore s c (fun k => retirePool k b)
    else match firstBelow 20 (isSpare k) with
      | some d => modCore s c (fun k =>
          let l := (poolBank k d).logical
          let k := { k with banks := tput k.banks b { poolBank k b with st := .evacuating, dest := some d, pointer := 0 } }
          let k := { k with banks := tput k.banks d { poolBank k d with logical := none } }
          match l with
          | some l => fillHole k l
          | none => k)
      | none => modCore s c (fun k => { k with banks := tput k.banks b { poolBank k b with st := .evacuating, held := true } })
  if belowPart (coreAt s c) then raiseOvercap s c else s

/-- Retirement of a slice bank begins: of the cache with no destination, of the tarn towards the highest cache bank, or with the loss
of its tiles (R346, R430). -/
def retireSlice (s : State) (k b : Nat) : State :=
  let c := cluAt s k
  let begun := fun (d l : Option Nat) => { sliceBank c b with st := .evacuating, dest := d, pointer := 0, logical := l }
  let start := fun (s : State) (d l : Option Nat) => modClu s k (fun c => { c with slices := tput c.slices b (begun d l) })
  match (sliceBank c b).logical with
  | none => start s none none
  | some l =>
    if l < 32 - c.tarn then start s none (some l)
    else match topSlice c (32 - c.tarn) with
      | some d => start (modClu s k (fun c => { c with slices := tput c.slices d { sliceBank c d with logical := none } })) (some d) (some l)
      | none =>
        let low := 32 - c.tarn
        let move := fun (g : Nat) => if g / 64 = 31 - low then (31 - l) * 64 + g % 64 else g
        let s := modAgent s k (fun a => { a with
          tiles := (a.tiles.filter (fun t => t.grans.all (fun g => g / 64 != 31 - l))).map (fun t => { t with grans := t.grans.map move }) })
        let shift := fun (c : Cluster) (t : Tbl BankUnit) (x : Nat) =>
          if (sliceBank c x).logical = some low ∧ low ≠ l then tput t x { sliceBank c x with logical := some l } else t
        let s := modClu s k (fun c => { c with tarn := c.tarn - 1, slices := (List.range 32).foldl (shift c) c.slices })
        start s none none

/-- Retirement of a pseudo-channel begins. -/
def retirePseudo (s : State) (d p : Nat) : State :=
  let s := modDie s d (fun x => { x with pchs := tput x.pchs p { pseudoUnit x p with st := .evacuating, pointer := 0 } })
  modDie s d (fun x => { x with redirect := redirected x p })

/-- Retirement of a whole domain (R353). -/
def retireDomain (s : State) (d : Nat) : State :=
  modDie s d (fun x => { x with
    domain := false
    redirect := []
    pchs := (List.range 192).foldl (fun t p => tput t p { pseudoUnit x p with st := .retired, logical := none }) x.pchs })

/-- BANKRET of a well-formed bank word: its status and the state after. -/
def bankRetire (s : State) (kind h b : Nat) : Nat × State :=
  let us := (List.range (unitsOf kind)).map (unitAt s kind h)
  let u := unitAt s kind h b
  if kind = 4 then
    let ps := (List.range 192).map (pseudoUnit (dieAt s h))
    if !(dieAt s h).domain then (1, s) else if ps.any (·.st == .evacuating) then (4, s) else (0, retireDomain s h)
  else if u.st = .evacuating ∨ u.st = .retired then (1, s)
  else if us.any copying then (5, s)
  else if kind = 3 ∧ spareFree (dieAt s h) b < 12288 + spareUsed (dieAt s h) b then (3, s)
  else if kind = 1 then (0, retireOnePool s h b)
  else if kind = 2 then (0, retireSlice s h b)
  else (0, retirePseudo s h b)

/-- The cluster that holds a unit, for pool and slice banks. -/
def unitCluster (kind h : Nat) : Option Nat := if kind = 1 then some (clusterOf h) else if kind = 2 then some h else none

/-- A cluster in VIGIL begins to leave it (R355). -/
def leaveVigil (s : State) (k : Nat) : State := startExit s (some k)

/-- The request of a bank instruction reaches the holder of the unit that its bank word names, whose answer k makes; both carry stamps
(R29, R352). -/
def bankAsked (s : State) (w : W64) (k : State → Out) : Out :=
  unitAnswers s (fun s =>
    let u := unitClk (bwKind w) (bwUnit w)
    if bankOk w then k (carry (carry s (.core (myCore s)) u) u (.core (myCore s))) else k s)

/-- BANKRET and BANKQ: made once by a twin; the thread waits until the holder answers, and a unit of a cluster in VIGIL is first decoded
(R352, R353), and one of a cluster whose clock stands waits (R420). -/
def bankOp (s : State) (rd ra : Reg) (k : State → Out) : Out :=
  let w := readX s ra
  privOnly s (fun s => once s (some rd) w 8 0 0 (fun s =>
    match (if bankOk w then unitCluster (bwKind w) (bwUnit w) else none) with
    | some c =>
      if (cluAt s c).vigil ≠ 0 then hold (leaveVigil s c) .engine 0 5
      else if (cluAt s c).stopped then hold s .engine 0 6
      else bankAsked s w k
    | none => bankAsked s w k))

/-- A retirement that Odcor starts through the same path, when error counts demand it (R353; log 61, DESIGN CHOICE). One of a cluster in VIGIL
waits until the cluster is decoded. -/
def odcorRetire (s : State) (w : W64) : State :=
  if !bankOk w then s
  else
    let u := unitClk (bwKind w) (bwUnit w)
    let go := (bankRetire (carry s (.die (holderDie (bwKind w) (bwUnit w))) u) (bwKind w) (bwUnit w) (bwBank w)).2
    match unitCluster (bwKind w) (bwUnit w) with
    | some c => if (cluAt s c).vigil ≠ 0 then { leaveVigil s c with odcor := s.odcor ++ [w] } else go
    | none => go

/-- The retirements that wait for the exit of a cluster from VIGIL proceed, in the order in which Odcor has begun them (R353). -/
def odcorSettle (s : State) (k : Nat) : State :=
  let mine := fun (w : W64) => unitCluster (bwKind w) (bwUnit w) == some k
  (s.odcor.filter mine).foldl odcorRetire { s with odcor := s.odcor.filter (fun w => !mine w) }

/-- BANKRET of a bank word. -/
def bankretOp (rd ra : Reg) (s : State) : Out :=
  let w := readX s ra
  bankOp s rd ra (fun s =>
    if !bankOk w then status s rd 2
    else
      let (n, s) := bankRetire s (bwKind w) (bwUnit w) (bwBank w)
      status s rd n)

/-- BANKRET of a pool bank, slice bank or pseudo-channel (R353). -/
def execBankret (rd ra : Reg) (s : State) : Out := bankretOp rd ra s

/-- BANKRET of a whole HBM domain (R353). -/
def execBankretDomain (rd ra : Reg) (s : State) : Out := bankretOp rd ra s

/-! ## BANKQ (R354) -/

/-- STATE of a unit. -/
def stateNo (s : State) (kind h b : Nat) : Nat :=
  match (unitAt s kind h b).st with
  | .evacuating => 2
  | .retired => 3
  | _ => if kind = 1 ∧ isSpare (coreAt s h) b then 1 else 0

/-- The state word of a well-formed bank word. -/
def bankWord (s : State) (kind h b : Nat) : W64 :=
  if kind = 4 then BitVec.ofNat 64 ((if (dieAt s h).domain then 0 else 3 * 2 ^ 60) + 0xFF * 2 ^ 48 + 0xFF)
  else
    let u := unitAt s kind h b
    BitVec.ofNat 64 (stateNo s kind h b * 2 ^ 60 + (if u.held then 2 ^ 59 else 0) + (if u.stub.isSome then 2 ^ 58 else 0)
      + u.dest.getD 0xFF * 2 ^ 48 + u.pointer * 2 ^ 24 + u.logical.getD 0xFF)

/-- BANKQ. -/
def execBankq (rd ra : Reg) (s : State) : Out :=
  let w := readX s ra
  bankOp s rd ra (fun s =>
    .next (writeX s rd (if bankOk w then bankWord s (bwKind w) (bwUnit w) (bwBank w) else 0xFFFFFFFFFFFFFFFF)))

/-! ## Evacuation (R347 to R349) -/

/-- A unit that an evacuation event names. -/
def evacUnit (kind h b : Nat) : Bool :=
  decide (1 ≤ kind) && decide (kind ≤ 3) && decide (h < holders kind) && decide (b < unitsOf kind)

/-- The holder of an evacuation works: its die is ready, or, for a pseudo-channel, gated, whose memory domain stays in service (R419,
R421). -/
def evacRuns (s : State) (kind holder : Nat) : Bool :=
  let d := holderDie kind holder
  s.dierdy.getLsbD d || (kind == 3 && s.gated.getLsbD d)

/-- EVAC_LINE_COPY: the line at the pointer has been copied, with its full/empty bits; writes that it held go on, entries bound for a mailbox
among them (R347). Requests find a
line at its new place, which changes nothing that they see (R350; log 6, DESIGN CHOICE). -/
def execEvacLineCopy (kind holder bank : Nat) (s : State) : Out :=
  let u := unitAt s kind holder bank
  if evacUnit kind holder bank && evacRuns s kind holder && copying u && decide (u.pointer < linesOf kind) then
    let s := wakeBlocked (setUnit s kind holder bank { u with pointer := u.pointer + 1 })
    .next (if kind = 1 then flushAll s holder else s)
  else .next s

/-- EVAC_SWITCHOVER: after the last line the map entry names the destination, and the old unit is a stub from now on (R349). The stamp of the
switch-over is a local event of the holder (R29). An evacuation goes on only while its die works (R419, R421). -/
def execEvacSwitchover (kind holder bank : Nat) (s : State) : Out :=
  let u := unitAt s kind holder bank
  if evacUnit kind holder bank && evacRuns s kind holder && copying u && u.pointer == linesOf kind then
    let s := match u.dest with
      | some d => setUnit s kind holder d { unitAt s kind holder d with logical := u.logical }
      | none => s
    let s := setUnit s kind holder bank { u with logical := none, stub := some (dieAt s (holderDie kind holder)).ns }
    .next (stampOf s (unitClk kind holder)).2
  else .next s

/-- Nanoseconds from the switch-over to the drain horizon (R349). -/
def horizon (kind : Nat) : Nat := if kind = 3 then 64000 else 2000

/-- DRAIN_HORIZON: the unit is RETIRED (R349). -/
def execDrainHorizon (kind holder bank : Nat) (s : State) : Out :=
  let u := unitAt s kind holder bank
  match u.stub with
  | some t =>
    if evacUnit kind holder bank && decide (t + horizon kind ≤ (dieAt s (holderDie kind holder)).ns) then
      .next (setUnit s kind holder bank { u with st := .retired, stub := none })
    else .next s
  | none => .next s

/-! ## VIGIL (R355) -/

/-- VIGIL_ENTRY: a cluster whose cores have all been IDLE for 1 ms, on a die that is not gated (R355, R420). -/
def execVigilEntry (cluster : Nat) (s : State) : Out :=
  let d := dieOf cluster
  let c := cluAt s cluster
  if decide (cluster < 160) && c.vigil == 0 && !c.stopped && !s.gated.getLsbD d && s.dierdy.getLsbD d
      && (coresOfCluster cluster).all (fun n => (coreAt s n).group == .idle) && decide (c.idleNs + 1000000 ≤ (dieAt s d).ns) then
    .next (modClu s cluster (fun c => { c with vigil := 1 }))
  else .next s

/-- VIGIL_EXIT: an access reaches the cluster, which begins to decode (R355) (log 55, DEDUCED). -/
def execVigilExit (cluster : Nat) (s : State) : Out := .next (leaveVigil s cluster)

/-- VIGIL_DECODE_COMPLETE: the decoding is done, and what waited goes on (R353, R355). -/
def execVigilDecodeComplete (cluster : Nat) (s : State) : Out :=
  let c := cluAt s cluster
  if c.vigil = 2 then
    let s := modClu s cluster (fun c => { c with vigil := 0, idleNs := (dieAt s (dieOf cluster)).ns })
    .next (odcorSettle (wakeDevice (wakeBlocked (wakePages s))) cluster)
  else .next s

end Sys2Proof.Machine
end

