-- ==== Sys2Proof/Machine/Barrier.lean ====
section
/-!
DEFINITION. Barriers and semaphores: BARINIT, BARARR, BARWAIT, BARAW, SEMP, SEMV (R308 to R320), the wakes of a phase and timeouts
(R311, R317).
-/

namespace Sys2Proof.Machine

/-- A cell of the device. -/
def cellAt (s : State) (n : Nat) : Cell := tget {} s.cells n

/-- A cell replaced. -/
def setCell (s : State) (n : Nat) (c : Cell) : State := { s with cells := tset {} s.cells n c }

/-- The number of the cell that a legal barrier word names for a core (R309). -/
def barCell (s : State) (core : Nat) (w : W64) : Option Nat :=
  let l := bits w 13 3
  let i := bits w 0 13
  let n := cellNo l i (bits w 16 4)
  if bits w 20 44 ≠ 0 ∨ l < 2 ∨ 4 < l then none
  else if (l = 2 ∧ 160 ≤ i) ∨ (l = 3 ∧ 4 ≤ i) ∨ (l = 4 ∧ i ≠ s.number) then none
  else if inCellGroup n core then some n else none

/-- The cluster that holds a cell (R308). -/
def cellHolder (n : Nat) : Nat :=
  match cellGroup n with
  | (2, i) => i
  | (3, d) => clusterOnDie d 0
  | _ => 0

/-- A BAR instruction of the bundle's core acts at its cell: its stamp reaches the holder, and the answer's the core (R29, R314). -/
def cellAnswers (s : State) (n : Nat) : State :=
  carry (carry s (.core (myCore s)) (.clu (cellHolder n))) (.clu (cellHolder n)) (.core (myCore s))

/-- A BAR instruction: a plain access (R314), made once by a twin. -/
def barOp (s : State) (rd : Option Reg) (a b : W64) (k : State → Out) : Out :=
  once s rd a 8 0 b.toNat (fun s =>
    match (me s).reply with
    | some v => .next (takeReply s rd v)
    | none => if plainBusy (me s) then wait s .access else k s)

/-- The cell of a barrier word, or the trap of an illegal one (R309). The request waits while the clock of the cell's cluster stands
(R420). -/
def withCell (s : State) (a : W64) (k : State → Nat → Out) : Out :=
  match barCell s (myCore s) a with
  | some n => if (cluAt s (cellHolder n)).stopped then wait s .access else k (cellAnswers s n) n
  | none => trapC s cPROTECTION a

/-- What a park on a cell keeps beside the barrier word: the phase waited for, with 0 for BARWAIT and 2 for BARAW (a park on a semaphore
has 1). -/
def cellAux (kind p : Nat) : W64 := BitVec.ofNat 64 (4 * p + kind)

/-- The barrier word and the phase of a thread that is parked on a barrier cell. -/
def onCell (th : Thread) : Option (W64 × Nat) :=
  match th.park with
  | some q => if parkedFor th .sync && q.aux != 1 then some (q.obj, q.aux.toNat / 4) else none
  | none => none

/-- A thread of a core waits on a cell. -/
def waitsOn (s : State) (core n : Nat) (th : Thread) : Bool :=
  match onCell th with
  | some (w, _) => barCell s core w == some n
  | none => false

/-- A thread waits on a cell: one whose phase has completed counts until the wake of that phase has reached it (R311, R315; log 93,
DESIGN CHOICE). -/
def cellWaited (s : State) (n : Nat) : Bool := s.cores.any (fun p => p.2.threads.any (fun q => waitsOn s p.1 n q.2))

/-- The most arrivals a cell may expect (R315). -/
def barLimit (l : Nat) : Nat := if l = 2 then 512 else if l = 3 then 20480 else 81920

/-- BARINIT: its status and the state after (R315). -/
def barInit (s : State) (n l e ctx : Nat) : Nat × State :=
  let c := cellAt s n
  if barLimit l < e then (2, s)
  else if c.st = 0 then
    if e = 0 then (2, s) else (0, setCell s n { ctx := ctx, st := 1, phase := 0, expect := e, arrived := 0 })
  else if c.ctx ≠ ctx then (1, s)
  else if c.arrived ≠ 0 ∨ cellWaited s n then (3, s)
  else if e = 0 then (0, setCell s n {})
  else (0, setCell s n { c with expect := e })

/-- BARINIT. -/
def execBarinit (rd ra rb : Reg) (s : State) : Out :=
  let a := readX s ra
  let b := readX s rb
  barOp s (some rd) a b (fun s => withCell s a (fun s n =>
    let (v, s) := barInit s n (bits a 13 3) (bits b 0 20) (me s).ctx
    .next (writeX s rd (BitVec.ofNat 64 v))))

/-- The cell is open for the thread's context. -/
def openCell (s : State) (n : Nat) : Bool := (cellAt s n).st == 1 && (cellAt s n).ctx == (me s).ctx

/-- A phase completes: its wake goes to every core of the group in the owner's placement (R310, R311). -/
def completePhase (s : State) (n : Nat) : State :=
  let c := cellAt s n
  let s := setCell s n { c with phase := (c.phase + 1) % 256, arrived := 0 }
  let who := fun (d : Nat) => (slots.map (thrAt s d)).filter (fun th => waitsOn s d n th && (onCell th).map (·.2) == some c.phase)
  { s with wakes := s.wakes ++ ((staying s c.ctx).filter (inCellGroup n)).map (fun d =>
      ⟨n, c.phase, d, (who d).map (·.uid), (coreAt s d).time⟩) }

/-- An arrival of k at an open cell, or its trap; the phase arrived in goes on (R316). -/
def arriveCell (s : State) (a : W64) (n k : Nat) (f : State → Nat → Out) : Out :=
  let c := cellAt s n
  if !openCell s n then trapC s cPROTECTION a
  else if k = 0 ∨ c.expect - c.arrived < k then trapC s cPROTECTION a
  else
    let s := setCell s n { c with arrived := c.arrived + k }
    f (if c.arrived + k = c.expect then completePhase s n else s) c.phase

/-- BARARR (R316). -/
def execBararr (rd ra rb : Reg) (s : State) : Out :=
  let a := readX s ra
  let b := readX s rb
  barOp s (some rd) a b (fun s => withCell s a (fun s n =>
    arriveCell s a n (bits b 0 20) (fun s p => .next (writeX s rd (BitVec.ofNat 64 p)))))

/-- BARWAIT (R317). -/
def execBarwait (rd ra rb : Reg) (s : State) : Out :=
  let a := readX s ra
  let b := readX s rb
  let p := bits b 0 8
  barOp s (some rd) a b (fun s => withCell s a (fun s n =>
    if !openCell s n then trapC s cPROTECTION a
    else if (cellAt s n).phase ≠ p then .next (writeX s rd 0)
    else hold s .sync a (cellAux 0 p)))

/-- The arrival that the BARAW of the bundle has made already: the phase it arrived in (R318). -/
def hasArrived (s : State) (a : W64) : Option Nat :=
  ((me s).arrived.find? (fun r => r.pc == s.iss.pc && r.word == a && r.tl == (me s).tl)).map (·.phase)

/-- The wait of BARAW for the phase it arrived in, which its trap level keeps (R318). -/
def barawWait (s : State) (rd : Reg) (a : W64) (n p : Nat) : Out :=
  if (cellAt s n).phase ≠ p then .next (writeX s rd (BitVec.ofNat 64 p))
  else hold (modMe s (fun th => { th with arrived := th.arrived.filter (fun r => r.tl != th.tl) ++ [⟨s.iss.pc, a, p, th.tl⟩] })) .sync a (cellAux 2 p)

/-- BARAW: an arrival, made once, then the wait for its phase, which alone is made when the bundle is issued again (R318). -/
def execBaraw (rd ra rb : Reg) (s : State) : Out :=
  let a := readX s ra
  let b := readX s rb
  barOp s (some rd) a b (fun s => withCell s a (fun s n =>
    match hasArrived s a with
    | some p => if !openCell s n then trapC s cPROTECTION a else barawWait s rd a n p
    | none => arriveCell s a n (bits b 0 20) (fun s p => barawWait s rd a n p)))

/-! ## Semaphores (R312, R319, R320) -/

/-- The count of a semaphore of a core. -/
def semAt (s : State) (c n : Nat) : Nat := tget 0 (coreAt s c).sems n

/-- The count replaced. -/
def setSem (s : State) (c n v : Nat) : State := modCore s c (fun k => { k with sems := tset 0 k.sems n v })

/-- SEMP (R319). -/
def execSemp (rd ra : Reg) (s : State) : Out :=
  let a := readX s ra
  let n := bits a 0 4
  barOp s (some rd) a 0 (fun s =>
    let c := myCore s
    let v := semAt s c n
    if 0 < v then .next (writeX (setSem s c n (v - 1)) rd 0)
    else
      let s := modCore s c (fun k => { k with semWait := k.semWait.filter (fun q => q.2 != mySlot s) ++ [(n, mySlot s)] })
      hold s .sync (BitVec.ofNat 64 n) 1)

/-- Units handed to the waiters of a semaphore in their order; what is left (R320). -/
def handUnits (c n : Nat) : List (Nat × Nat) → State → Nat → Nat × State
  | [], s, k => (k, s)
  | (m, t) :: r, s, k =>
    if m ≠ n ∨ k = 0 then handUnits c n r s k
    else
      let s := modCore s c (fun x => { x with semWait := x.semWait.filter (fun q => q.2 != t) })
      handUnits c n r (answer s c t 0) (k - 1)

/-- k units added to a semaphore (R320). -/
def semAdd (s : State) (c n k ctx : Nat) : State :=
  let (left, s) := handUnits c n (coreAt s c).semWait s k
  let s := setSem s c n (min (2 ^ 32 - 1) (semAt s c n + left))
  slots.foldl (fun s t => if (thrAt s c t).ctx = ctx then raiseEvent s c t evSem else s) s

/-- SEMV (R320). -/
def execSemv (ra rb : Reg) (s : State) : Out :=
  let a := readX s ra
  let b := readX s rb
  barOp s none a b (fun s =>
    let c := bits a 0 13
    if bits a 13 3 ≠ 0 ∨ bits a 20 44 ≠ 0 then trapC s cPROTECTION a
    else if !liveFor s c (me s).ctx then trapC s cPEERGONE a
    else if (cluAt s (clusterOf c)).stopped then wait s .access
    else .next (semAdd (carry s (.core (myCore s)) (.core c)) c (bits a 16 4) (bits b 0 32) (me s).ctx))

/-! ## Events -/

/-- What a waiter on a cell receives: BARAW its phase, with bit 63 after a timeout; BARWAIT 0, or 1 (R317, R318). -/
def cellReply (q : Park) (late : Bool) : W64 :=
  if q.aux.toNat % 4 = 2 then BitVec.ofNat 64 (q.aux.toNat / 4 % 256 + if late then 2 ^ 63 else 0) else if late then 1 else 0

/-- BARRIER_WAKE: the wake of a phase reaches a core, and ends the waits of the threads that were parked when it was sent (R311). -/
def execBarrierWake (idx : Nat) (s : State) : Out :=
  match s.wakes[idx]? with
  | none => .next s
  | some w =>
    let s := carry { s with wakes := s.wakes.eraseIdx idx } (.clu (cellHolder w.cell)) (.core w.core)
    .next (slots.foldl (fun s t =>
      let th := thrAt s w.core t
      match th.park with
      | some q =>
        if waitsOn s w.core w.cell th && (onCell th).map (·.2) == some w.phase && w.uids.contains th.uid && decide (q.since ≤ w.since) then
          answer s w.core t (cellReply q false)
        else s
      | none => s) s)

/-- SYNC_TIMEOUT: a BARWAIT, BARAW or SEMP has waited $fewait cycles; a wake that comes in the last of them still counts (R317 to
R319). -/
def execSyncTimeout (core slot : Nat) (s : State) : Out :=
  let th := thrAt s core slot
  match th.park with
  | none => .next s
  | some q =>
    if !parkedFor th .sync || th.fewait == 0 || decide ((coreAt s core).time ≤ q.since + th.fewait.toNat) then .next s
    else if q.aux = 1 then
      .next (answer (modCore s core (fun k => { k with semWait := k.semWait.filter (fun w => w.2 != slot) })) core slot 1)
    else .next (answer s core slot (cellReply q true))

end Sys2Proof.Machine
end

