-- ==== Sys2Proof/Machine/Float.lean ====
section
/-!
DEFINITION. The floating-point operations of FPS, VFP, VCMP, VRED and VDOT on codes of FP32, FP16 and BF16 (R114, R139 to
R147): each is one rounding of the exact result.
-/

namespace Sys2Proof.Machine

/-- NV when one of the values signals. -/
def sigFlags (l : List FVal) : Flags := if l.any FVal.isSig then fNV else 0

/-- The sum of exact terms rounded once; a zero sum takes its sign as R114 gives (log 19, DEDUCED). -/
def sumTerms (f : Ieee) (mode : Mode) (l : List (Bool × Nat × Int)) : Nat × Flags :=
  let lo := l.foldl (fun x t => min x t.2.2) (l.headD (false, 0, 0)).2.2
  let v := l.foldl (fun acc t => acc + scaled t.1 t.2.1 t.2.2 lo) (0 : Int)
  if v = 0 then
    let allNeg := l.all (fun t => t.1 && t.2.1 == 0)
    let allPos := l.all (fun t => !t.1 && t.2.1 == 0)
    (f.sign (if allNeg && !l.isEmpty then true else if allPos then false else mode == 2), 0)
  else f.round mode (decide (v < 0)) v.natAbs lo

/-- a + b (R114). -/
def addVal (f : Ieee) (mode : Mode) (a b : FVal) : Nat × Flags :=
  match a, b with
  | .nan x, b => (f.nan, sigFlags [.nan x, b])
  | a, .nan y => (f.nan, sigFlags [a, .nan y])
  | .inf x, .inf y => if x = y then (f.inf x, 0) else (f.nan, fNV)
  | .inf x, _ => (f.inf x, 0)
  | _, .inf y => (f.inf y, 0)
  | .fin n m e, .fin k p q => sumTerms f mode [(n, m, e), (k, p, q)]

/-- a × b (R114). -/
def mulVal (f : Ieee) (mode : Mode) (a b : FVal) : Nat × Flags :=
  if a.isNan || b.isNan then (f.nan, sigFlags [a, b])
  else
    let n := a.neg != b.neg
    match a, b with
    | .fin _ m e, .fin _ p q => f.round mode n (m * p) (e + q)
    | _, _ => if a.isZero || b.isZero then (f.nan, fNV) else (f.inf n, 0)

/-- 0 and an infinity, whose product is invalid. -/
def zeroInf (a b : FVal) : Bool :=
  match a, b with
  | .inf _, b => b.isZero
  | a, .inf _ => a.isZero
  | _, _ => false

/-- a × b + c, rounded once (R114). -/
def fmaVal (f : Ieee) (mode : Mode) (a b c : FVal) : Nat × Flags :=
  if zeroInf a b then (f.nan, fNV)
  else if a.isNan || b.isNan || c.isNan then (f.nan, sigFlags [a, b, c])
  else
    let n := a.neg != b.neg
    match a, b, c with
    | .fin _ m e, .fin _ p q, .fin k r g => sumTerms f mode [(n, m * p, e + q), (k, r, g)]
    | .fin _ _ _, .fin _ _ _, c => (f.inf c.neg, 0)
    | _, _, .inf k => if n = k then (f.inf n, 0) else (f.nan, fNV)
    | _, _, _ => (f.inf n, 0)

/-- The smaller or larger of two codes: a number beats a NaN, -0 lies below +0 (R114). -/
def minMax (f : Ieee) (max : Bool) (x y : Nat) : Nat × Flags :=
  let a := f.decode x
  let b := f.decode y
  let fl := sigFlags [a, b]
  if a.isNan && b.isNan then (f.nan, fl)
  else if a.isNan then (y, fl)
  else if b.isNan then (x, fl)
  else
    let less := a.lt b || (a.isZero && b.isZero && a.neg && !b.neg)
    (if less != max then x else y, fl)

/-- FADD, FSUB, FMUL, FFMA on codes. -/
def fadd (f : Ieee) (mode : Mode) (x y : Nat) : Nat × Flags := addVal f mode (f.decode x) (f.decode y)
def fsub (f : Ieee) (mode : Mode) (x y : Nat) : Nat × Flags := addVal f mode (f.decode x) (f.decode y).flip
def fmul (f : Ieee) (mode : Mode) (x y : Nat) : Nat × Flags := mulVal f mode (f.decode x) (f.decode y)
def ffma (f : Ieee) (mode : Mode) (x y z : Nat) : Nat × Flags := fmaVal f mode (f.decode x) (f.decode y) (f.decode z)

/-- FCMPEQ: NV only for a signalling NaN (R114). -/
def fcmpEq (f : Ieee) (x y : Nat) : Bool × Flags :=
  let a := f.decode x
  let b := f.decode y
  (a.eq b, sigFlags [a, b])

/-- FCMPLT and FCMPLE: any NaN gives 0 and sets NV (R114). -/
def fcmpLess (f : Ieee) (orEq : Bool) (x y : Nat) : Bool × Flags :=
  let a := f.decode x
  let b := f.decode y
  if a.isNan || b.isNan then (false, fNV) else (a.lt b || (orEq && a.eq b), 0)

/-- FSGN: the magnitude of a with b's sign, its opposite, or the XOR of both signs (R114). -/
def fsgn (f : Ieee) (kind : Nat) (x y : Nat) : Nat × Flags :=
  let a := f.decode x
  let top := 2 ^ (f.width - 1)
  let sx := x / top % 2
  let sy := y / top % 2
  let s := if kind = 0 then sy else if kind = 1 then 1 - sy else (sx + sy) % 2
  if a.isNan then (f.nan, sigFlags [a]) else (s * top + x % top, 0)

/-- The binary8 dot product: d and the products of selected pairs, one rounding to FP32 (R147). -/
def dotVal (mode : Mode) (d : FVal) (pairs : List (FVal × FVal)) : Nat × Flags :=
  let inv := pairs.any (fun p => zeroInf p.1 p.2)
  let nan := d.isNan || pairs.any (fun p => p.1.isNan || p.2.isNan)
  if inv || nan then (fp32.nan, if inv then fNV else sigFlags [d])
  else
    let terms := d :: pairs.map (fun p => match p.1, p.2 with
      | .fin n m e, .fin k q g => .fin ((n != k) && m != 0 && q != 0) (m * q) (e + g)
      | a, b => .inf (a.neg != b.neg))
    let infs := terms.filterMap (fun v => match v with
      | .inf n => some n
      | _ => none)
    match infs with
    | n :: r => if r.all (· == n) then (fp32.inf n, 0) else (fp32.nan, fNV)
    | [] => sumTerms fp32 mode (terms.filterMap (fun v => match v with
      | .fin n m e => some (n, m, e)
      | _ => none))

end Sys2Proof.Machine
end

