-- ==== Sys2Proof/Machine/Lanes.lean ====
section
/-!
DEFINITION. Lanes of vectors (R132 to R136, R94): reading and replacing lanes, the two uses of a mask, elementwise operations.
-/

namespace Sys2Proof.Machine

/-- The vector width of the thread: 128 bits, 256 in a gang (R132). -/
def vlen (s : State) : Nat := if ganged s then 256 else 128

/-- The lane count of a format. -/
def laneCount (s : State) (w : Nat) : Nat := vlen s / w

/-- Lane i of a vector, w bits wide. -/
def lane (v : W256) (w i : Nat) : Nat := v.toNat / 2 ^ (w * i) % 2 ^ w

/-- The vector with lane i replaced. -/
def setLane (v : W256) (w i x : Nat) : W256 :=
  let m : W256 := BitVec.ofNat 256 ((2 ^ w - 1) * 2 ^ (w * i))
  (v &&& ~~~m) ||| BitVec.ofNat 256 (x % 2 ^ w * 2 ^ (w * i))

/-- A vector from its lanes, lane 0 first. -/
def packLanes (w : Nat) : List Nat → Nat
  | [] => 0
  | x :: r => x % 2 ^ w + 2 ^ w * packLanes w r

/-- Lane i is selected by a mask. -/
def on (m : BitVec 32) (i : Nat) : Bool := m.getLsbD i

/-- The old lanes of a vector destination: zero when it is a port, which is not popped for them (R135). -/
def oldV (s : State) (vd : Reg) : W256 := if vd.toNat < 28 then readV s vd else 0

/-- A write under a write mask: the active lanes of n take new values, the others keep theirs (R134). -/
def mergeLanes (old : W256) (w n : Nat) (m : BitVec 32) (f : Nat → Nat) : W256 :=
  BitVec.ofNat 256 (packLanes w ((List.range n).map (fun i => if on m i then f i else lane old w i)))

/-- The flags of the active lanes (R136). -/
def orFlags (n : Nat) (m : BitVec 32) (f : Nat → Flags) : Flags :=
  (List.range n).foldl (fun a i => if on m i then a ||| f i else a) 0

/-- An elementwise operation without flags (R134). -/
def mapLanes (s : State) (vd : Reg) (m : MaskNo) (w : Nat) (f : Nat → Nat) : Out :=
  .next (writeV s vd (mergeLanes (oldV s vd) w (laneCount s w) (readM s m) f) (laneBytes w (readM s m)))

/-- An elementwise operation with flags (R134, R136). -/
def mapLanesF (s : State) (vd : Reg) (m : MaskNo) (w : Nat) (f : Nat → Nat × Flags) : Out :=
  let n := laneCount s w
  let k := readM s m
  .next (addFlags (writeV s vd (mergeLanes (oldV s vd) w n k (fun i => (f i).1)) (laneBytes w k)) (orFlags n k (fun i => (f i).2)))

/-- A comparison into a mask: bits of lanes below n become the result under the mask, zero elsewhere; the others stay (R140). -/
def cmpLanes (s : State) (md : MaskNo) (m : MaskNo) (w : Nat) (f : Nat → Bool × Flags) : Out :=
  let n := laneCount s w
  let k := readM s m
  let old := readM s md
  let b := (List.range n).foldl (fun (a : Nat) i => if on k i && (f i).1 then a + 2 ^ i else a) 0
  let keep : BitVec 32 := old &&& ~~~(BitVec.ofNat 32 (2 ^ n - 1))
  .next (addFlags (writeM s md (keep ||| BitVec.ofNat 32 b)) (orFlags n k (fun i => (f i).2)))

/-- The rounding mode of the thread (R42). -/
def myMode (s : State) : Mode := (was s).rm

end Sys2Proof.Machine
end

