-- ==== Sys2Proof/Machine/BlockSum.lean ====
section
/-!
DEFINITION. Block sums: BSALIGN, SCACC and BSNORM (R47, R50, R51, R207 to R210).
-/

namespace Sys2Proof.Machine

/-- A field of a number as a signed integer. -/
def signedField (v lo n : Nat) : Int := (BitVec.ofNat n (v / 2 ^ lo)).toInt

/-- I and E of a BS64 value (R47). -/
def bsI (v : Nat) : Int := signedField v 24 40
def bsE (v : Nat) : Int := signedField v 0 16

/-- AlignDown: the magnitude rounded to nearest, ties to even (R50). -/
def alignDown (i : Int) (d : Nat) : Int × Bool :=
  let (q, lost) := cut 0 false i.natAbs d
  (if i < 0 then -(q : Int) else q, lost)

/-- One fold of an arrival into a running pair, with its flags (R50). -/
def bsFold (ir er ia ea : Int) : Int × Int × Flags :=
  let (t, e, lost) :=
    if ea = er then (ir + ia, er, false)
    else if ea < er then
      let (q, l) := alignDown ia (er - ea).toNat
      (ir + q, er, l)
    else
      let (q, l) := alignDown ir (ea - er).toNat
      (q + ia, ea, l)
  let top : Int := 2 ^ 63 - 1
  let f : Flags := if lost then fNX else 0
  if top < t then (top, e, f ||| fOF ||| fNX)
  else if t < -top then (-top, e, f ||| fOF ||| fNX)
  else (t, e, f)

/-- The exponent of an empty running pair (R208). -/
def emptyPair : Nat := 2 ^ 63

/-- Two 64-bit lanes from a pair of integers. -/
def pairLanes (i e : Int) : Nat := wrapTo 64 i + 2 ^ 64 * wrapTo 64 e

/-- BSALIGN on one half of a register: the new half and its flags (R208). -/
def bsAlign (d a : Nat) : Nat × Flags :=
  let ia := signedField a 0 64
  let ea := signedField a 64 16
  if d / 2 ^ 64 % 2 ^ 64 = emptyPair then (pairLanes ia ea, 0)
  else
    let (i, e, f) := bsFold (signedField d 0 64) (signedField d 64 16) ia ea
    (pairLanes i e, f)

/-- The halves of a vector that compute: one, or two in a gang (R207). -/
def halves (s : State) : Nat := if ganged s then 2 else 1

/-- Half h of a vector. -/
def half (v : W256) (h : Nat) : Nat := lane v 128 h

/-- A result of each half, with its flags (R207); bytes names the bytes of a shared register that are written (R135). -/
def byHalves (s : State) (vd : Reg) (f : Nat → Nat × Flags) (bytes : Nat := 0xFFFF) : Out :=
  let l := (List.range (halves s)).map f
  let v := (List.zip (List.range l.length) l).foldl (fun (w : W256) p => setLane w 128 p.1 p.2.1) 0
  .next (addFlags (writeV s vd v bytes) (l.foldl (fun a p => a ||| p.2) 0))

/-- BSALIGN (R208). -/
def execBsalign (vd va : Reg) (s : State) : Out :=
  let d := oldV s vd
  let a := readV s va
  byHalves s vd (fun h => bsAlign (half d h) (half a h))

/-- FP32 lanes of one half replaced where the mask selects them. -/
def lanes32At (old : Nat) (m : BitVec 32) (h : Nat) (l : List Nat) (f : Nat → Nat × Flags) : Nat × Flags :=
  l.foldl (fun (acc : Nat × Flags) j =>
    if on m (4 * h + j) then
      let (v, g) := f j
      (acc.1 - acc.1 / 2 ^ (32 * j) % 2 ^ 32 * 2 ^ (32 * j) + v * 2 ^ (32 * j), acc.2 ||| g)
    else acc) (old, 0)

/-- One lane of SCACC: lane + I × 2^E × s, rounded once (R51). -/
def scaccLane (mode : Mode) (word scale old : Nat) : Nat × Flags :=
  let i := bsI word
  fmaVal fp32 mode (.fin (decide (i < 0)) i.natAbs (bsE word)) (fp32.decode scale) (fp32.decode old)

/-- SCACC into lanes base and base + 1 of each half (R209). -/
def scacc (s : State) (vd va vb : Reg) (m : MaskNo) (base : Nat) : Out :=
  let d := oldV s vd
  let a := readV s va
  let b := readV s vb
  let k := readM s m
  byHalves s vd (fun h => lanes32At (half d h) k h [base, base + 1] (fun j =>
    scaccLane (myMode s) (lane a 64 (2 * h + (j - base))) (lane b 32 (4 * h + j)) (half d h / 2 ^ (32 * j) % 2 ^ 32)))
    (laneBytes 32 (k &&& 0x33 <<< base))

/-- SCACC.L (R209). -/
def execScaccL (vd va vb : Reg) (m : MaskNo) (s : State) : Out := scacc s vd va vb m 0

/-- SCACC.H (R209). -/
def execScaccH (vd va vb : Reg) (m : MaskNo) (s : State) : Out := scacc s vd va vb m 2

/-- I × 2^E as FP32, rounded once; zero is +0 (R210). -/
def bsRound (mode : Mode) (i e : Int) : Nat × Flags := fp32.round mode (decide (i < 0)) i.natAbs e

/-- BSNORM into lanes base and base + 1 of each half (R210). -/
def bsnorm (s : State) (vd va : Reg) (m : MaskNo) (base : Nat) : Out :=
  let d := oldV s vd
  let a := readV s va
  let k := readM s m
  byHalves s vd (fun h => lanes32At (half d h) k h [base, base + 1] (fun j =>
    let w := lane a 64 (2 * h + (j - base))
    bsRound (myMode s) (bsI w) (bsE w)))
    (laneBytes 32 (k &&& 0x33 <<< base))

/-- BSNORM.L (R210). -/
def execBsnormL (vd va : Reg) (m : MaskNo) (s : State) : Out := bsnorm s vd va m 0

/-- BSNORM.H (R210). -/
def execBsnormH (vd va : Reg) (m : MaskNo) (s : State) : Out := bsnorm s vd va m 2

/-- BSNORM.R: lane 0 of each half from a running pair, +0 when it is empty (R210). -/
def execBsnormR (vd va : Reg) (m : MaskNo) (s : State) : Out :=
  let d := oldV s vd
  let a := readV s va
  let k := readM s m
  byHalves s vd (fun h => lanes32At (half d h) k h [0] (fun _ =>
    if half a h / 2 ^ 64 % 2 ^ 64 = emptyPair then (0, 0)
    else bsRound (myMode s) (signedField (half a h) 0 64) (signedField (half a h) 64 16)))
    (laneBytes 32 (k &&& 0x11))

end Sys2Proof.Machine
end

