-- ==== Sys2Proof/Machine/Branch.lean ====
section
/-!
DEFINITION. Branches and jumps (R83, R117 to R120).
-/

namespace Sys2Proof.Machine

/-- Control passes to a target after the bundle (R79). -/
def jumpTo (s : State) (target : W64) : State := modMe s (fun th => { th with pc := target })

/-- A conditional branch (R117). -/
def branch (s : State) (ra rb : Reg) (off : BitVec 14) (p : W64 → W64 → Bool) : Out :=
  if p (readX s ra) (readX s rb) then .next (jumpTo s (s.iss.pc + 8 * off.signExtend 64)) else .next s

/-- BEQ (R117). -/
def execBeq (ra rb : Reg) (off : BitVec 14) (s : State) : Out := branch s ra rb off (fun a b => a == b)

/-- BNE (R117). -/
def execBne (ra rb : Reg) (off : BitVec 14) (s : State) : Out := branch s ra rb off (fun a b => a != b)

/-- BLT (R117). -/
def execBlt (ra rb : Reg) (off : BitVec 14) (s : State) : Out := branch s ra rb off (fun a b => a.slt b)

/-- BGE (R117). -/
def execBge (ra rb : Reg) (off : BitVec 14) (s : State) : Out := branch s ra rb off (fun a b => !a.slt b)

/-- BLTU (R117). -/
def execBltu (ra rb : Reg) (off : BitVec 14) (s : State) : Out := branch s ra rb off (fun a b => a.ult b)

/-- BGEU (R117). -/
def execBgeu (ra rb : Reg) (off : BitVec 14) (s : State) : Out := branch s ra rb off (fun a b => !a.ult b)

/-- The target of BRL: off23 bundles, or the extension's in the long form (R118). -/
def brlTarget (s : State) (off : BitVec 23) (ext : Ext) : W64 :=
  s.iss.pc + 8 * (match ext with
    | some e => e.signExtend 64
    | none => off.signExtend 64)

/-- The link register x8 receives PC + 8 (R118). -/
def writeLink (s : State) : State := writeX s 8 (s.iss.pc + 8)

/-- BR (R118). -/
def execBr (off : BitVec 23) (ext : Ext) (s : State) : Out := .next (jumpTo s (brlTarget s off ext))

/-- CALL (R118). -/
def execCall (off : BitVec 23) (ext : Ext) (s : State) : Out := .next (jumpTo (writeLink s) (brlTarget s off ext))

/-- JR: a misaligned target traps with no effect (R83, R119). -/
def execJr (ra : Reg) (s : State) : Out :=
  let a := readX s ra
  if bits a 0 3 != 0 then trapC s cMISALIGNED a else .next (jumpTo s a)

/-- CALLR (R83, R119). -/
def execCallr (ra : Reg) (s : State) : Out :=
  let a := readX s ra
  if bits a 0 3 != 0 then trapC s cMISALIGNED a else .next (jumpTo (writeLink s) a)

end Sys2Proof.Machine
end

