-- ==== Sys2Proof/Machine/Mtx.lean ====
section
/-!
DEFINITION. The cluster array: LEASE, LREL, MHSET, ROWDONE (R188 to R193, R202, R203), its commands, chunks, drains and
status (R194 to R205), and the block sum of a chunk (R48).
-/

namespace Sys2Proof.Machine

/-! ## The lease (R192) -/

/-- LEASE. -/
def execLease (s : State) : Out :=
  once s none 0 0 0 0 (fun s =>
    let c := myCore s
    let t := mySlot s
    let k := clusterOf c
    let a := (cluAt s k).arr
    if holdsLease s c t then .next s
    else if a.holder.isNone && a.waiters.isEmpty && a.frozen.isNone then .next (grantLease s k (leaseKey c t))
    else if a.waiters.any (fun w => w.1 == leaseKey c t) then hold s .lease
    else hold (modArr s k (fun a => { a with waiters := a.waiters ++ [(leaseKey c t, false)] })) .lease)

/-- LREL. -/
def execLrel (s : State) : Out := once s none 0 0 0 0 (fun s => .next (leaseRelease s (myCore s) (mySlot s)))

/-- LEASE_EXPIRY: a grant whose commands or cycles are used up reloads, or passes on (R189). -/
def execLeaseExpiry (cluster : Nat) (s : State) : Out := .next (leaseUsed s cluster)

/-! ## Handlers and landing slots (R202, R203) -/

/-- MHSET (R202). -/
def execMhset (ra rb : Reg) (s : State) : Out :=
  let pc := readX s ra
  let w := readX s rb
  let n := bits w 20 6
  let base := bits w 0 20
  once s none pc 8 0 w.toNat (fun s =>
    let c := myCore s
    if pc.toNat % 8 ≠ 0 then trapC s cMISALIGNED pc
    else if base % 1024 ≠ 0 then trapC s cMISALIGNED (BitVec.ofNat 64 base)
    else if n = 0 then .next (modCore s c (fun k => { k with mhset := none }))
    else
      let fits := match queueArea (coreAt s c) with
        | some a => decide (base + n * 1024 ≤ a)
        | none => false
      if fits then .next (modCore s c (fun k => { k with mhset := some ⟨pc, n, base, (me s).ctx⟩ }))
      else trapC s cPROTECTION (BitVec.ofNat 64 base))

/-- The address of a landing slot: the window 0xE pointer that its core mints (R64, R201). -/
def slotAddr (c off : Nat) : W64 := BitVec.ofNat 64 (0xE * 2 ^ 44 + c * 2 ^ 31 + off)

/-- ROWDONE: a release of core scope; the slot is free and the handler's claim on its row ends. It waits for the thread's earlier loose reads
(R203, R228), and its stamp reaches the array, from which the next handler of the row has it (R29). -/
def execRowdone (ra : Reg) (s : State) : Out :=
  let a := readX s ra
  once s none a 0 0 0 (fun s =>
    let c := myCore s
    match (coreAt s c).landed.find? (fun l => slotAddr c l.off == a) with
    | none => trapC s cPROTECTION a
    | some l =>
      let s := releaseSide s (.rel .core)
      if releaseWaits s .core then hold s .access
      else
      let s := carry s (.core c) (.clu l.cluster)
      let s := modCore s c (fun k => { k with
        landed := k.landed.filter (fun x => x.off != l.off)
        threads := k.threads.map (fun q => if q.2.uid = l.uid then (q.1, { q.2 with row := none }) else q) })
      .next (modArr s l.cluster (fun a => { a with openRow := a.openRow.filter (fun o => o.2.2 != l.uid) })))

/-! ## Commands (R194, R195) -/

/-- Fields of a command. -/
def acAfmt (m : ArrayCmd) : Nat := nbits m.bits.toNat 0 6
def acBfmt (m : ArrayCmd) : Nat := nbits m.bits.toNat 8 6
def acEw (m : ArrayCmd) : Int := signedField m.bits.toNat 16 16
def acChunk (m : ArrayCmd) : Nat := nbits m.bits.toNat 32 7
def acNch (m : ArrayCmd) : Nat := nbits m.bits.toNat 40 16
def acAcc (m : ArrayCmd) : Bool := m.bits.getLsbD 56
def acDall (m : ArrayCmd) : Bool := m.bits.getLsbD 57
def acNotify (m : ArrayCmd) : Bool := m.bits.getLsbD 58
def acHword (m : ArrayCmd) : Nat := nbits m.bits.toNat 96 32
def acTag (m : ArrayCmd) : W64 := BitVec.ofNat 64 (nbits m.bits.toNat 128 64)

/-- The cores of the drain set, ascending, on a cluster. -/
def acCores (m : ArrayCmd) (k : Nat) : List Nat := ((List.range 32).filter (fun i => m.bits.getLsbD (64 + i))).map (fun i => k * 32 + i)

/-- A format the array takes (R195). -/
def arrayFmt (code : Nat) : Option Fmt :=
  match fmtOf code with
  | some (.b8 s i p) => some (.b8 s i p)
  | some .int8 => some .int8
  | some .uint8 => some .uint8
  | some .fp16 => some .fp16
  | some .bf16 => some .bf16
  | _ => none

/-- A core can take rows of a context's command (R195). -/
def takesRows (s : State) (ctx c : Nat) : Bool :=
  liveFor s c ctx && accBanks (coreAt s c).part != 0 && (match (coreAt s c).mhset with
    | some h => h.ctx == ctx
    | none => false)

/-- A malformed command (R195). -/
def arrayBad (s : State) (k : Nat) (m : ArrayCmd) : Bool :=
  let n := m.bits.toNat
  (arrayFmt (acAfmt m)).isNone || (arrayFmt (acBfmt m)).isNone || decide (acChunk m < 4) || decide (64 < acChunk m) || acNch m == 0
    || (acCores m k).isEmpty || nbits n 192 64 != 0 || nbits n 59 5 != 0 || nbits n 39 1 != 0 || nbits n 14 2 != 0
    || nbits n 6 2 != 0 || (acCores m k).any (fun c => !takesRows s m.ctx c)

/-- The array sends a message about a command, with its TAG as operand (R195, R205). -/
def arrayMsg (s : State) (k : Nat) (m : ArrayCmd) (cause : Nat) : State := supEngine s k m.ctx m.core m.slot cause 0 (acTag m)

/-- ARRAY_COMMAND_CHECK: a command at the head of the queue of an array that runs none is checked (R195). -/
def execArrayCommandCheck (cluster : Nat) (s : State) : Out :=
  let a := (cluAt s cluster).arr
  if a.cur.isSome || a.frozen.isSome then .next s
  else match a.cmdq with
    | [] => .next s
    | m :: r =>
      let s := modArr s cluster (fun a => { a with cmdq := r })
      if arrayBad s cluster m then
        let s := arrayMsg s cluster m cPROTECTION
        let s := if acNotify m then modArr s cluster (fun a => { a with dones := a.dones ++ [⟨m, false, cPROTECTION, true⟩] }) else s
        .next (wakeUnits s m.core)
      else .next (modArr s cluster (fun a => { a with cur := some (m, 0, 0) }))

/-! ## Chunks (R48, R197 to R199) -/

/-- The greatest magnitude of a sum (R47). -/
def sumTop : Int := 2 ^ 39 - 1

/-- The contribution of one product, in units of 2^Ew, and whether it sets ovf (R48). -/
def contribution (ew : Int) (a b : FVal) : Int × Bool :=
  let neg := a.neg != b.neg
  let signed := fun (i : Int) => if neg then -i else i
  if a.isNan || b.isNan then (0, true)
  else match a, b with
    | .fin _ m e, .fin _ p f =>
      let q : Int := (roundAt 0 false (m * p) (e + f) ew).1
      if sumTop < q then (signed sumTop, true) else (signed q, false)
    | _, _ => if a.isZero || b.isZero then (0, true) else (signed sumTop, true)

/-- A sum held to the range of R47, and whether that changed it. -/
def clampSum (x : Int) : Int × Bool := if sumTop < x then (sumTop, true) else if x < -sumTop then (-sumTop, true) else (x, false)

/-- One row of a buffer and one value of k: the sums take the products of a with each element of b. -/
def rowStep (ew : Int) (a : FVal) (b : List FVal) (row : List Int) : List Int × Bool :=
  let ps := b.map (contribution ew a)
  ((List.zip row ps).map (fun p => p.1 + p.2.1), ps.any (·.2))

/-- One value of k on every row from i on: the new rows, and the rows with overflow. -/
def rowsStep (ew : Int) (b : List FVal) : Nat → List FVal → List Int → List Int × List Nat
  | _, [], _ => ([], [])
  | i, a :: r, buf =>
    let (row, o) := rowStep ew a b (buf.take 128)
    let (rest, os) := rowsStep ew b (i + 1) r (buf.drop 128)
    (row ++ rest, if o then i :: os else os)

/-- Union of two rising lists. -/
def union (a b : List Nat) : List Nat := b.foldl (fun l x => insertRising x l) a

/-- Values of k consumed one after another: the sums and the rows with overflow. -/
def kSteps (ew : Int) (fa fb : Fmt) : Nat → List FifoElem → List FifoElem → List Int → List Nat → List Int × List Nat
  | 0, _, _, buf, ov => (buf, ov)
  | n + 1, la, lb, buf, ov =>
    let va := (la.take 128).map (fun e => fmtValue fa (e.bits % 2 ^ fa.width))
    let vb := (lb.take 128).map (fun e => fmtValue fb (e.bits % 2 ^ fb.width))
    let (buf, o) := rowsStep ew vb 0 va buf
    kSteps ew fa fb n (la.drop 128) (lb.drop 128) buf (union ov o)

/-- A buffer of zeros. -/
def zeroBuf : List Int := List.replicate 16384 0

/-- The contents of a buffer; an empty one holds zeros. -/
def bufOf (a : MtxArray) (b : Bool) : List Int :=
  let l := if b then a.buf1 else a.buf0
  if l = [] then zeroBuf else l

/-- A buffer replaced. -/
def setBuf (a : MtxArray) (b : Bool) (l : List Int) : MtxArray := if b then { a with buf1 := l } else { a with buf0 := l }

/-- The buffer of the next chunk: the one the previous chunk did not use (R199). -/
def nextBuf (a : MtxArray) : Bool := match a.lastBuf with
  | some b => !b
  | none => false

/-- The held values that a chunk starts from (R198). -/
def heldBuf (a : MtxArray) (m : ArrayCmd) (q : Nat) : List Int :=
  match a.lastBuf with
  | some b => if acAcc m && (q != 0 || a.lastCtx == m.ctx) then bufOf a b else zeroBuf
  | none => zeroBuf

/-- The array consumes what stands in both FIFOs for the chunk under way (R197). -/
def consume (a : MtxArray) (m : ArrayCmd) (q k : Nat) : MtxArray :=
  match arrayFmt (acAfmt m), arrayFmt (acBfmt m) with
  | some fa, some fb =>
    let b := nextBuf a
    let n := min (64 * acChunk m - k) (min (a.fifoA.length / 128) (a.fifoB.length / 128))
    let start := if k = 0 then heldBuf a m q else bufOf a b
    let (buf, ov) := kSteps (acEw m) fa fb n a.fifoA a.fifoB start (if k = 0 then [] else a.rowOvf)
    { setBuf a b buf with fifoA := a.fifoA.drop (128 * n), fifoB := a.fifoB.drop (128 * n), rowOvf := ov, cur := some (m, q, k + n) }
  | _, _ => a

/-- Rows whose sums left the range at the end of a chunk (R48). -/
def clampRows (buf : List Int) : List Nat :=
  (List.range 128).filter (fun i => ((buf.drop (128 * i)).take 128).any (fun x => (clampSum x).2))

/-- The chunk is drained (R198). -/
def drains (m : ArrayCmd) (q : Nat) : Bool := acDall m || q + 1 == acNch m

/-- A chunk that has consumed its values of k ends: its buffer goes to a drain when it is to drain (R198, R199) (log 43, DEDUCED). -/
def endChunk (a : MtxArray) (m : ArrayCmd) (q : Nat) : MtxArray :=
  let b := nextBuf a
  let buf := bufOf a b
  let ov := union (clampRows buf) a.rowOvf
  let a := { setBuf a b (buf.map (fun x => (clampSum x).1)) with
    lastBuf := some b, lastCtx := m.ctx, rowOvf := [], cur := if q + 1 = acNch m then none else some (m, q + 1, 0) }
  if drains m q then
    { a with drain := some ⟨b, m, q, 0, ov⟩
             dones := if a.dones.any (fun d => d.cmd.id == m.id) then a.dones else a.dones ++ [{ cmd := m }] }
  else a

/-- ARRAY_CHUNK_COMPLETE: the command under way consumes what its FIFOs hold; a chunk that has all of its values of k ends when the
drain before it has landed its rows (R197 to R199). -/
def execArrayChunkComplete (cluster : Nat) (s : State) : Out :=
  let a := (cluAt s cluster).arr
  if a.frozen.isSome then .next s
  else match a.cur with
    | none => .next s
    | some (m, q, k) =>
      let busy := match a.drain with
        | some d => d.buf == nextBuf a
        | none => false
      if busy then .next s
      else
        let a := consume a m q k
        let full := match a.cur with
          | some (_, _, n) => n == 64 * acChunk m
          | none => false
        let a := if full && (a.drain.isNone || !drains m q) then endChunk a m q else a
        .next (modArr s cluster (fun _ => a))

/-! ## Drains (R196, R200, R201, R205) -/

/-- A command's rows have all been released. -/
def rowsReleased (a : MtxArray) (id : Nat) : Bool := a.openRow.all (fun o => o.1 != id)

/-- The result queue of a cluster's array is full; entries that may return to it count (R82, R196). -/
def resFull (s : State) (k : Nat) : Bool :=
  decide (8 ≤ (coresOfCluster k).foldl (fun n c => n + heldPops s c 5 0) (cluAt s k).arr.resq.length)

/-- A status entry waits for room in the result queue (R196). -/
def statusWaits (s : State) (k : Nat) : Bool :=
  let a := (cluAt s k).arr
  resFull s k && a.dones.any (fun d => d.ready && acNotify d.cmd && rowsReleased a d.cmd.id)

/-- A drain may start its first row (R196). -/
def drainMayStart (s : State) (k : Nat) (d : Drain) : Bool :=
  d.row != 0 || (!statusWaits s k && (!resFull s k || !(d.chunk == 0 || !acDall d.cmd)))

/-- The status record of a command changed. -/
def modDone (a : MtxArray) (id : Nat) (f : ArrayDone → ArrayDone) : MtxArray :=
  { a with dones := a.dones.map (fun d => if d.cmd.id = id then f d else d) }

/-- The drain goes on to its next row; after the last row of the last chunk the command is drained (R200). -/
def nextRow (s : State) (k : Nat) (d : Drain) : State :=
  if d.row + 1 < 128 then modArr s k (fun a => { a with drain := some { d with row := d.row + 1 } })
  else
    let s := modArr s k (fun a => { a with drain := none })
    if d.chunk + 1 = acNch d.cmd then
      let s := modArr s k (fun a => modDone a d.cmd.id (fun x => { x with ready := true }))
      let s := if acNotify d.cmd then s
        else modArr s k (fun a => { a with dones := a.dones.filter (fun x => x.cmd.id != d.cmd.id) })
      wakeUnits s d.cmd.core
    else s

/-- The lowest free landing slot of a core, as a scratchpad offset (R202). -/
def freeLanding (k : Core) : Option Nat :=
  match k.mhset with
  | none => none
  | some h => ((List.range h.slots).map (fun i => h.base + 1024 * i)).find? (fun o => !k.landed.any (fun l => l.off == o))

/-- The BS64 word of a sum (R47). -/
def bs64 (ew : Int) (i : Int) : Nat := wrapTo 40 i * 2 ^ 24 + wrapTo 16 ew

/-- A line of a landing slot is copied now (R347). -/
def landingHeld (s : State) (c off : Nat) : Bool := (List.range 16).any (fun i => lineHeld s (scratchLoc c (off + 64 * i)))

/-- A row written to its slot (R201). -/
def writeRow (s : State) (c off : Nat) (ew : Int) (row : List Int) : State :=
  (List.zip (List.range row.length) row).foldl (fun s p => storeAt none s (scratchLoc c (off + 8 * p.1)) 8 (bs64 ew p.2)) s

/-- A row lands: its slot is written and its handler begins (R201). -/
def landRow (s : State) (k c t off pc : Nat) (d : Drain) : State :=
  let a := (cluAt s k).arr
  let m := d.cmd
  let s := writeRow s c off (acEw m) (((bufOf a d.buf).drop (128 * d.row)).take 128)
  let ov := d.ovf.contains d.row
  let (id, s) := takeId s m.ctx
  let (uid, s) := withFresh s
  let regs := [BitVec.ofNat 64 d.row, BitVec.ofNat 64 d.chunk, slotAddr c off, BitVec.ofNat 64 ((if ov then 2 ^ 63 else 0) + acHword m)]
  let s := setThr s c t { slot := .loading, uid := uid, ctx := m.ctx, pc := BitVec.ofNat 64 pc, x := regsOf regs, seat := mkSeat s.number c
                          privid := BitVec.ofNat 20 id, hbase := (ctxAt s m.ctx).hbase, row := some ⟨off, d.row, d.chunk, m.id, k⟩ }
  let s := modCore (carry s (.clu k) (.core c)) c (fun x => { x with landed := x.landed ++ [⟨off, d.row, d.chunk, m.id, k, uid⟩] })
  modArr s k (fun a => modDone { a with openRow := a.openRow ++ [(m.id, d.row, uid)] } m.id (fun x => { x with ovf := x.ovf || ov }))

/-- A row bound for a core that left is discarded; the first one is reported (R205). -/
def dropRow (s : State) (k : Nat) (d : Drain) : State :=
  let told := (cluAt s k).arr.dones.any (fun x => x.cmd.id == d.cmd.id && x.cause == cPEERGONE)
  let s := if told then s else arrayMsg s k d.cmd cPEERGONE
  modArr s k (fun a => modDone a d.cmd.id (fun x => { x with cause := cPEERGONE }))

/-- ROW_LANDING: the next row of the drain lands, or is discarded, or waits for a landing slot, for a thread slot that is free in the sense
of R282, for the handler of its row, or for a line of its slot that is copied (R200, R205, R347). -/
def execRowLanding (cluster : Nat) (s : State) : Out :=
  let a := (cluAt s cluster).arr
  match a.drain with
  | none => .next s
  | some d =>
    let cs := acCores d.cmd cluster
    match cs[d.row % (max cs.length 1)]? with
    | none => .next s
    | some c =>
      if a.frozen.isSome || !drainMayStart s cluster d then .next s
      else if !liveFor s c d.cmd.ctx then .next (nextRow (dropRow s cluster d) cluster d)
      else if a.openRow.any (fun o => o.1 == d.cmd.id && o.2.1 == d.row) || (coreAt s c).stopping then .next s
      else match (coreAt s c).mhset, freeLanding (coreAt s c), idleSlot s d.cmd.ctx c with
        | some h, some off, some t =>
          if h.ctx = d.cmd.ctx ∧ !landingHeld s c off then .next (nextRow (landRow s cluster c t off h.pc.toNat d) cluster d) else .next s
        | _, _, _ => .next s

/-- The status entry of a command (R196). -/
def statusEntry (d : ArrayDone) : W128 :=
  BitVec.ofNat 128 ((acTag d.cmd).toNat + ((if d.ovf then 256 else 0) + d.cause) * 2 ^ 64)

/-- ARRAY_STATUS_PUSH: the status of a command whose rows have all been released enters the result queue when it has room (R196). -/
def execArrayStatusPush (cluster : Nat) (s : State) : Out :=
  let a := (cluAt s cluster).arr
  match a.dones.find? (fun d => d.ready && acNotify d.cmd && rowsReleased a d.cmd.id) with
  | none => .next s
  | some d =>
    if resFull s cluster ∨ a.frozen.isSome then .next s
    else .next (resultPush (modArr s cluster (fun a => { a with dones := a.dones.filter (fun x => x.cmd.id != d.cmd.id) })) cluster (statusEntry d))

end Sys2Proof.Machine
end

