-- ==== Sys2Proof/Machine/Transc.lean ====
section
/-!
DEFINITION. The functions of the special-function unit in FP32 (R45, R46). FRCP and FSQRT are correctly rounded; the other six
deliver one of the two FP32 values that bracket the exact result, which a rational enclosure finds and a free value
chooses (log 12, DESIGN CHOICE).
-/

namespace Sys2Proof.Machine

/-- Fractional bits of the fixed-point numbers that enclose a result. -/
def fixP : Nat := 512

/-- The number 1 in fixed point. -/
def fixOne : Nat := 2 ^ fixP

/-- k of x, with x evaluated first. -/
def forced {α : Type} (x : Nat) (k : Nat → α) : α :=
  match x with
  | 0 => k 0
  | y + 1 => k (y + 1)

/-- The integer square root, bit by bit from bit n - 1 downward. -/
def isqrtBits (m : Nat) : Nat → Nat → Nat
  | 0, r => r
  | n + 1, r => forced (if (r + 2 ^ n) * (r + 2 ^ n) ≤ m then r + 2 ^ n else r) (isqrtBits m n)

/-- The largest r with r × r at most m. -/
def isqrt (m : Nat) : Nat := isqrtBits m (bitLen m / 2 + 1) 0

/-- The sums of the even and of the odd terms of a series, from index i on: step gives the next factor from the index and the
last one, part the term of a factor. It stops at a factor of zero, and after n terms. -/
def series (step part : Nat → Nat → Nat) : Nat → Nat → Nat → Nat → Nat → Nat × Nat
  | 0, _, even, odd, _ => (even, odd)
  | n + 1, i, even, odd, t =>
    if t = 0 then (even, odd)
    else forced (step i t) (fun u => forced (i + 1) (fun j =>
      if i % 2 = 0 then forced (even + part i t) (fun e => series step part n j e odd u)
      else forced (odd + part i t) (fun o => series step part n j even o u)))

/-- All terms added. -/
def total (p : Nat × Nat) : Nat := p.1 + p.2

/-- Every second term subtracted. -/
def altern (p : Nat × Nat) : Nat := p.1 - p.2

/-- The even and odd terms of arctan and artanh of 1/k in fixed point. -/
def atanInv (k : Nat) : Nat × Nat := series (fun _ t => t / (k * k)) (fun i t => t / (2 * i + 1)) 400 0 0 0 (fixOne / k)

/-- ln 2 = 2 artanh(1/3), and π = 16 arctan(1/5) - 4 arctan(1/239). -/
def ln2 : Nat := 2 * total (atanInv 3)
def piFix : Nat := 16 * altern (atanInv 5) - 4 * altern (atanInv 239)

/-- e^y for 0 ≤ y < 1. -/
def expFix (y : Nat) : Nat := total (series (fun k t => t * y / fixOne / (k + 1)) (fun _ t => t) 150 0 0 0 fixOne)

/-- ln f for 1 ≤ f < 2, by artanh((f - 1)/(f + 1)). -/
def lnFix (f : Nat) : Nat :=
  forced ((f - fixOne) * fixOne / (f + fixOne)) (fun z => forced (z * z / fixOne) (fun z2 =>
    2 * total (series (fun _ t => t * z2 / fixOne) (fun i t => t / (2 * i + 1)) 200 0 0 0 z)))

/-- sin r or cos r for 0 ≤ r < 2: the alternating series from its first term and first index. -/
def trigFix (r first start : Nat) : Nat :=
  forced (r * r / fixOne) (fun r2 =>
    altern (series (fun i t => t * r2 / fixOne / ((start + 2 * i + 1) * (start + 2 * i + 2))) (fun _ t => t) 100 0 0 0 first))

/-- A dyadic m × 2^e in fixed point, cut below. -/
def toFix (m : Nat) (e : Int) : Nat := if 0 ≤ e + fixP then m * 2 ^ (e + fixP).toNat else m / 2 ^ (-(e + fixP)).toNat

/-- How far a fixed-point result may lie from the exact one. -/
def slack : Nat := 2 ^ 64

/-- The FP32 code of the largest value not above m × 2^e. -/
def floor32 (m : Nat) (e : Int) : Nat := (fp32.round 1 false m e).1

/-- A delivered result: a magnitude code, the sign, NX, and UF when it is tiny. -/
def inexact (n : Bool) (c : Nat) : Nat × Flags := (fp32.sign n + c, fNX ||| (if c < 2 ^ 23 then fUF else 0))

/-- One of the two FP32 values that bracket a fixed-point result. -/
def faithful (free n : Bool) (v : Nat) : Nat × Flags :=
  let c := floor32 (v - slack) (-fixP)
  inexact n (if free then c + 1 else c)

/-- One of a code and the code below it. -/
def below (free n : Bool) (c : Nat) : Nat × Flags := inexact n (if free then c else c - 1)

/-- An odd significand and its exponent. -/
def oddPart (m : Nat) (e : Int) : Nat × Int :=
  let k := ((List.range 64).find? (fun i => m.testBit i)).getD 0
  (m / 2 ^ k, e + k)

/-- 1.0 in FP32. -/
def one32 : Nat := 0x3F800000

/-- 2^x for finite nonzero x. -/
def exp2Fin (free n : Bool) (m : Nat) (e : Int) : Nat × Flags :=
  if 0 ≤ e || m % 2 ^ (-e).toNat == 0 then
    let k : Int := (if 0 ≤ e then m * 2 ^ (min e 64).toNat else m / 2 ^ (-e).toNat : Nat)
    let k := if n then -k else k
    if 128 ≤ k then (fp32.inf false, fOF ||| fNX)
    else if -149 ≤ k then (fp32.round 0 false 1 k).1 |> fun c => (c, 0)
    else if k = -150 then inexact false (if free then 1 else 0)
    else inexact false 0
  else
    let fl : Int := if n then -((m / 2 ^ (-e).toNat : Nat) : Int) - 1 else (m / 2 ^ (-e).toNat : Nat)
    let fr := toFix (if n then 2 ^ (-e).toNat - m % 2 ^ (-e).toNat else m % 2 ^ (-e).toNat) e
    if 128 ≤ fl then (fp32.inf false, fOF ||| fNX)
    else if fl < -150 then inexact false 0
    else
      forced fr (fun fr => forced (fr * ln2 / fixOne) (fun y => forced (expFix y) (fun v =>
        let c := floor32 (v - slack) (fl - fixP)
        inexact false (if free then c + 1 else c))))

/-- log2 of a positive finite number. -/
def log2Fin (free : Bool) (m : Nat) (e : Int) : Nat × Flags :=
  let (o, k) := oddPart m e
  if o = 1 then ((fp32.round 0 (decide (k < 0)) k.natAbs 0).1, 0)
  else
    let len := bitLen m
    let k : Int := e + (len : Int) - 1
    let f := toFix m (1 - (len : Int))
    forced f (fun f => forced (lnFix f * fixOne / ln2) (fun l =>
      let v : Int := k * (fixOne : Int) + l
      if v < 0 then forced v.natAbs (faithful free true) else forced v.natAbs (faithful free false)))

/-- 1/x of a finite nonzero number, correctly rounded. -/
def rcpFin (mode : Mode) (n : Bool) (m : Nat) (e : Int) : Nat × Flags :=
  let q := 2 ^ 64 / m
  let st := if 2 ^ 64 % m = 0 then 0 else 1
  fp32.round mode n (2 * q + st) (-65 - e)

/-- The square root of a positive finite number, correctly rounded. -/
def sqrtFin (mode : Mode) (m : Nat) (e : Int) : Nat × Flags :=
  let (m, e) := if e % 2 = 0 then (m, e) else (2 * m, e - 1)
  forced (isqrt (m * 2 ^ 64)) (fun r =>
    let st := if r * r = m * 2 ^ 64 then 0 else 1
    fp32.round mode false (2 * r + st) (e / 2 - 33))

/-- The reciprocal square root of a positive finite number. -/
def rsqFin (free : Bool) (m : Nat) (e : Int) : Nat × Flags :=
  let (o, k) := oddPart m e
  if o = 1 && k % 2 == 0 then ((fp32.round 0 false 1 (-(k / 2))).1, 0)
  else
    let (m, e) := if e % 2 = 0 then (m, e) else (2 * m, e - 1)
    forced (isqrt (2 ^ 256 / m)) (fun r =>
      let c := floor32 r (-128 - e / 2)
      inexact false (if free then c + 1 else c))

/-- tanh of a finite nonzero number, odd. -/
def tanhFin (free n : Bool) (m : Nat) (e : Int) (code : Nat) : Nat × Flags :=
  if 9 ≤ toFix m e / fixOne then inexact n one32
  else if toFix m e < fixOne / 2 ^ 12 then below free n code
  else
    let sq := fun (a : Nat) => a * a / fixOne
    forced (toFix m e * 2 / 32) (fun y => forced (expFix y) (fun x => forced (sq (sq (sq (sq (sq x))))) (fun ex =>
      forced ((ex - fixOne) * fixOne / (ex + fixOne)) (faithful free n))))

/-- The quadrant of a finite number and its rest, in fixed point (R45: the argument is reduced exactly). -/
def quadrant (m : Nat) (e : Int) : Nat × Nat :=
  forced (piFix / 2) (fun h => forced (toFix m e) (fun x => (x / h % 4, x % h)))

/-- sin or cos of a quadrant and rest: the magnitude and whether it is negative. -/
def sinQuad (q r : Nat) : Nat × Bool :=
  (forced r (fun r => if q % 2 = 0 then trigFix r r 1 else trigFix r fixOne 0), decide (2 ≤ q))

/-- sin of a finite nonzero number, odd. -/
def sinFin (free n : Bool) (m : Nat) (e : Int) (code : Nat) : Nat × Flags :=
  if toFix m e < fixOne / 2 ^ 12 then below free n code
  else
    let (q, r) := quadrant m e
    let (v, neg) := sinQuad q r
    forced v (faithful free (n != neg))

/-- cos of a finite nonzero number, even. -/
def cosFin (free : Bool) (m : Nat) (e : Int) : Nat × Flags :=
  if toFix m e < fixOne / 2 ^ 13 then below free false one32
  else
    let (q, r) := quadrant m e
    let (v, neg) := sinQuad ((q + 1) % 4) r
    forced v (faithful free neg)

/-- A function of the special-function unit on an FP32 code: op as in R151, the special cases of R46. -/
def sfu32 (op : Nat) (mode : Mode) (free : Bool) (c : Nat) : Nat × Flags :=
  let v := fp32.decode c
  let nan : Nat × Flags := (fp32.nan, fNV)
  match v with
  | .nan s => (fp32.nan, if s then fNV else 0)
  | .inf n =>
    match op with
    | 0 => (if n then 0 else fp32.inf false, 0)
    | 1 | 3 => if n then nan else (if op = 1 then fp32.inf false else 0, 0)
    | 2 => (fp32.sign n, 0)
    | 4 => if n then nan else (fp32.inf false, 0)
    | 5 => (fp32.sign n + one32, 0)
    | _ => nan
  | .fin n m e =>
    if m = 0 then
      match op with
      | 0 | 7 => (one32, 0)
      | 1 => (fp32.inf true, fDZ)
      | 2 | 3 => (fp32.inf n, fDZ)
      | _ => (fp32.sign n, 0)
    else match op with
      | 0 => exp2Fin free n m e
      | 1 => if n then nan else log2Fin free m e
      | 2 => rcpFin mode n m e
      | 3 => if n then nan else rsqFin free m e
      | 4 => if n then nan else sqrtFin mode m e
      | 5 => tanhFin free n m e (c % 2 ^ 31)
      | 6 => sinFin free n m e (c % 2 ^ 31)
      | _ => cosFin free m e

/-- The result in an operand format: FP16 and BF16 are widened exactly, computed in FP32, and rounded again (R45). The flags
of both roundings are raised (log 84, DESIGN CHOICE). -/
def sfuFn (op : Nat) (f : Ieee) (mode : Mode) (free : Bool) (c : Nat) : Nat × Flags :=
  if f = fp32 then sfu32 op mode free c
  else
    let sig := (f.decode c).isSig
    let wide := (fp32.encode 0 (f.decode c)).1
    let (r, fl) := sfu32 op mode free wide
    let (r, fl2) := f.encode mode (fp32.decode r)
    (r, fl ||| fl2 ||| (if sig then fNV else 0))

end Sys2Proof.Machine
end

