-- ==== Sys2Proof/Machine/Sfu.lean ====
section
/-!
DEFINITION. The special-function unit (R151 to R154): requests, the service of the head, results.
-/

namespace Sys2Proof.Machine

/-- L of R151. -/
def sfuLatency (op : Nat) : Nat :=
  if op ≤ 1 then 12 else if op ≤ 3 then 10 else if op = 4 then 14 else if op = 5 then 16 else 18

/-- The lanes of a request. -/
def sfuLanes (q : SfuReq) : Nat :=
  if !q.vec then 1 else (if q.fmt = .fp32 then 4 else 8) * (if q.gang then 2 else 1)

/-- The cycle in which the head's result is written: s + e + L - 1 (R153). -/
def sfuEnd (k : Core) : Option Nat := k.sfu.head?.map (fun q => k.sfuStart + sfuLanes q + sfuLatency q.op - 1)

/-- A request enters the queue; one that reaches an empty unit begins in the next cycle (R152, R153). -/
def sfuPush (k : Core) (q : SfuReq) : Core :=
  { k with sfu := k.sfu ++ [q], sfuStart := if k.sfu = [] then k.time + 1 else k.sfuStart }

/-- A special-function bundle: it parks while the queue is full, else its request enters and its destination is marked
(R86, R152). The request keeps the rounding mode of its issue (log 83, DESIGN CHOICE). -/
def sfuIssue (s : State) (op : Nat) (fmt : Fmt) (vec : Bool) (mask : BitVec 32) (arg : W256) (dest : Reg) : Out :=
  if 4 ≤ (coreAt s (myCore s)).sfu.length then wait s .engine
  else
    let th := was s
    let q : SfuReq := ⟨mySlot s, th.uid, s.iss.pc, op, fmt, vec, vec && ganged s, mask, arg, dest, th.rm⟩
    let s := modCore s (myCore s) (fun k => sfuPush k q)
    .next (modMe s (fun th => setMark th (if vec then .vector dest else .scalar dest)))

/-- The scalar format of the F field. -/
def formFmt : FForm → Fmt
  | .fp32 => .fp32
  | .fp16 => .fp16
  | .bf16 => .bf16

/-- The IEEE format of a floating element format. -/
def fmtForm (f : Fmt) : Ieee := if f = .fp16 then fp16 else if f = .bf16 then bf16 else fp32

/-- A scalar special function (R151). -/
def sfuScalar (s : State) (op : Nat) (rd ra : Reg) (f : FForm) : Out :=
  sfuIssue s op (formFmt f) false 1 ((readX s ra).setWidth 256) rd

/-- A vector special function (R151). -/
def sfuVector (s : State) (op : Nat) (vd va : Reg) (m : MaskNo) (fmt : Fmt) : Out :=
  sfuIssue s op fmt true (readM s m) (readV s va) vd

/-- The results of a request's active lanes, written over a register's present value, with their flags. Each active lane uses
one free value (R45, log 12, DESIGN CHOICE). -/
def sfuLanesResult (s : State) (q : SfuReq) : List Nat → W256 × Flags → (W256 × Flags) × State
  | [], r => (r, s)
  | i :: l, r =>
    if on q.mask i then
      let w := q.fmt.width
      let (b, s) := withFree s
      let x := sfuFn q.op (fmtForm q.fmt) q.rm b (lane q.arg w i)
      sfuLanesResult s q l (setLane r.1 w i x.1, r.2 ||| x.2)
    else sfuLanesResult s q l r

/-- Flags of a special function arrive: they join $fflags, and an enabled one parks the thread FPX at its next bundle
boundary (R151, R249). -/
def lateRaise (s : State) (c t : Nat) (pc : W64) (f : Flags) : State :=
  let s := modThr s c t (fun th => { th with fflags := th.fflags ||| f })
  let th := thrAt s c t
  if (f &&& th.fen) = 0 then s
  else if th.inside.isSome || parkedFor th .supervisor || parkedFor th .fpx || parkedFor th .busy || parkedFor th .twin || th.slot = .halted then
    modThr s c t (fun th => { th with late := th.late ++ [(pc, f)] })
  else parkFpx (leavePorts s c t) c t pc f

/-- The head's result is written to its destination, its mark clears, its flags are raised (R86, R151). -/
def sfuDeliver (s : State) (c : Nat) (q : SfuReq) : State :=
  if !isThread s c q.slot q.uid then s
  else
    let old := if q.vec then curV s c q.slot q.dest else 0
    let ((v, f), s) := sfuLanesResult s q (List.range (sfuLanes q)) (old, 0)
    let s := if q.vec then putV s c q.slot q.dest q.gang v (laneBytes q.fmt.width q.mask) else putX s c q.slot q.dest (v.setWidth 64)
    let s := modThr s c q.slot (fun th => clearMark th (if q.vec then .vector q.dest else .scalar q.dest))
    let s := wakeMarks s c q.slot
    lateRaise s c q.slot q.pc f

/-- SFU_RESULT: the head request is done; the next begins in the next cycle (R153), and a thread that waits for an entry
goes on. -/
def execSfuResult (core : Nat) (s : State) : Out :=
  let k := coreAt s core
  match k.sfu, sfuEnd k with
  | q :: r, some e =>
    if k.time < e then .next s
    else
      let s := modCore s core (fun k => { k with sfu := r, sfuStart := k.time + 1 })
      .next (wakeUnits (sfuDeliver s core q) core)
  | _, _ => .next s

/-- FEXP2 (R151). -/
def execFexp2 (rd ra : Reg) (f : FForm) (s : State) : Out := sfuScalar s 0 rd ra f

/-- FLOG2 (R151). -/
def execFlog2 (rd ra : Reg) (f : FForm) (s : State) : Out := sfuScalar s 1 rd ra f

/-- FRCP (R151). -/
def execFrcp (rd ra : Reg) (f : FForm) (s : State) : Out := sfuScalar s 2 rd ra f

/-- FRSQ (R151). -/
def execFrsq (rd ra : Reg) (f : FForm) (s : State) : Out := sfuScalar s 3 rd ra f

/-- FSQRT (R151). -/
def execFsqrt (rd ra : Reg) (f : FForm) (s : State) : Out := sfuScalar s 4 rd ra f

/-- FTANH (R151). -/
def execFtanh (rd ra : Reg) (f : FForm) (s : State) : Out := sfuScalar s 5 rd ra f

/-- FSIN (R151). -/
def execFsin (rd ra : Reg) (f : FForm) (s : State) : Out := sfuScalar s 6 rd ra f

/-- FCOS (R151). -/
def execFcos (rd ra : Reg) (f : FForm) (s : State) : Out := sfuScalar s 7 rd ra f

/-- VFEXP2 (R151). -/
def execVfexp2 (vd va : Reg) (m : MaskNo) (fmt : Fmt) (s : State) : Out := sfuVector s 0 vd va m fmt

/-- VFLOG2 (R151). -/
def execVflog2 (vd va : Reg) (m : MaskNo) (fmt : Fmt) (s : State) : Out := sfuVector s 1 vd va m fmt

/-- VFRCP (R151). -/
def execVfrcp (vd va : Reg) (m : MaskNo) (fmt : Fmt) (s : State) : Out := sfuVector s 2 vd va m fmt

/-- VFRSQ (R151). -/
def execVfrsq (vd va : Reg) (m : MaskNo) (fmt : Fmt) (s : State) : Out := sfuVector s 3 vd va m fmt

/-- VFSQRT (R151). -/
def execVfsqrt (vd va : Reg) (m : MaskNo) (fmt : Fmt) (s : State) : Out := sfuVector s 4 vd va m fmt

/-- VFTANH (R151). -/
def execVftanh (vd va : Reg) (m : MaskNo) (fmt : Fmt) (s : State) : Out := sfuVector s 5 vd va m fmt

/-- VFSIN (R151). -/
def execVfsin (vd va : Reg) (m : MaskNo) (fmt : Fmt) (s : State) : Out := sfuVector s 6 vd va m fmt

/-- VFCOS (R151). -/
def execVfcos (vd va : Reg) (m : MaskNo) (fmt : Fmt) (s : State) : Out := sfuVector s 7 vd va m fmt

end Sys2Proof.Machine
end

