-- ==== Sys2Proof/Machine/Ppa.lean ====
section
/-!
DEFINITION. The product-polynomial unit (R52 to R57, R211 to R215): the arithmetic of an accumulator, the operations, their
queue and their completion.
-/

namespace Sys2Proof.Machine

/-! ## Coefficients -/

/-- Coefficient k as FP32 bits. -/
def coef (p : Pa) (k : Nat) : Nat := (tget 0 p.c k).toNat

/-- The accumulator with coefficients for k below n from a list, and zero above. -/
def setCoefs (p : Pa) (l : List Nat) : Pa :=
  { p with c := ((List.range l.length).filter (fun k => l[k]?.getD 0 != 0)).map (fun k => (k, BitVec.ofNat 32 (l[k]?.getD 0))) }

/-- The 64 coefficients. -/
def coefs (p : Pa) : List Nat := (List.range 64).map (coef p)

/-- The value of FP32 bits. -/
def val32 (c : Nat) : FVal := fp32.decode c

/-- FP32 bits that are no finite number. -/
def special32 (c : Nat) : Bool := c / 2 ^ 23 % 256 == 255

/-- FP32 bits of a number other than zero; a NaN is none (R53, R213). -/
def nonzero32 (c : Nat) : Bool := c % 2 ^ 31 != 0

/-- A product is not zero, the invalid one and a NaN included (R53, R56). -/
def productNonzero (a b : FVal) : Bool :=
  a.isNan || b.isNan || zeroInf a b || !(a.isZero || b.isZero)

/-- An exact sum of exact products, rounded once by RN (R53, R56). -/
def sumProducts (l : List (FVal × FVal)) : Nat :=
  if l.any (fun p => p.1.isNan || p.2.isNan || zeroInf p.1 p.2) then fp32.nan
  else
    let infs := l.filterMap (fun p => match p.1, p.2 with
      | .fin _ _ _, .fin _ _ _ => none
      | a, b => some (a.neg != b.neg))
    match infs with
    | n :: r => if r.all (· == n) then fp32.inf n else fp32.nan
    | [] => (sumTerms fp32 0 (l.filterMap (fun p => match p.1, p.2 with
      | .fin n m e, .fin k q g => some (n != k, m * q, e + g)
      | _, _ => none))).1

/-- RN(x / a) for a that is not zero (R55). -/
def div32 (x a : FVal) : Nat :=
  match x, a with
  | .nan _, _ => fp32.nan
  | _, .nan _ => fp32.nan
  | .inf _, .inf _ => fp32.nan
  | .inf n, a => fp32.inf (n != a.neg)
  | x, .inf k => fp32.sign (x.neg != k)
  | .fin n m e, .fin k p q =>
    let num := m * 2 ^ 64
    (fp32.round 0 (n != k) (2 * (num / p) + (if num % p = 0 then 0 else 1)) (e - q - 65)).1

/-- RN(c × 2^d); an infinity stays, and a NaN is the canonical one (R41). -/
def scale32 (c : Nat) (d : Int) : Nat :=
  match val32 c with
  | .fin n m e => (fp32.round 0 n m (e + d)).1
  | .inf _ => c
  | .nan _ => fp32.nan

/-- O is set when a stored coefficient is infinite or NaN (R52). -/
def flagO (p : Pa) : Pa := if (coefs p).any special32 then { p with o := true } else p

/-- M: the largest magnitude of the finite coefficients, as FP32 bits (R54). -/
def largest (p : Pa) : Nat := ((coefs p).filter (fun c => !special32 c)).foldl (fun m c => max m (c % 2 ^ 31)) 0

/-- The coefficients times 2^-d with X raised by d. -/
def shiftPa (p : Pa) (d : Int) : Pa := { setCoefs p ((coefs p).map (fun c => scale32 c (-d))) with x := p.x + d }

/-- Rescale of R54. -/
def rescale (p : Pa) : Pa :=
  let m := largest p
  if 0x5F800000 ≤ m then
    if p.x + 64 > 32767 then { p with o := true } else shiftPa p 64
  else if m ≠ 0 ∧ m < 0x1F800000 then
    if p.x - 64 < -32768 then { p with o := true } else shiftPa p (-64)
  else p

/-! ## The operations (R53 to R57, R213) -/

/-- The state after PPINIT with a limit (R52). -/
def paInit (lim : Nat) : Pa := { c := [(0, 0x3F800000)], lim := lim }

/-- Applying a factor a + b·z (R53). -/
def paMul (p : Pa) (a b : BitVec 32) : Pa :=
  let va := val32 a.toNat
  let vb := val32 b.toNat
  let n := min (p.deg + 1) p.lim
  let t := p.t || (p.deg == p.lim && productNonzero vb (val32 (coef p p.lim)))
  let new := (List.range 64).map (fun k =>
    if n < k then coef p k
    else sumProducts ((if k ≤ p.deg then [(va, val32 (coef p k))] else [])
      ++ (if k = 0 then [] else [(vb, val32 (coef p (k - 1)))])))
  rescale (flagO { setCoefs p new with deg := n, t := t })

/-- Factors applied one after another (R53). -/
def paMulAll (p : Pa) (l : List (BitVec 32 × BitVec 32)) : Pa := l.foldl (fun p f => paMul p f.1 f.2) p

/-- The quotient coefficients q_0 to q_deg (R55). -/
def quotients (p : Pa) (va nb : FVal) : List Nat :=
  (List.range (p.deg + 1)).foldl (fun l k =>
    l ++ [if k = 0 then div32 (val32 (coef p 0)) va
      else div32 (val32 (sumProducts [(.fin false 1 0, val32 (coef p k)), (nb, val32 (l[k - 1]?.getD 0))])) va]) []

/-- Removing a factor a + b·z (R55). -/
def paDiv (p : Pa) (a b : BitVec 32) : Pa :=
  let va := val32 a.toNat
  let vb := val32 b.toNat
  if va.isZero then { p with z := true }
  else
    let c := p.cnd || (!va.isNan && !vb.isNan && decide (a.toNat % 2 ^ 31 < b.toNat % 2 ^ 31))
    let q := quotients p va vb.flip
    let drop := !p.t && decide (0 < p.deg)
    let new := (List.range 64).map (fun k =>
      if p.deg < k then coef p k else if k = p.deg ∧ drop then 0 else q[k]?.getD 0)
    rescale (flagO { setCoefs p new with deg := if drop then p.deg - 1 else p.deg, cnd := c })

/-- The merge of A and B into a destination with its own limit (R56). -/
def paMerge (d a b : Pa) : Pa :=
  let deg := min (a.deg + b.deg) d.lim
  let pairs := fun (k : Nat) => ((List.range (a.deg + 1)).filter (fun i => decide (i ≤ k) && decide (k - i ≤ b.deg))).map
    (fun i => (val32 (coef a i), val32 (coef b (k - i))))
  let new := (List.range 64).map (fun k => if k ≤ deg then sumProducts (pairs k) else 0)
  let x := a.x + b.x
  let out := decide (x > 32767) || decide (x < -32768)
  let t := a.t || b.t || (List.range (a.deg + 1)).any (fun i => (List.range (b.deg + 1)).any (fun j =>
    decide (d.lim < i + j) && productNonzero (val32 (coef a i)) (val32 (coef b j))))
  rescale (flagO { setCoefs d new with
    deg := deg, x := if x > 32767 then 32767 else if x < -32768 then -32768 else x
    t := t, cnd := a.cnd || b.cnd, o := a.o || b.o || out, z := a.z || b.z })

/-- floor(log2 M) of FP32 bits of a finite positive number. -/
def log2Floor (m : Nat) : Int :=
  match val32 m with
  | .fin _ k e => e + (bitLen k : Int) - 1
  | _ => 0

/-- PPNORM (R57). With no finite coefficient but zeros the accumulator is unchanged, also when another is infinite or NaN (log 81, DESIGN
CHOICE). -/
def paNorm (p : Pa) : Pa :=
  let m := largest p
  if m = 0 then p
  else
    let f := log2Floor m
    if p.x + f > 32767 ∨ p.x + f < -32768 then { p with o := true }
    else rescale (flagO (shiftPa p f))

/-- The largest k up to D with a coefficient that is not zero, or 0. -/
def topCoef (p : Pa) : Nat := ((List.range (p.lim + 1)).reverse.find? (fun k => nonzero32 (coef p k))).getD 0

/-- PPLD of lanes from coefficient 4g on (R213). A lane of -0 is stored as it is, also above the new deg (log 82, DESIGN CHOICE). -/
def paLoad (p : Pa) (g : Nat) (mask : BitVec 8) (vals : List (BitVec 32)) : Pa :=
  let lanes := (List.range vals.length).filter (fun i => mask.getLsbD i)
  let v := fun (i : Nat) => (vals[i]?.getD 0).toNat
  let new := (List.range 64).map (fun k =>
    if k ≤ p.lim ∧ 4 * g ≤ k ∧ lanes.contains (k - 4 * g) then v (k - 4 * g) else coef p k)
  let t := p.t || lanes.any (fun i => decide (p.lim < 4 * g + i) && nonzero32 (v i))
  let q := flagO { setCoefs p new with t := t }
  { q with deg := topCoef q }

/-- The word of PPEXP (R213). -/
def paWord (p : Pa) : W64 :=
  BitVec.ofInt 64 (p.x * 2 ^ 48) + BitVec.ofNat 64 ((if p.z then 2 ^ 43 else 0) + (if p.o then 2 ^ 42 else 0)
    + (if p.cnd then 2 ^ 41 else 0) + (if p.t then 2 ^ 40 else 0) + p.lim * 2 ^ 8 + p.deg)

/-! ## The queue (R214) -/

/-- An accumulator of a core. -/
def paAt (k : Core) (p : PaNo) : Pa := tget {} k.pa p.toNat

/-- An accumulator of a core replaced. -/
def setPa (k : Core) (p : PaNo) (v : Pa) : Core := { k with pa := tput k.pa p.toNat v }

/-- The new degree of a factor applied. -/
def degAfter (p : Pa) : Nat := min (p.deg + 1) p.lim

/-- Cycles of n factors applied from a degree on. -/
def mulCycles : Nat → Nat → Nat → Nat
  | 0, _, _ => 0
  | n + 1, deg, lim => (min (deg + 1) lim + 16) / 16 + mulCycles n (min (deg + 1) lim) lim

/-- b of R214, for an operation on the accumulators as they stand when it begins. -/
def ppaCycles (k : Core) : PpaOp → Nat
  | .norm _ => 2
  | .mul pd l => max 1 (mulCycles l.length (paAt k pd).deg (paAt k pd).lim)
  | .div pd _ _ => (paAt k pd).deg + 2
  | .merge pd a b => min ((paAt k a).deg + (paAt k b).deg) (paAt k pd).lim + 1
  | _ => 1

/-- The cycle in which the head operation's result is written: s + b (R214). -/
def ppaEnd (k : Core) : Option Nat := k.ppa.head?.map (fun q => k.ppaStart + ppaCycles k q.op)

/-- The number of the next request of a core's queue, above those of all that stand in it or have left it at a halt (R215). -/
def ppaSeq (k : Core) : Nat := (k.ppa ++ k.ppaHeld).foldl (fun n q => max n (q.seq + 1)) 0

/-- An operation enters the queue; one that reaches an idle unit begins in the next cycle (R214). -/
def ppaPush (k : Core) (q : PpaReq) : Core :=
  { k with ppa := k.ppa ++ [{ q with seq := ppaSeq k }], ppaStart := if k.ppa = [] then k.time + 1 else k.ppaStart }

/-- The queue entries that operations hold: one whose last cycle has passed holds none (R214). -/
def ppaLoad (k : Core) : Nat := k.ppa.length - (if isDue k (ppaEnd k) then 1 else 0)

/-- The destination that an operation marks. -/
def ppaDest : PpaOp → Dest
  | .read _ _ _ d _ => .vector d
  | .exp _ d => .scalar d
  | _ => .none

/-- The issue of an operation: it parks while the queue is full (R214); in a twin it passes the comparator (R215, R259).
data holds its operand values. -/
def ppaIssue (s : State) (op : PpaOp) (data : Nat) : Out :=
  let c := myCore s
  let t := mySlot s
  let th := me s
  let e : CmpEntry := { enc := s.iss.word.toNat, addr := 0, size := 0, ord := 1, data := data, acc := none }
  let marked := fun (s : State) => modMe s (fun th => setMark th (ppaDest op))
  let full := decide (4 ≤ ppaLoad (coreAt s c))
  if isTwin th && !isTrail th then
    if 16 ≤ th.cmp.length then wait s .twin else .next (marked (wakeTwin (cmpPush s c t e) c (t + 1)))
  else if full then wait s .engine
  else if isTrail th then
    match (thrAt s c (t - 1)).cmp with
    | [] => .next (mismatch s 0)
    | f :: r =>
      if !sameEffect f e then .next (mismatch s 0)
      else
        let s := modThr s c (t - 1) (fun th => { th with cmp := r })
        .next (marked (modCore s c (fun k => ppaPush k { slot := t - 1, uid := (thrAt s c (t - 1)).uid, op := op, since := k.time })))
  else .next (marked (modCore s c (fun k => ppaPush k { slot := t, uid := th.uid, op := op, since := k.time })))

/-- Low 32 bits of a scalar operand. -/
def low32 (s : State) (r : Reg) : BitVec 32 := (readX s r).setWidth 32

/-- The FP32 lanes of a vector operand: four, or eight in a gang. -/
def lanes32 (s : State) (v : W256) : List (BitVec 32) := (List.range (laneCount s 32)).map (fun i => BitVec.ofNat 32 (lane v 32 i))

/-- PPINIT (R213). -/
def execPpinit (pd : PaNo) (xa : Reg) (s : State) : Out :=
  let v := readX s xa
  ppaIssue s (.init pd (min (bits v 0 6) (was s).pdeg.toNat)) v.toNat

/-- PPMUL (R53). -/
def execPpmul (pd : PaNo) (xa xb : Reg) (s : State) : Out :=
  let a := low32 s xa
  let b := low32 s xb
  ppaIssue s (.mul pd [(a, b)]) (a.toNat + 2 ^ 32 * b.toNat)

/-- PPMULV (R213). -/
def execPpmulv (pd : PaNo) (va vb : Reg) (m : MaskNo) (s : State) : Out :=
  let a := readV s va
  let b := readV s vb
  let k := readM s m
  let l := ((List.range (laneCount s 32)).filter (on k)).map (fun i => (BitVec.ofNat 32 (lane a 32 i), BitVec.ofNat 32 (lane b 32 i)))
  ppaIssue s (.mul pd l) (a.toNat + 2 ^ 256 * b.toNat + 2 ^ 512 * k.toNat)

/-- PPDIV (R55). -/
def execPpdiv (pd : PaNo) (xa xb : Reg) (s : State) : Out :=
  let a := low32 s xa
  let b := low32 s xb
  ppaIssue s (.div pd a b) (a.toNat + 2 ^ 32 * b.toNat)

/-- PPMERGE (R56). -/
def execPpmerge (pd pa pb : PaNo) (s : State) : Out := ppaIssue s (.merge pd pa pb) 0

/-- PPRD (R213). -/
def execPprd (vd : Reg) (pa : PaNo) (g : BitVec 5) (m : MaskNo) (s : State) : Out :=
  let k := readM s m
  ppaIssue s (.read pa g.toNat (k.setWidth 8) vd (ganged s)) k.toNat

/-- PPLD (R213). -/
def execPpld (pd : PaNo) (va : Reg) (g : BitVec 5) (m : MaskNo) (s : State) : Out :=
  let k := readM s m
  let v := readV s va
  ppaIssue s (.load pd g.toNat (k.setWidth 8) (lanes32 s v)) (v.toNat + 2 ^ 256 * k.toNat)

/-- PPEXP (R213). -/
def execPpexp (xd : Reg) (pa : PaNo) (s : State) : Out := ppaIssue s (.exp pa xd) 0

/-- PPNORM (R57). -/
def execPpnorm (pd : PaNo) (s : State) : Out := ppaIssue s (.norm pd) 0

/-! ## Completion -/

/-- The accumulators after an operation (R213). -/
def ppaApply (k : Core) : PpaOp → Core
  | .init pd lim => setPa k pd (paInit lim)
  | .mul pd l => setPa k pd (paMulAll (paAt k pd) l)
  | .div pd a b => setPa k pd (paDiv (paAt k pd) a b)
  | .merge pd a b => setPa k pd (paMerge (paAt k pd) (paAt k a) (paAt k b))
  | .load pd g m v => setPa k pd (paLoad (paAt k pd) g m v)
  | .norm pd => setPa k pd (paNorm (paAt k pd))
  | .read _ _ _ _ _ => k
  | .exp _ _ => k

/-- The coefficients that PPRD moves, over a vector's present value. -/
def ppaRead (p : Pa) (g : Nat) (mask : BitVec 8) (gang : Bool) (old : W256) : W256 :=
  ((List.range (if gang then 8 else 4)).filter (fun i => mask.getLsbD i)).foldl (fun v i => setLane v 32 i (coef p (4 * g + i))) old

/-- The result of an operation written to a thread, its mark cleared (R86, R214). -/
def ppaWrite (s : State) (c t : Nat) (op : PpaOp) : State :=
  let k := coreAt s c
  let s := match op with
    | .read pa g m d gang => putV s c t d gang (ppaRead (paAt k pa) g m gang (curV s c t d)) (laneBytes 32 (m.setWidth 32))
    | .exp pa d => putX s c t d (paWord (paAt k pa))
    | _ => s
  wakeMarks (modThr s c t (fun th => clearMark th (ppaDest op))) c t

/-- The result of an operation delivered to its thread, and to both threads of a twin (R215). -/
def ppaDeliver (s : State) (c : Nat) (q : PpaReq) : State :=
  if !isThread s c q.slot q.uid then s
  else
    let twin := isTwin (thrAt s c q.slot)
    let s := ppaWrite s c q.slot q.op
    if twin then ppaWrite s c (q.slot + 1) q.op else s

/-- PPA_OP_COMPLETE: the head operation ends, the next begins in this cycle, or in the cycle after it entered (R214). -/
def execPpaOpComplete (core : Nat) (s : State) : Out :=
  let k := coreAt s core
  match k.ppa, ppaEnd k with
  | q :: r, some e =>
    if k.time < e then .next s
    else
      let s := modCore s core (fun k => { ppaApply k q.op with ppa := r, ppaStart := match r with
        | n :: _ => max k.time (n.since + 1)
        | [] => k.time })
      .next (wakeUnits (ppaDeliver s core q) core)
  | _, _ => .next s

end Sys2Proof.Machine
end

