-- ==== Sys2Proof/Machine/Save.lean ====
section
/-!
DEFINITION. The save image in memory (R254, R255): its header, the fixed part of a core block, the scratchpad, the thread records, as they
are written when the image is DONE and read at a restore. Inside the fields that the spec places without a layout the model has one of its
own where they are large enough for what they hold; the rest are free bytes in memory, and their contents are kept in the state (log 16,
DESIGN CHOICE).
-/

namespace Sys2Proof.Machine

/-! ## Codes -/

/-- The code of a slot state (R255). -/
def slotCode : SlotState → Nat
  | .free => 0 | .loading => 1 | .ready => 2 | .parked => 3 | .ganghigh => 4 | .split => 5 | .trailing => 6 | .halted => 7 | .killed => 8

/-- The slot state of a code; none for 9 to 15. -/
def slotOfCode (n : Nat) : Option SlotState :=
  [SlotState.free, .loading, .ready, .parked, .ganghigh, .split, .trailing, .halted, .killed][n]?

/-- The code of a reason (R242). -/
def reasonCode : Reason → Nat
  | .marks => 1 | .access => 2 | .port => 3 | .feWait => 4 | .pageMove => 5 | .lease => 6 | .sync => 7 | .event => 8 | .engine => 9
  | .busy => 10 | .supervisor => 11 | .fpx => 12 | .twin => 13 | .preempt => 14

/-- The reason of a code. -/
def reasonOfCode (n : Nat) : Option Reason :=
  [Reason.marks, .access, .port, .feWait, .pageMove, .lease, .sync, .event, .engine, .busy, .supervisor, .fpx, .twin, .preempt][n - 1]?

/-! ## Thread records -/

/-- The first words of a thread record, from offset 0 to 0x247: the wait record is the object of the park and what the model keeps with it, the
phase of a wait at a barrier cell among it (log 16, DESIGN CHOICE). -/
def threadWords (th : Thread) : List W64 :=
  let q := th.park.getD ⟨.marks, 0, 0, 0⟩
  let reason := if slotSeen th = .parked then reasonCode q.reason else 0
  [BitVec.ofNat 64 (slotCode (slotSeen th) + reason * 16 + th.tl * 4096), th.pc, predWord th, th.privid.setWidth 64]
    ++ (List.range 16).map (tget 0 th.x)
    ++ (List.range 16).flatMap (fun i => [(tget 0 th.v i).setWidth 64, (tget 0 th.v i >>> 64).setWidth 64])
    ++ [th.seat, th.mode.setWidth 64, th.fflags.setWidth 64, (th.rm.setWidth 64 <<< 8) ||| th.fen.setWidth 64, th.pdeg.setWidth 64
      , th.fewait.setWidth 64, th.tags, th.tagerr, th.events.setWidth 64, th.l1.epc, th.l2.epc, th.l1.ecause, th.l2.ecause, th.l1.eaddr
      , th.l2.eaddr, th.l1.estat, th.l2.estat, th.hbase]
    ++ [BitVec.ofNat 64 (th.marksX.toNat % 65536 + th.marksV.toNat % 65536 * 2 ^ 16 + th.marksX.toNat / 65536 * 2 ^ 32
      + th.marksV.toNat / 65536 * 2 ^ 48), q.obj, q.aux]

/-- The slot and park that a record gives; what the record has no place for is taken from the saved thread. -/
def slotFrom (th : Thread) (w0 pc obj aux : W64) : Thread :=
  let st := (slotOfCode (bits w0 0 4)).getD .free
  let q := th.park.getD ⟨.marks, 0, 0, 0⟩
  let r := if st = .parked then reasonOfCode (bits w0 4 8) else none
  let tl := min 2 (bits w0 12 2)
  { th with slot := st, tl := tl, park := r.map (fun r => { q with reason := r, obj := obj, aux := if r = .sync then aux else q.aux })
            arrived := if r = some .sync ∧ aux.toNat % 4 = 2 then th.arrived.filter (fun a => a.tl != tl) ++ [⟨pc, obj, aux.toNat / 4 % 256, tl⟩]
              else th.arrived }

/-- The registers of a trap level with the words of a record, whose reserved bits are ignored (R6, R130). -/
def levelFrom (epc ecause eaddr estat : W64) : Level := ⟨epc &&& ~~~7, ecause &&& 0x3FF, eaddr, estat &&& 0x0F0FFFFFFFFFFFFF⟩

/-- A thread with the words of its record, whose reserved bits are ignored (R6); f gives the words by their index. -/
def threadFrom (th : Thread) (f : Nat → W64) : Thread :=
  let th := slotFrom th (f 0) (f 1) (f 71) (f 72)
  let m := f 70
  { th with
    pc := f 1 &&& ~~~7, m1 := (f 2 >>> 16).setWidth 16, m2 := (f 2 >>> 32).setWidth 16, m3 := (f 2 >>> 48).setWidth 16, privid := (f 3).setWidth 20
    x := (List.range 16).map (fun i => (i, f (4 + i)))
    v := (List.range 16).map (fun i => (i, (f (20 + 2 * i)).setWidth 128 ||| ((f (21 + 2 * i)).setWidth 128 <<< 64)))
    seat := f 52 &&& 0x01FF0003FF001FFF, mode := (f 53).setWidth 4, fflags := (f 54).setWidth 5, rm := (f 55 >>> 8).setWidth 2, fen := (f 55).setWidth 5
    pdeg := (f 56).setWidth 6, fewait := (f 57).setWidth 32, tags := f 58, tagerr := f 59, events := (f 60).setWidth 4
    l1 := levelFrom (f 61) (f 63) (f 65) (f 67), l2 := levelFrom (f 62) (f 64) (f 66) (f 68), hbase := f 69 &&& ~~~0xFFF
    marksX := BitVec.ofNat 32 (bits m 0 16 + bits m 32 16 * 65536), marksV := BitVec.ofNat 32 (bits m 16 16 + bits m 48 16 * 65536) }

/-! ## Core blocks -/

/-- RQ: the size of a core's run queue (R254, R283). -/
def rqOf (k : Core) : Nat := runqSize k

/-- Bytes of a core block. -/
def blockBytes (part : BitVec 15) (rq : Nat) : Nat := 12288 + (scratch part + accBanks part) * 8192 + rq * 128 + 16384

/-- The first words of a core block, from offset 0 to 0x1DF. -/
def blockWords (num : Nat) (k : Core) (rq : Nat) : List W64 :=
  [BitVec.ofNat 64 (num + k.part.toNat * 2 ^ 13 + rq * 2 ^ 32 + (if k.group = .evacuating then 2 ^ 43 else 0))]
    ++ (List.range 4).flatMap (fun p => let b := tget {} k.ports p
      [b.word, BitVec.ofNat 64 (b.owner + if b.faulted then 16 else 0)])
    ++ (List.range 11).map (fun i => tget 0 k.s (i + 1))
    ++ (List.range 12).flatMap (fun i => [(tget 0 k.y i).setWidth 64, (tget 0 k.y i >>> 64).setWidth 64])
    ++ (List.range 16).map (fun i => BitVec.ofNat 64 (tget 0 k.sems i))

/-- The two words of a registration: the handler's PC, and the landing area with the context and a valid bit (log 16, DESIGN CHOICE). -/
def mhsetWords (k : Core) : List W64 :=
  match k.mhset with
  | some h => [h.pc, BitVec.ofNat 64 (h.base + h.slots * 2 ^ 20 + h.ctx * 2 ^ 32 + 2 ^ 63), 0, 0]
  | none => [0, 0, 0, 0]

/-- The registration of two words. -/
def mhsetFrom (pc w : W64) : Option Mhset :=
  if bits w 63 1 = 1 then some ⟨pc &&& ~~~7, bits w 20 6, bits w 0 20, bits w 32 12⟩ else none

/-- The state of an accumulator beside its coefficients, from a word laid out as PPEXP gives it (log 16, DESIGN CHOICE). -/
def paFrom (w : W64) (c : Tbl (BitVec 32)) : Pa :=
  { c := c, x := (BitVec.ofNat 16 (bits w 48 16)).toInt, deg := bits w 0 6, lim := bits w 8 6
    t := w.getLsbD 40, cnd := w.getLsbD 41, o := w.getLsbD 42, z := w.getLsbD 43 }

/-- The six words of a special-function entry: operand, PC, and the fields of the request with a valid bit (log 16, DESIGN CHOICE). -/
def sfuWords (q : SfuReq) : List W64 :=
  (List.range 4).map (fun i => BitVec.ofNat 64 (q.arg.toNat / 2 ^ (64 * i))) ++ [q.pc,
    BitVec.ofNat 64 (q.op + q.fmt.code * 2 ^ 8 + q.rm.toNat * 2 ^ 14 + q.dest.toNat * 2 ^ 16 + (if q.vec then 2 ^ 21 else 0)
      + (if q.gang then 2 ^ 22 else 0) + 2 ^ 23 + q.mask.toNat * 2 ^ 32)]

/-- A special-function entry with the words of its record; f gives the words by their index. -/
def sfuFrom (q : SfuReq) (f : Nat → W64) : SfuReq :=
  let w := f 5
  { q with
    arg := BitVec.ofNat 256 ((f 0).toNat + (f 1).toNat * 2 ^ 64 + (f 2).toNat * 2 ^ 128 + (f 3).toNat * 2 ^ 192), pc := f 4 &&& ~~~7
    op := bits w 0 8, fmt := (fmtOf (bits w 8 6)).getD q.fmt, rm := BitVec.ofNat 2 (bits w 14 2), dest := BitVec.ofNat 5 (bits w 16 5)
    vec := w.getLsbD 21, gang := w.getLsbD 22, mask := BitVec.ofNat 32 (bits w 32 32) }

/-- The special-function entries of a thread, in queue order (R154). -/
def sfuOf (k : Core) (th : Thread) : List SfuReq := k.sfuHeld.filter (fun q => q.uid == th.uid)

/-- The words of a load-value queue: 32 entries of 16 bytes (R254). -/
def lvqWords (th : Thread) : List W64 :=
  (List.range 32).flatMap (fun i =>
    let v : W256 := ((th.lvq[i]?).bind (fun q => q.2)).getD 0
    [v.setWidth 64, (v >>> 64).setWidth 64])

/-- A core with the first words of its block; reserved bits of a binding word are ignored (R6, R263). -/
def blockFrom (k : Core) (f : Nat → W64) : Core :=
  { k with
    part := BitVec.ofNat 15 (bits (f 0) 13 15), group := if bits (f 0) 43 1 = 1 then .evacuating else .active
    ports := (List.range 4).map (fun p => (p, { tget {} k.ports p with
      word := f (1 + 2 * p) &&& 0xFFC080001FFFFFFF, owner := bits (f (2 + 2 * p)) 0 4, faulted := bits (f (2 + 2 * p)) 4 1 == 1 }))
    s := (List.range 11).map (fun i => (i + 1, f (9 + i)))
    y := (List.range 12).map (fun i => (i, (f (20 + 2 * i)).setWidth 128 ||| ((f (21 + 2 * i)).setWidth 128 <<< 64)))
    sems := (List.range 16).foldl (fun t i => tset 0 t i (bits (f (44 + i)) 0 32)) [] }

/-- The words of a run-queue entry (R283). -/
def entryWords (q : Start) : List W64 :=
  [BitVec.ofNat 64 (q.kind * 2 ^ 60 + (match q.anchor with
      | some x => seatCore x * 2 ^ 47
      | none => 0) + q.ctx), q.pc, q.stamp]
    ++ (List.range 10).map (fun i => q.x[i]?.getD 0) ++ [q.pred, q.status, q.tags]

/-- A run-queue entry with the words of its record, whose reserved bits are ignored (R6, R293); f gives the words by their index. -/
def entryFrom (s : State) (q : Start) (f : Nat → W64) : Start :=
  { q with
    kind := bits (f 0) 60 4, ctx := bits (f 0) 0 12, pc := f 1 &&& ~~~(7 : W64), stamp := f 2, x := (List.range 10).map (fun i => f (3 + i))
    pred := f 13, status := f 14 &&& ~~~(0x1FFFFFF : W64), tags := f 15
    anchor := if bits (f 14) 43 1 = 1 then some (mkSeat s.number (bits (f 0) 47 13)) else none }

/-- Words written from an address on, as ordinary writes (R160). -/
def writeWords (s : State) (a : Nat) : List W64 → State
  | [] => s
  | w :: r => writeWords (storeAt none s a 8 w.toNat) (a + 8) r

/-- The word at an address. -/
def wordAt (s : State) (a : Nat) : W64 := BitVec.ofNat 64 (loadAt s a 8)

/-- Bytes with no layout of their own: free values of the context's image (log 16, DESIGN CHOICE). -/
def freeBytes (s : State) (ctx base : Nat) (off n : Nat) : State :=
  (List.range n).foldl (fun s i => storeAt none s (base + off + i) 1 (Config.imageByte ctx (off + i)).toNat) s

/-- One core block written at an offset of the image. -/
def writeBlock (s : State) (ctx base off num : Nat) (k : Core) : State :=
  let a := base + off
  let s := writeWords s a (blockWords num k (rqOf k))
  let s := writeWords s (a + 0x1E0) (mhsetWords k)
  let s := (List.range 8).foldl (fun s i =>
    let s := (List.range 64).foldl (fun s j => storeAt none s (a + 0x200 + 264 * i + 4 * j) 4 (tget 0 (tget {} k.pa i).c j).toNat) s
    writeWords s (a + 0x200 + 264 * i + 256) [paWord (tget {} k.pa i)]) s
  let s := freeBytes s ctx base (off + 0xA40) 128
  let s := writeWords s (a + 0xAC0) ((List.range 128).map (fun _ => 0))
  let s := freeBytes s ctx base (off + 0xEC0) 0x140
  let s := (List.range 8).foldl (fun s i =>
    freeBytes (writeWords s (a + 0x1000 + 1024 * i) (lvqWords (thrOf k (2 * i)))) ctx base (off + 0x1000 + 1024 * i + 512) 512) s
  let s := (List.range (scratch k.part * 1024)).foldl (fun s i => storeAt none s (a + 12288 + 8 * i) 8 (loadAt s (scratchLoc num (8 * i)) 8)) s
  let rest := 12288 + scratch k.part * 8192
  let s := freeBytes s ctx base (off + rest) (accBanks k.part * 8192)
  let s := writeWords s (a + rest + accBanks k.part * 8192)
    (k.runq.flatMap entryWords ++ (List.range (16 * (rqOf k - k.runq.length))).map (fun _ => 0))
  let recs := rest + accBanks k.part * 8192 + rqOf k * 128
  slots.foldl (fun s t =>
    let th := thrOf k t
    let r := recs + 1024 * t
    if th.slot = .free then writeWords s (a + r) ((List.range 128).map (fun _ => 0))
    else
      let s := freeBytes (writeWords s (a + r) (threadWords th)) ctx base (off + r + 0x248) 0xD8
      let l := (sfuOf k th).take 4
      writeWords s (a + r + 0x320) (l.flatMap sfuWords ++ (List.range (28 - 6 * l.length)).map (fun _ => 0))) s

/-- The blocks of a context's cores one after another; the offset after the last. -/
def writeBlocks (s : State) (ctx base : Nat) : Nat → List Nat → Nat × State
  | off, [] => (off, s)
  | off, c :: r =>
    let k := coreAt s c
    writeBlocks (writeBlock s ctx base off c k) ctx base (off + blockBytes k.part (rqOf k)) r

/-- The header of an image (R254). -/
def writeHeader (s : State) (base bytes cores : Nat) (stamp : W64) (array : Bool) : State :=
  writeWords s base ([BitVec.ofNat 64 (cores * 4 + (if array then 2 else 0) + 1), stamp, BitVec.ofNat 64 bytes]
    ++ (List.range 29).map (fun _ => 0))

/-- The offsets of the core blocks of an image in memory, with the core that each names; n is the number of blocks left. -/
def imageBlocks (s : State) (base : Nat) : Nat → Nat → List (Nat × Nat)
  | 0, _ => []
  | n + 1, off =>
    let w := wordAt s (base + off)
    (off, bits w 0 13) :: imageBlocks s base n (off + blockBytes (BitVec.ofNat 15 (bits w 13 15)) (bits w 32 11))

/-- Where the run-queue entries of a block begin. -/
def entriesOf (s : State) (base off : Nat) : Nat :=
  base + off + 12288 + (let p := BitVec.ofNat 15 (bits (wordAt s (base + off)) 13 15); (scratch p + accBanks p) * 8192)

/-- Where the thread records of a block begin. -/
def recordsOf (s : State) (base off : Nat) : Nat :=
  let w := wordAt s (base + off)
  base + off + blockBytes (BitVec.ofNat 15 (bits w 13 15)) (bits w 32 11) - 16384

/-- A restore can load a block: every record has a slot state of R255. -/
def blockOk (s : State) (base off : Nat) : Bool :=
  slots.all (fun t => decide (bits (wordAt s (recordsOf s base off + 1024 * t)) 0 4 ≤ 8))

end Sys2Proof.Machine
end

