-- ==== Sys2Proof/Machine/Context.lean ====
section
/-!
DEFINITION. Contexts: KILL, WAKE, RESUME, PREEMPT (R250, R251), supervisor messages (R248), pre-emption and restore (R252 to R256), errors
(R257), the claim and the exit of core groups (R301, R304).
-/

namespace Sys2Proof.Machine

/-! ## KILL, WAKE, RESUME, PREEMPT (R250, R251) -/

/-- The thread that a thread word names: CORE and THREAD, when a thread of CTX is there. -/
def targetThread (s : State) (w : W64) : Option (Nat × Nat) :=
  let ctx := bits w 0 12
  let c := bits w 12 13
  let t := bits w 25 4
  if (ctxAt s ctx).st ≠ .free ∧ c < 5120 ∧ (thrAt s c t).slot ≠ .free ∧ (thrAt s c t).ctx = ctx then some (c, t) else none

/-- A context instruction: for privileged threads, made once by a twin. -/
def contextOp (s : State) (rd ra : Reg) (data : Nat) (k : State → Out) : Out :=
  privOnly s (fun s => once s (some rd) (readX s ra) 8 0 data k)

/-- A request to a core and its answer carry their stamps (R29). -/
def askCore (s : State) (c : Nat) : State :=
  if c = myCore s then s else carry (carry s (.core (myCore s)) (.core c)) (.core c) (.core (myCore s))

/-- A context instruction on a thread: status 1 when there is none. It waits while the clock of the thread's cluster stands (R420). -/
def threadOp (s : State) (rd ra : Reg) (data : Nat) (k : State → Nat → Nat → Out) : Out :=
  contextOp s rd ra data (fun s =>
    match targetThread s (readX s ra) with
    | none => status s rd 1
    | some (c, t) => if (cluAt s (clusterOf c)).stopped then hold s .engine 0 6 else k (askCore s c) c t)

/-- KILL with scope thread. -/
def execKillThread (rd ra rb : Reg) (s : State) : Out :=
  threadOp s rd ra (readX s rb).toNat (fun s c t =>
    if c = myCore s ∧ (unitSlots s c t).contains (mySlot s) then status s rd 3
    else status (killThread s c t .free) rd 0)

/-- The kill of a context that is not escalated, with its record's KIND (R247). -/
def killKind (s : State) (ctx kind : Nat) (stamp word1 : W64) : State :=
  killContextWith s ctx stamp word1 0 [0, 0, 0, BitVec.ofNat 64 (kind * 65536), 0]

/-- The states of a context that a KILL accepts (R240, R251). -/
def killable (x : CtxState) : Bool := x == .loading || x == .live || x == .saved || x == .restoring

/-- KILL with scope context. -/
def execKillContext (rd ra rb : Reg) (s : State) : Out :=
  contextOp s rd ra (readX s rb).toNat (fun s =>
    let n := bits (readX s ra) 0 12
    let th := me s
    if (ctxAt s n).st = .free then status s rd 1
    else if n = th.ctx then status s rd 3
    else if !killable (ctxAt s n).st then status s rd 2
    else
      let (m, s) := stampCore s (myCore s)
      status (killKind s n 1 m (threadWord 0 false 0 (mySlot s) (myCore s) th.ctx)) rd 0)

/-- WAKE. -/
def execWake (rd ra : Reg) (s : State) : Out :=
  threadOp s rd ra 0 (fun s c t =>
    let x := (thrAt s c t).slot
    if x = .halted ∨ x = .killed then status s rd 2 else status (raiseEvent s c t evWake) rd 0)

/-- A thread leaves a park of FPX: what else waits for its boundary follows (R249). -/
def resumeFpx (s : State) (c t : Nat) : State := parkMarker (lateFlags (freeThr s c t) c t) c t

/-- A thread leaves a park of SUPERVISOR (R251). -/
def resumeAt (s : State) (c t : Nat) (f : Thread → Thread) : State := freeThr (modThr s c t f) c t

/-- RESUME of a thread parked SUPERVISOR by f; one parked FPX continues when fpx allows it. -/
def resumeOp (s : State) (rd ra rb : Reg) (fpx : Bool) (f : Thread → Thread) : Out :=
  threadOp s rd ra (readX s rb).toNat (fun s c t =>
    let th := thrAt s c t
    if bits (readX s rb) 0 2 = 3 then status s rd 2
    else if parkedFor th .supervisor then status (resumeAt s c t f) rd 0
    else if parkedFor th .fpx && fpx then status (resumeFpx s c t) rd 0
    else status s rd 2)

/-- RESUME with mode RETRY; a mode of 3 gives status 2. -/
def execResumeRetry (rd ra rb : Reg) (s : State) : Out := resumeOp s rd ra rb true returned

/-- RESUME with mode SKIP. -/
def execResumeSkip (rd ra rb : Reg) (s : State) : Out :=
  resumeOp s rd ra rb true (fun th => { returned th with pc := (levelOf th th.tl).epc + 8 })

/-- RESUME with mode HANDLER. -/
def execResumeHandler (rd ra rb : Reg) (s : State) : Out :=
  resumeOp s rd ra rb false (fun th =>
    { th with pc := th.hbase + BitVec.ofNat 64 (64 * bits (levelOf th th.tl).ecause 0 8) })

/-- The pre-emption of a LIVE context begins (R240, R252). -/
def beginPreempt (s : State) (ctx : Nat) (stamp : W64) (waiter : Option (Nat × Nat × Nat)) : State :=
  modCtx s ctx (fun x => { x with st := .preempting, image := some { stamp := stamp }, waiter := waiter })

/-- PREEMPT: the issuer waits until the image is DONE. -/
def execPreempt (rd ra : Reg) (s : State) : Out :=
  contextOp s rd ra 0 (fun s =>
    let n := bits (readX s ra) 0 12
    let mine := some (myCore s, mySlot s, (me s).uid)
    match (me s).reply with
    | some v => .next (takeReply s (some rd) v)
    | none =>
      if (ctxAt s n).waiter = mine then hold s .preempt
      else if (ctxAt s n).st = .free then status s rd 1
      else if n = (me s).ctx then status s rd 3
      else if (ctxAt s n).st ≠ .live then status s rd 2
      else
        let (m, s) := stampCore s (myCore s)
        hold (beginPreempt s n m mine) .preempt)

/-! ## Supervisor messages (R248) -/

/-- SUPERVISOR_MESSAGE_RETRY: a held message is sent again, after the kill record that stands before it. -/
def execSupervisorMessageRetry (idx : Nat) (s : State) : Out :=
  match s.sups[idx]? with
  | none => .next s
  | some m =>
    let s0 := { s with sups := s.sups.eraseIdx idx }
    if m.record ≠ [] then .next (match recordPlace s0 (msgRoot s0 m) with
      | .wait k => startExit s k
      | _ => sendRecord s0 m)
    else match supDeliver s0 m with
      | some s => .next s
      | none => .next s

/-! ## The halt (R252) -/

/-- An operation put among those that have left the product-polynomial queue, where it stood in queue order (R215). -/
def heldInsert (q : PpaReq) : List PpaReq → List PpaReq
  | [] => [q]
  | p :: r => if q.seq < p.seq then q :: p :: r else p :: heldInsert q r

/-- Entries of a halting thread, special-function requests and product-polynomial operations that have not begun, leave their queues in
queue order (R154, R215). Special-function entries of different threads stand in the order in which the threads halt (log 90, DESIGN
CHOICE). -/
def holdUnits (k : Core) (uid : Nat) : Core :=
  let mine := fun (q : PpaReq) => q.uid == uid
  let (run, wait) := if ppaBegun k then (k.ppa.take 1, k.ppa.drop 1) else ([], k.ppa)
  let rest := run ++ wait.filter (fun q => !mine q)
  let sfu := k.sfu.filter (·.uid != uid)
  { k with
    sfuHeld := k.sfuHeld ++ k.sfu.filter (·.uid == uid), sfu := sfu
    sfuStart := if sfu.head? = k.sfu.head? then k.sfuStart else k.time + 1
    ppaHeld := (wait.filter mine).foldl (fun l q => heldInsert q l) k.ppaHeld, ppa := rest
    ppaStart := if rest.head? = k.ppa.head? then k.ppaStart else k.time + 1 }

/-- A trap that a pre-emption halt enters before the thread stops (R365). At level 2 it waits with the thread. -/
def haltTrap (s : State) (c t : Nat) : State :=
  let th := thrAt s c t
  match th.traps.find? (fun p => p.cause == cNEVER), th.park with
  | some p, some q =>
    if 2 ≤ th.tl then s
    else if th.slot = .parked ∧ !(reissues' q.reason || q.reason == .marks || q.reason == .busy) then s
    else trapOutside (modThr (withdrawPark s c t) c t (fun th => { th with traps := th.traps.erase p })) c t p.cause p.eaddr
  | some p, none => if 2 ≤ th.tl then s else trapOutside (modThr s c t (fun th => { th with traps := th.traps.erase p })) c t p.cause p.eaddr
  | none, _ => s

/-- A thread halts: its wait is withdrawn, its unit entries leave their queues, its slot keeps the state it had (R154, R168, R192, R215,
R242, R252, R255, R268), and entries that it has popped in a wait of its effect return (R82). One that completes its bundle first halts
afterwards (R288, R292, R319). A thread whose lease has lapsed leaves the lease queue and is
no more lapsed (log 77, DESIGN CHOICE). -/
def haltThread (s : State) (c t : Nat) : State :=
  if (thrAt s c t).slot = .free ∨ (thrAt s c t).slot = .killed ∨ (thrAt s c t).slot = .halted ∨ (thrAt s c t).slot = .loading
      ∨ finishing (thrAt s c t) then s
  else
    let s := modCore (haltTrap s c t) c (fun k => holdUnits k (thrOf k t).uid)
    let th := thrAt s c t
    let s := match th.park with
      | some q => if th.slot = .parked ∧ reissues' q.reason then withdrawPark s c t else s
      | none => s
    let s := cancelResv s c t
    let s := match (thrAt s c t).keep with
      | some k => if k.back = [] then s else modThr (unpop s c t) c t (fun th => { th with inside := none, keep := none })
      | none => s
    let s := if holdsLease s c t then s else leaseRelease s c t
    modThr s c t (fun th => if th.slot = .halted then th else { th with halted := th.slot, slot := .halted })

/-- A divider works for the thread. -/
def dividing (s : State) (c t : Nat) : Bool :=
  let th := thrAt s c t
  parkedFor th .busy && (match th.park with
    | some q => q.aux == 0
    | none => false) && decide ((coreAt s c).time < th.busyTil)

/-- The core whose scratchpad a binding's source lies in, if it lies in one (R58). -/
def sourceCore (b : Binding) : Option Nat :=
  if winOf b.src = 0xE then some (bits b.src 31 13)
  else if winOf b.src = 0xD then some (clusterOf b.core * 32 + bits b.src 20 5)
  else none

/-- A core halts for a context, or has left it already by a shrink. -/
def haltsWith (s : State) (c ctx d : Nat) : Bool := d == c || !liveFor s d ctx

/-- Names of an agent at a pre-emption halt of a core: its local consumer records end as by RETRC, their tags in error; bindings with a
source in its scratchpad, and those in a scratchpad that it made, are withdrawn, and so are those of cores that have left (R372). -/
def haltAgent (s : State) (c ctx k : Nat) : State :=
  let mine := fun (r : Consumer) => match r with
    | .want w => w.ctx == ctx && haltsWith s c ctx w.core
    | .remote _ _ _ _ => false
  let gone := (cluAt s k).agent.cons.filter mine
  let bs := (cluAt s k).agent.binds.filter (fun b => b.ctx == ctx && !b.withdrawn &&
    (sourceCore b).any (fun d => haltsWith s c ctx d || haltsWith s c ctx b.core))
  let s := modAgent s k (fun a => { a with cons := a.cons.filter (fun r => !mine r) })
  let s := gone.foldl (fun s r => match r with
    | .want w => completeTag s w.core w.slot w.uid w.tag true
    | .remote _ _ _ _ => s) s
  bs.foldl (fun s b => withdrawBinding s k b.name) s

/-- Names at a pre-emption halt of a core, at every agent (R372). -/
def haltNames (s : State) (c ctx : Nat) : State := s.clusters.foldl (fun s p => haltAgent s c ctx p.1) s

/-- The array of a core's cluster stops in place when a thread of the core holds its lease (R206). -/
def freezeArray (s : State) (c ctx : Nat) : State :=
  match (cluAt s (clusterOf c)).arr.holder with
  | some key => if key / 16 = c then modArr s (clusterOf c) (fun a => { a with frozen := some ctx }) else s
  | none => s

/-- PREEMPT_REQUEST: the request reaches a core, which issues no more bundles; parked threads halt at once (R252). -/
def execPreemptRequest (core : Nat) (s : State) : Out :=
  let k := coreAt s core
  if (ctxAt s k.ctx).st ≠ .preempting ∨ k.stopping ∨ k.group = .idle ∨ k.group = .exited then .next s
  else
    let s := modCore (drainAll s core) core (fun k => { k with stopping := true })
    let s := haltNames (freezeArray s core k.ctx) core k.ctx
    .next (slots.foldl (fun s t => if (thrAt s core t).slot = .parked ∧ !dividing s core t then haltThread s core t else s) s)

/-- THREAD_HALT: a thread halts at its boundary (R252). -/
def execThreadHalt (core slot : Nat) (s : State) : Out :=
  if (coreAt s core).stopping ∧ (ctxAt s (coreAt s core).ctx).st = .preempting ∧ !dividing s core slot then
    .next (haltThread s core slot)
  else .next s

/-! ## The image (R253, R254) -/

/-- A core of a context has nothing under way: threads halted, results in, buffers drained. A store held at the comparator of a twin has
not been made and is saved with it (R172, R254). -/
def coreHalted (s : State) (c : Nat) : Bool :=
  let k := coreAt s c
  k.stopping && k.loose.isEmpty && k.ppa.isEmpty && k.nb.isEmpty
    && slots.all (fun t => let th := thrOf k t
      (th.slot == .free || th.slot == .halted || th.slot == .killed) && th.accs.all (fun a => heldAcc th a.id))

/-- A core as its image keeps it. -/
def savedCore (s : State) (c : Nat) : SavedCore :=
  { num := c, core := coreAt s c
    empty := (s.empties.filter (fun w => isScratch (w * 8) && scratchCore (w * 8) == c)).map (fun w => w - wordNo (scratchLoc c 0)) }

/-- A core's group leaves at an image that is DONE: its slots become FREE (R241, R301). -/
def leaveSaved (s : State) (c : Nat) : State :=
  retireHeld (modCore s c (fun k => { k with group := .exited, threads := [], runq := [] })) c

/-- IMAGE_DONE: the image is complete, the context SAVED, its cells FROZEN, its groups exit, and PREEMPT's issuer receives 0 (R240,
R253, R301, R310). -/
def execImageDone (ctx : Nat) (s : State) : Out :=
  let x := ctxAt s ctx
  let cs := staying s ctx
  match x.image with
  | none => .next s
  | some im =>
    if x.st ≠ .preempting ∨ !cs.all (coreHalted s) ∨ s.starts.any (fun q => q.ctx == ctx && q.kind != 4)
        ∨ s.packets.any (·.ctx == ctx) then .next s
    else
      let spilled := !s.clusters.any (fun p => p.2.arr.frozen == some ctx)
      let (bytes, s) := writeBlocks s ctx x.savebase.toNat 256 cs
      let s := writeHeader s x.savebase.toNat bytes cs.length im.stamp spilled
      let s := modCtx s ctx (fun x => { x with
        st := .saved, image := some { im with fin := true, cores := cs.map (savedCore s) }, waiter := none })
      let s := { s with cells := s.cells.map (fun q => if q.2.st = 1 ∧ q.2.ctx = ctx then (q.1, { q.2 with st := 2 }) else q) }
      let s := cs.foldl leaveSaved s
      .next (match x.waiter with
        | some (c, t, u) => if isThread s c t u then answer s c t 0 else s
        | none => s)

/-- What a background spill leaves in an array: the result queue with the statuses that only wait for it, the rows that handlers hold, the
waiters, and first halves of other contexts' commands (R196, R206). -/
def spillKeeps (a : MtxArray) (ctx : Nat) : MtxArray :=
  { waiters := a.waiters, prev := a.prev, openRow := a.openRow, resq := a.resq, dones := a.dones.filter (·.ready)
    half := a.half.filter (fun h => h.2.1 != ctx) }

/-- What a background spill saves (R206). -/
def spillSaves (a : MtxArray) (ctx : Nat) : MtxArray :=
  { a with resq := [], dones := a.dones.filter (fun d => !d.ready), half := a.half.filter (fun h => h.2.1 == ctx) }

/-- ARRAY_SPILL_DONE: a frozen array is saved; ARRAY sets with the last one, and the lease goes on (R206, R253). -/
def execArraySpillDone (cluster : Nat) (s : State) : Out :=
  let a := (cluAt s cluster).arr
  match a.frozen with
  | none => .next s
  | some ctx =>
    match (ctxAt s ctx).image with
    | none => .next s
    | some im =>
      if (ctxAt s ctx).st ≠ .saved ∧ (ctxAt s ctx).st ≠ .preempting then .next s
      else
        let s := modArr s cluster (fun a => spillKeeps a ctx)
        let s := modCtx s ctx (fun x => { x with image := some { im with arrs := im.arrs ++ [(cluster, spillSaves a ctx)] } })
        let last := !s.clusters.any (fun p => p.2.arr.frozen == some ctx)
        let base := (ctxAt s ctx).savebase.toNat
        let s := if last ∧ im.fin then storeAt none s base 1 (loadAt s base 1 / 4 * 4 + 3) else s
        .next (passLease s cluster)

/-! ## Restore (R256) -/

/-- A park as a restored thread acts on it (R242): a BARAW, whose arrival its wait record keeps, waits again as BARWAIT would (R318). -/
def restorePark (s : State) (c t : Nat) : State :=
  let th := thrAt s c t
  match th.park with
  | none => s
  | some _ =>
    let stay := parkedFor th .supervisor || parkedFor th .fpx || parkedFor th .twin
    if stay then s
    else freeThr s c t

/-- The load-value queue of a restored leading thread, its values from the image (R254). -/
def lvqFrom (l : List (Nat × Option W256)) (f : Nat → W64) : List (Nat × Option W256) :=
  (List.range l.length).map (fun i => match l[i]?.getD (0, none) with
    | (id, none) => (id, none)
    | (id, some _) => (id, some (BitVec.ofNat 256 ((f (2 * i)).toNat + (f (2 * i + 1)).toNat * 2 ^ 64))))

/-- A saved thread placed in a slot of a core: its record from memory, its accesses complete; lvq is where the load-value queue of its twin
pair stands. -/
def restoreThread (s : State) (c t base lvq : Nat) (th : Thread) : State :=
  let th := threadFrom th (fun i => wordAt s (base + 8 * i))
  let th := { th with lvq := if t % 2 = 0 then lvqFrom th.lvq (fun i => wordAt s (lvq + 8 * i)) else th.lvq }
  let th := { th with halted := .free, last := none, busyTil := 0, marker := th.marker && !noMarks th }
  if th.slot = .free then setThr s c t {} else restorePark (setThr s c t th) c t

/-- The array that a restored holder takes back, when the array is free (R206). -/
def heldArray (im : Image) (num : Nat) : Option (Nat × MtxArray) :=
  im.arrs.find? (fun q => match q.2.holder with
    | some key => key / 16 == num
    | none => false)

/-- An array is free for a restored state. -/
def arrayFree (a : MtxArray) : Bool :=
  a.holder.isNone && a.frozen.isNone && a.cmdq.isEmpty && a.cur.isNone && a.drain.isNone && a.fifoA.isEmpty && a.fifoB.isEmpty

/-- The array state and its lease return to a core's cluster; what the array has of other contexts meanwhile stays (R196, R206). -/
def restoreArray (s : State) (c : Nat) (a : MtxArray) : State :=
  modArr s (clusterOf c) (fun b =>
    { a with holder := a.holder.map (fun key => leaseKey c (key % 16)), frozen := none, waiters := b.waiters, prev := b.prev
             openRow := b.openRow, resq := b.resq, dones := b.dones ++ a.dones, half := b.half ++ a.half })

/-- The special-function entries of a block as its thread records give them, each thread's in order; one that a record marks as no entry is
gone, and what stands beyond the four of a record is kept in the state (log 16, DESIGN CHOICE). seen lists the threads of the entries before. -/
def sfuLoaded (s : State) (base off : Nat) : List SfuReq → List Nat → List SfuReq
  | [], _ => []
  | q :: r, seen =>
    let j := (seen.filter (· == q.uid)).length
    let rec_ := recordsOf s base off + 1024 * q.slot + 0x320 + 48 * j
    let f := fun i => wordAt s (rec_ + 8 * i)
    (if 4 ≤ j then [q] else if (f 5).getLsbD 23 then [sfuFrom q f] else []) ++ sfuLoaded s base off r (q.uid :: seen)

/-- One core block loaded onto its core (R256); the restored heads of the unit queues begin at the core's present cycle (log 76, DESIGN
CHOICE). -/
def loadBlock (s : State) (c base off : Nat) (sc : SavedCore) : State :=
  let a := base + off
  let k0 := coreAt s c
  let k := blockFrom sc.core (fun i => wordAt s (a + 8 * i))
  let pa := (List.range 8).map (fun i => (i, paFrom (wordAt s (a + 0x200 + 264 * i + 256))
    ((List.range 64).map (fun j => (j, BitVec.ofNat 32 (loadAt s (a + 0x200 + 264 * i + 4 * j) 4))))))
  let sfu := sfuLoaded s base off sc.core.sfuHeld []
  let rq := (List.range sc.core.runq.length).map (fun i =>
    { entryFrom s (sc.core.runq[i]?.getD { kind := 0, ctx := 0, core := c, src := c, pc := 0 })
        (fun j => wordAt s (entriesOf s base off + 128 * i + 8 * j)) with core := c })
  let s := setCore s c { k0 with
    part := k.part, group := k.group, ports := k.ports, s := k.s, y := k.y, sems := k.sems, pa := pa, runq := rq, mhset := mhsetFrom (wordAt s (a + 0x1E0)) (wordAt s (a + 0x1E8))
    landed := sc.core.landed, sfu := sfu, sfuStart := k0.time, ppa := sc.core.ppaHeld.map (fun q => { q with since := k0.time }), ppaStart := k0.time, threads := [] }
  let s := (List.range (scratch k.part * 1024)).foldl (fun s i => storeAt none s (scratchLoc c (8 * i)) 8 (loadAt s (a + 12288 + 8 * i) 8)) s
  let s := sc.empty.foldl (fun s w => setEmpty s (wordNo (scratchLoc c 0) + w)) s
  slots.foldl (fun s t => restoreThread s c t (recordsOf s base off + 1024 * t) (a + 0x1000 + 1024 * (t / 2)) (thrOf sc.core t)) s

/-- The block of an image that names a core, with what the state keeps for it. -/
def blockFor (s : State) (x : Ctx) (c : Nat) : Option (Nat × SavedCore) :=
  match x.image with
  | none => none
  | some im =>
    let bs := imageBlocks s x.imageAt im.cores.length 256
    ((List.zip bs im.cores).find? (fun q => q.1.2 == c)).map (fun q => (q.1.1, q.2))

/-- CORE_BLOCK_LOADED: a claimed core of a restoring context is loaded; with the last one the context is LIVE and its threads go on (R240,
R256, R301). -/
def execCoreBlockLoaded (core : Nat) (s : State) : Out :=
  let k := coreAt s core
  let ctx := k.ctx
  let x := ctxAt s ctx
  if x.st ≠ .restoring ∨ k.group ≠ .claimed then .next s
  else match blockFor s x core, x.image with
    | some (off, sc), some im =>
      let held := heldArray im sc.num
      if held.isSome && !arrayFree (cluAt s (clusterOf core)).arr then .next s
      else
        let s := loadBlock s core x.imageAt off sc
        let s := match held with
          | some (_, a) => restoreArray s core a
          | none => s
        let done := (coresOf s ctx).all (fun c => (coreAt s c).group != .claimed)
        .next (if done then
          let s := modCtx s ctx (fun x => { x with st := .live, image := none })
          (coresOf s ctx).foldl (fun s c => modCore s c (fun k => { k with stopping := false })) s
        else s)
    | _, _ => .next s

/-! ## Errors (R257) -/

/-- UE_KILL: the thread consumes an uncorrectable error (R257). -/
def execUeKill (core slot : Nat) (s : State) : Out := .next (ueKill s core slot)

/-- POISON: the scrubber finds a poisoned line of a context, which stays poisoned: the thread that consumes it is killed (R248, R257; log 96,
DESIGN CHOICE). -/
def execPoison (ctx : Nat) (addr : W64) (s : State) : Out :=
  if (ctxAt s ctx).st = .free then .next s
  else
    let (m, s) := stampDie s (if addr.toNat < hbmEnd then addr.toNat / dieBytes else 0)
    let l := addr.toNat / 64
    let s := if s.poison.contains l then s else { s with poison := s.poison ++ [l] }
    .next (supSend s { ctx := ctx, core := (ctxAt s ctx).supcore, words := [m, threadWord 0 false 0x45 0 0 ctx, 0, addr] })

/-! ## Core groups (R301, R304) -/

/-- A core as a claim's wipe leaves it: memory zero and full, accumulators, semaphores, registration and bindings clear (R301) (log 54, DEDUCED). -/
def wipeCore (s : State) (c : Nat) : State :=
  modCore (wipe s (scratchLoc c 0) (2 ^ 20)) c (fun k => { k with
    s := [], y := [], pa := [], sems := [], semWait := [], mhset := none, ports := [], nb := [], resvs := [], waitOrd := [], landed := []
    runq := [], loose := [], sfu := [], sfuHeld := [], ppa := [], ppaHeld := [], threads := [], nmCount := 0 })

/-- CLAIM_WIPE_COMPLETE: a claimed core of a LOADING context is ACTIVE; with the last one the context is LIVE (R240, R301). -/
def execClaimWipeComplete (core : Nat) (s : State) : Out :=
  let k := coreAt s core
  if (ctxAt s k.ctx).st ≠ .loading ∨ k.group ≠ .claimed then .next s
  else
    let s := modCore s core (fun k => { k with group := .active })
    .next (if (coresOf s k.ctx).all (fun c => (coreAt s c).group == .active) then modCtx s k.ctx (fun x => { x with st := .live }) else s)

/-- A waiter of another core at an exiting core's words traps PEER_GONE (R304). -/
def expelWaiter (s : State) (q : FeWaiter) : State :=
  let s := { s with feWait := s.feWait.filter (fun w => !(w.id == q.id && w.uid == q.uid)) }
  if !isThread s q.core q.slot q.uid then s
  else match accOf (thrAt s q.core q.slot) q.id with
    | none => s
    | some a =>
      if a.order = .loose then pend (dropAccess s q.core q.slot a.id) q.core q.slot cPEERGONE a.addr
      else trapOutside (modThr s q.core q.slot (fun th => dropAcc th a.id)) q.core q.slot cPEERGONE a.addr

/-- Full/empty requests on their way to an exiting core, which will find it gone. -/
def expelTravel (s : State) (c : Nat) : State :=
  s.cores.foldl (fun s p => p.2.threads.foldl (fun s q =>
    (q.2.accs.filter (fun a => isFeRequest a && touchesCore c a && decide (p.1 ≠ c))).foldl (fun s a =>
      expelWaiter s ⟨p.1, q.1, q.2.uid, a.id, 0, a.size, a.op, 0, q.2.ctx⟩) s) s) s

/-- Reservations that threads hold at an exiting core are withdrawn: they ask again, and find no live core (R268, R304). -/
def expelResvs (s : State) (c : Nat) : State :=
  (coreAt s c).resvs.foldl (fun s r =>
    if r.got.isNone && isThread s r.core r.slot r.uid then modThr s r.core r.slot (fun th => { th with resv := th.resv.filter (fun q => q.1 != r.port) }) else s) s

/-- GROUP_EXIT: the exit sequence of a core (R304); a KILLED context whose groups have all exited is FREE (R240). -/
def execGroupExit (core : Nat) (s : State) : Out :=
  let k := coreAt s core
  if k.group ≠ .exited then .next s
  else
    let s := forceWhere s (touchesCore core)
    let s := (s.feWait.filter (fun q => isScratch q.loc && scratchCore q.loc == core && q.core != core)).foldl expelWaiter s
    let s := expelResvs (expelTravel s core) core
    let s := { s with feWait := s.feWait.filter (fun q => !(isScratch q.loc && scratchCore q.loc == core)) }
    let s := retireHeld (wipeCore s core) core
    let s := modCore s core (fun k => { k with group := .idle, ctx := 0, part := 0, stopping := false })
    let s := modClu s (clusterOf core) (fun c => { c with idleNs := (dieAt s (dieOfCore core)).ns })
    .next (if (ctxAt s k.ctx).st = .killed ∧ coresOf s k.ctx = [] then freeCtx s k.ctx else s)

end Sys2Proof.Machine
end

