-- ==== Sys2Proof/Machine/Fps.lean ====
section
/-!
DEFINITION. Scalar floating point: FPS and FCVT (R113 to R116).
-/

namespace Sys2Proof.Machine

/-- The code of a scalar operand: its low 32 or 16 bits (R113). -/
def fop (s : State) (r : Reg) (f : FForm) : Nat := (readX s r).toNat % 2 ^ (formIeee f).width

/-- A floating result, zero-extended, with its flags (R113). -/
def fput (s : State) (rd : Reg) (r : Nat × Flags) : Out := .next (addFlags (writeX s rd (BitVec.ofNat 64 r.1)) r.2)

/-- A comparison result, the integer 1 or 0, with its flags (R113). -/
def fputB (s : State) (rd : Reg) (r : Bool × Flags) : Out := .next (addFlags (writeX s rd (if r.1 then 1 else 0)) r.2)

/-- FADD (R114). -/
def execFadd (rd ra rb : Reg) (f : FForm) (s : State) : Out := fput s rd (fadd (formIeee f) (myMode s) (fop s ra f) (fop s rb f))

/-- FSUB (R114). -/
def execFsub (rd ra rb : Reg) (f : FForm) (s : State) : Out := fput s rd (fsub (formIeee f) (myMode s) (fop s ra f) (fop s rb f))

/-- FMUL (R114). -/
def execFmul (rd ra rb : Reg) (f : FForm) (s : State) : Out := fput s rd (fmul (formIeee f) (myMode s) (fop s ra f) (fop s rb f))

/-- FFMA (R114). -/
def execFfma (rd ra rb rc : Reg) (f : FForm) (s : State) : Out :=
  fput s rd (ffma (formIeee f) (myMode s) (fop s ra f) (fop s rb f) (fop s rc f))

/-- FMIN (R114). -/
def execFmin (rd ra rb : Reg) (f : FForm) (s : State) : Out := fput s rd (minMax (formIeee f) false (fop s ra f) (fop s rb f))

/-- FMAX (R114). -/
def execFmax (rd ra rb : Reg) (f : FForm) (s : State) : Out := fput s rd (minMax (formIeee f) true (fop s ra f) (fop s rb f))

/-- FCMPEQ (R114). -/
def execFcmpeq (rd ra rb : Reg) (f : FForm) (s : State) : Out := fputB s rd (fcmpEq (formIeee f) (fop s ra f) (fop s rb f))

/-- FCMPLT (R114). -/
def execFcmplt (rd ra rb : Reg) (f : FForm) (s : State) : Out := fputB s rd (fcmpLess (formIeee f) false (fop s ra f) (fop s rb f))

/-- FCMPLE (R114). -/
def execFcmple (rd ra rb : Reg) (f : FForm) (s : State) : Out := fputB s rd (fcmpLess (formIeee f) true (fop s ra f) (fop s rb f))

/-- FSGN (R114). -/
def execFsgn (rd ra rb : Reg) (f : FForm) (kind : BitVec 2) (s : State) : Out :=
  fput s rd (fsgn (formIeee f) kind.toNat (fop s ra f) (fop s rb f))

/-- An integer result is sign-extended for INT formats and zero-extended for UINT; a floating one is zero-extended (R116). -/
def fcvtExtend (d : Fmt) (c : Nat) : W64 := if d.isSInt then sext c d.width else BitVec.ofNat 64 c

/-- FCVT (R115, R116). -/
def execFcvt (rd ra : Reg) (dfmt sfmt : Fmt) (sat : Bool) (s : State) : Out :=
  let r := convert (myMode s) sat dfmt sfmt ((readX s ra).toNat % 2 ^ sfmt.width)
  .next (addFlags (writeX s rd (fcvtExtend dfmt r.1)) r.2)

end Sys2Proof.Machine
end

