-- ==== Sys2Proof/Machine/Link.lean ====
section
/-!
DEFINITION. Links: LKCTL and LKQ (R386, R387), link states (R375), the send window and its repair (R379, R380), failed peers (R382),
dropped packets (R383, R384).
-/

namespace Sys2Proof.Machine

/-! ## Failed peers (R382) -/

/-- An access is outstanding to a device. -/
def toPeer (dev : Nat) (a : Access) : Bool := a.lanes.any (fun l => match l.place with
  | .peer d _ => d == dev
  | .here _ => false)

/-- A place of a peer device. -/
def inPeer (dev : Nat) : Place → Bool
  | .peer d _ => d == dev
  | .here _ => false

/-- The contexts with something outstanding to a device: accesses, buffered stores, copies, names (R366). -/
def peerCtxs (s : State) (dev : Nat) : List Nat :=
  let l := s.cores.flatMap (fun p => (p.2.threads.filter (fun q => q.2.accs.any (toPeer dev))).map (fun q => q.2.ctx)
      ++ (p.2.loose.filter (fun e => inPeer dev e.place)).map (·.ctx))
    ++ s.clusters.flatMap (fun p => p.2.chans.flatMap (fun q => (q.2.filter (fun m => (m.srcs ++ m.dsts).any (fun x => x.places.any (inPeer dev)))).map (·.ctx))
      ++ p.2.agent.cons.filterMap (fun r => match r with
        | .remote n _ d _ => if d = dev then (p.2.agent.ints.find? (fun e => e.name == n)).map (·.ctx) else none
        | .want _ => none))
  l.eraseDups

/-- The address of an access's request to a device: that of its first piece there, since each lane of a gather or scatter is a request (R177,
R382). -/
def peerAddr (dev : Nat) (a : Access) : W64 :=
  match a.lanes.find? (fun l => inPeer dev l.place) with
  | some ⟨_, .peer _ x, _⟩ => x
  | _ => a.addr

/-- The requests of one thread to a device trap PEER_GONE (R382). A trailing thread takes the trap with its leader. -/
def failThread (s : State) (c t dev : Nat) : State :=
  ((thrAt s c t).accs.filter (toPeer dev)).foldl (fun s a =>
    let s := dropAccess s c t a.id
    if isTrail (thrAt s c t) then s else pend s c t cPEERGONE (peerAddr dev a)) s

/-- Buffered stores of a core to a device go, and their threads trap. -/
def failLoose (s : State) (c dev : Nat) : State :=
  let gone := (coreAt s c).loose.filter (fun e => inPeer dev e.place)
  let s := modCore s c (fun k => { k with loose := k.loose.filter (fun e => !inPeer dev e.place) })
  gone.foldl (fun s e => match e.place with
    | .peer _ a => if occupied (thrAt s c e.slot) then pend s c e.slot cPEERGONE a else s
    | .here _ => s) s

/-- Copies that have translated a page of the device end in error. -/
def failCopies (s : State) (dev : Nat) : State :=
  s.clusters.foldl (fun s p => p.2.chans.foldl (fun s q => match q.2 with
    | m :: _ =>
      if m.started ∧ (m.srcs ++ m.dsts).any (fun x => x.places.any (inPeer dev)) then failCopy s p.1 q.1 m cPEERGONE m.dst else s
    | [] => s) s) s

/-- Records of the device's requests in the name agents are dropped, and entries that only they asked for expire (R366). -/
def failNames (s : State) (dev : Nat) : State :=
  s.clusters.foldl (fun s p =>
    let cons := p.2.agent.cons.filter (fun r => match r with
      | .remote _ _ d _ => d != dev
      | .want _ => true)
    if cons.length = p.2.agent.cons.length then s
    else modAgent s p.1 (fun a => { a with
      cons := cons
      ints := a.ints.filter (fun e => e.loc || e.dirs != [] || cons.any (fun r => match r with
        | .remote n _ _ _ => n == e.name
        | .want w => w.name == e.name)) })) s

/-- The STATE of a route entry replaced. -/
def setRoute (s : State) (dev st : Nat) : State :=
  { s with routes := tput s.routes dev ((tget 0 s.routes dev &&& ~~~(3 <<< 62 : W64)) ||| BitVec.ofNat 64 (st * 2 ^ 62)) }

/-- A peer is FAILED (R382) (log 59, DEDUCED). -/
def failPeer (s : State) (dev : Nat) : State :=
  let ctxs := peerCtxs s dev
  let (m, s) := stampClu (setRoute s dev 2) (portClusterOf s dev)
  let s := s.cores.foldl (fun s p => p.2.threads.foldl (fun s q => if q.2.accs.any (toPeer dev) then failThread s p.1 q.1 dev else s)
    (if p.2.loose.any (fun e => inPeer dev e.place) then failLoose s p.1 dev else s)) s
  let s := failNames (failCopies s dev) dev
  let s := ctxs.foldl (fun s n =>
    let ws := [m, threadWord 0 false 0x46 0 0 n, 0, BitVec.ofNat 64 dev]
    notify (supSend s { ctx := n, core := (ctxAt s n).supcore, words := ws }) n ws) s
  (s.ams.filter (·.dev == dev)).foldl (fun s q => completeTag s q.core q.slot q.uid q.tag true)
    { s with ams := s.ams.filter (·.dev != dev), quiet := tput s.quiet dev 0 }

/-- The sessions of a peer have been silent for 5 ms while traffic to it was pending (R382). -/
def peerSilent (s : State) (dev : Nat) : Bool := tget 0 s.quiet dev != 0 && decide (tget 0 s.quiet dev + 5000000 ≤ peerNs s dev + 1)

/-- PEER_FAILED: a peer is silent (R382). -/
def execPeerFailed (dev : Nat) (s : State) : Out :=
  if (routeState s dev = 1 ∨ routeState s dev = 3) ∧ peerSilent s dev then .next (failPeer s dev) else .next s

/-! ## Link states (R375) -/

/-- A UE port goes to TRAINING from DISABLED. -/
def ueEnable (u : UePort) : UePort := if u.st = .disabled then { u with st := .training, replays := 0 } else u

/-- The packets of a window that have not been forwarded, as the transport is asked for them (R379). -/
def askOf (l : List WinEntry) : List (Bool × Nat) := (l.filter (fun e => !e.fwd)).map (fun e => (e.rod, e.psn))

/-- A UE port is DISABLED: its window's entries are forwarded to the transport (R379) (log 56, DEDUCED). -/
def ueDisable (u : UePort) : UePort :=
  if u.st = .disabled then u
  else { u with st := .disabled, window := [], repairs := min 65535 (u.repairs + (askOf u.window).length) }

/-- A UE port trains again; its window is kept. -/
def ueRetrain (u : UePort) : UePort := if u.st = .up then { u with st := .training, badRun := 0 } else u

/-- The same events of a CXL port. -/
def cxlEnable (u : CxlPort) : CxlPort := if u.st = .disabled then { u with st := .training, replays := 0 } else u
def cxlDisable (u : CxlPort) : CxlPort := { u with st := .disabled }
def cxlRetrain (u : CxlPort) : CxlPort := if u.st = .up then { u with st := .training } else u

/-- The capability word of the N8 (R377). -/
def ownCap : W64 := 0x7F01

/-- CAP of a route entry with some ports: this device's word and those that the peer sent over its sessions on them (R376, R377). A word that
has not been read yet counts as 0 (log 95, DESIGN CHOICE). -/
def capOf (s : State) (dev : Nat) (b : W64) : W64 :=
  ((List.range 16).filter (fun p => b.getLsbD (32 + p))).foldl (fun c p => c &&& tget 0 (ueAt s p).peers dev) ownCap

/-- A route word with STATE and PORTS as given and CAP computed. -/
def routeWord (s : State) (dev : Nat) (b : W64) : W64 := (b &&& 0xC000FFFF00000000) ||| ((capOf s dev b &&& 0xFFFF) <<< 16)

/-- CAP of the route entries that name a port, computed again after its bring-up (R377). -/
def refreshCaps (s : State) (port : Nat) : State :=
  { s with routes := s.routes.map (fun q => if q.2.getLsbD (32 + port) then (q.1, routeWord s q.1 q.2) else q) }

/-- LINK_UP: a training port is UP. The capability words of its peers, by device, are read over its sessions, or the expander's capacity
is (R375, R377, R427); names of an expander that is not wiped are not ready (R416). Requests that waited for the port go on. -/
def execLinkUp (cxl : Bool) (port : Nat) (caps : List (Nat × W64)) (bytes : Nat) (s : State) : Out :=
  if cxl then
    .next (if port < 4 ∧ (cxlAt s port).st = .training then
      let s := modCxl s port (fun u => { u with st := .up, bytes := bytes })
      wakeDevice <| wakeBlocked <| wakePages (if (cxlAt s port).wiped then s else { s with cxlrdy := s.cxlrdy &&& ~~~(1 <<< port : BitVec 4) })
    else s)
  else
    .next (if port < 16 ∧ (ueAt s port).st = .training then
      refreshCaps (modUe s port (fun u => { u with
        st := .up, badRun := 0, peers := caps.foldl (fun t q => tput t q.1 q.2) u.peers })) port
    else s)

/-- TRAINING_TIMEOUT: 100 ms without success; the attempt restarts (R375). -/
def execTrainingTimeout (cxl : Bool) (port : Nat) (s : State) : Out :=
  if cxl then
    .next (if (cxlAt s port).st = .training then modCxl s port (fun u => { u with fails := min 255 (u.fails + 1) }) else s)
  else .next (if (ueAt s port).st = .training then modUe s port (fun u => { u with fails := min 255 (u.fails + 1) }) else s)

/-! ## The send window (R379, R380) -/

/-- Entries with a wrong check are forwarded: one repair each. bad names the entries whose copies an error has changed, so that the check
that they hold is not theirs. -/
def repairWindow (bad : List Nat) : Nat → List WinEntry → List WinEntry × Nat
  | _, [] => ([], 0)
  | i, e :: r =>
    let (l, n) := repairWindow bad (i + 1) r
    if bad.contains i then ({ e with fwd := true } :: l, n + 1) else (e :: l, n)

/-- The transport is asked to send packets again (R379). -/
def askFor (s : State) (l : List (Bool × Nat)) : State := { s with asked := s.asked ++ l }

/-- LLR_REPLAY: the port sends its window again, a null frame for each entry that fails its check, whose packet the transport is asked for
(R379); 16 failed replays in a row train the link again (R375). -/
def execLlrReplay (port : Nat) (bad : List Nat) (ok : Bool) (s : State) : Out :=
  let u := ueAt s port
  if u.st ≠ .up then .next s
  else
    let (w, n) := repairWindow bad 0 u.window
    let s := askFor s (((List.range w.length).filter bad.contains).filterMap (fun i => u.window[i]?.map (fun e => (e.rod, e.psn))))
    let u := { u with window := w, repairs := min 65535 (u.repairs + n), replays := min 65535 (u.replays + 1)
                      badRun := if ok then 0 else u.badRun + 1 }
    .next (modUe s port (fun _ => if 16 ≤ u.badRun then ueRetrain u else u))

/-- LLR_ACKNOWLEDGEMENT: the neighbouring switch acknowledges the oldest entries, null frames included (R379). -/
def execLlrAcknowledgement (port count : Nat) (s : State) : Out :=
  .next (if (ueAt s port).st = .up then modUe s port (fun u => { u with window := u.window.drop count }) else s)

/-- A packet sent may leave on a port: a RUD packet on any that the route map gives for its device or that its message names, a packet of a
ROD session, numbered after them, on that session's (R375, R379, R385). -/
def mayLeave (s : State) (port idx : Nat) : Bool :=
  match s.linkOut[idx]? with
  | some m => (tget 0 s.routes (linkTo m).1).getLsbD (32 + port) || (linkTo m).2 == some port
  | none => match s.hostOut[idx - s.linkOut.length]? with
    | some m => m.port == port
    | none => false

/-- RUD_RETRANSMIT: the transport sends a packet again, by its number, on a port that is UP and reaches its peer: one it has been asked for,
or one that its own time has come for (R379, R380). The peer takes it once (R171). -/
def execRudRetransmit (port idx : Nat) (s : State) : Out :=
  if 16 ≤ port ∨ !mayLeave s port idx ∨ (ueAt s port).st ≠ .up ∨ 256 ≤ (ueAt s port).window.length then .next s
  else
    let n := s.linkOut.length
    let q := (decide (n ≤ idx), if n ≤ idx then idx - n else idx)
    .next (enterWindow { s with asked := s.asked.filter (· != q) } port q.1 q.2)

/-! ## Dropped packets (R383, R384) -/

/-- A loss log with one more drop, at a time. -/
def lossDrop (l : W64) (ns : Nat) : W64 := BitVec.ofNat 64 (min 0xFFFF (bits l 48 16 + 1) * 2 ^ 48 + ns % 2 ^ 48)

/-- A loss log of the objects of R386 changed. -/
def modLoss (s : State) (obj i : Nat) (f : W64 → W64) : State :=
  if obj = 1 then modUe s i (fun u => { u with loss := f u.loss })
  else if obj = 2 then modCxl s i (fun u => { u with loss := f u.loss })
  else modClu s i (fun c => { c with loss := f c.loss })

/-- A loss log. -/
def lossOf (s : State) (obj i : Nat) : W64 :=
  if obj = 1 then (ueAt s i).loss else if obj = 2 then (cxlAt s i).loss else (cluAt s i).loss

/-- The numbers that an object of R386 has. -/
def objCount (obj : Nat) : Nat := if obj = 1 then 16 else if obj = 2 then 4 else if obj = 3 then 512 else if obj = 4 then 160 else 0

/-- The cluster of a port or router. -/
def objCluster (obj i : Nat) : Nat := if obj = 1 then uePortCluster i else if obj = 2 then cxlPortCluster i else i

/-- PACKET_DROP: a unit drops a packet and logs it, with the stamp of detection (R383). -/
def execPacketDrop (obj index : Nat) (s : State) : Out :=
  if (obj = 1 ∨ obj = 2 ∨ obj = 4) ∧ index < objCount obj then
    let (m, s) := stampClu s (objCluster obj index)
    .next (modLoss s obj index (fun l => lossDrop l (bits m 16 48)))
  else .next s

/-! ## LKCTL and LKQ (R386, R387) -/

/-- OP, OBJ and INDEX of a selector word. -/
def lkOp (w : W64) : Nat := bits w 60 4
def lkObj (w : W64) : Nat := bits w 53 3
def lkIdx (w : W64) : Nat := bits w 0 9

/-- A selector with an object among some, an index of it and no reserved bit. -/
def selectorOk (w : W64) (objs : List Nat) : Bool :=
  bits w 56 4 == 0 && bits w 9 44 == 0 && objs.contains (lkObj w) && decide (lkIdx w < objCount (lkObj w))

/-- The answer to an invalid selector or operand. -/
def lkBad : W64 := 0xFFFFFFFFFFFFFFFF

/-- LKCTL: made once by a twin, when the unit answers; f gives the result and the state after, for a valid selector (R386, R387). -/
def lkctl (s : State) (rd ra rb : Reg) (op : Nat) (objs : List Nat) (rbOk : W64 → Bool) (f : State → W64 → W64 → W64 × State) : Out :=
  let w := readX s ra
  let b := readX s rb
  privOnly s (fun s => once s (some rd) w 8 0 b.toNat (fun s => unitAnswers s (fun s =>
    if lkOp w = op ∧ selectorOk w objs ∧ rbOk b then
      let (v, s) := f s w b
      .next (writeX s rd v)
    else .next (writeX s rd lkBad))))

/-- An event of R375 on a port. -/
def portEvent (s : State) (w : W64) (f : UePort → UePort) (g : CxlPort → CxlPort) : W64 × State :=
  (0, if lkObj w = 1 then modUe s (lkIdx w) f else modCxl s (lkIdx w) g)

/-- LKCTL ENABLE; an operation that is none of the six is invalid. -/
def execLkctlEnable (rd ra rb : Reg) (s : State) : Out :=
  lkctl s rd ra rb 0 [1, 2] (fun b => b == 0) (fun s w _ => portEvent s w ueEnable cxlEnable)

/-- LKCTL DISABLE: the window of a UE port passes to the transport. -/
def execLkctlDisable (rd ra rb : Reg) (s : State) : Out :=
  lkctl s rd ra rb 1 [1, 2] (fun b => b == 0) (fun s w _ =>
    portEvent (if lkObj w = 1 ∧ (ueAt s (lkIdx w)).st ≠ .disabled then askFor s (askOf (ueAt s (lkIdx w)).window) else s) w ueDisable cxlDisable)

/-- LKCTL RETRAIN. -/
def execLkctlRetrain (rd ra rb : Reg) (s : State) : Out :=
  lkctl s rd ra rb 2 [1, 2] (fun b => b == 0) (fun s w _ => portEvent s w ueRetrain cxlRetrain)

/-- A route entry written: STATE and PORTS as given, CAP computed. -/
def writeRoute (s : State) (dev : Nat) (b : W64) : State :=
  let old := routeState s dev
  let s := { s with routes := tput s.routes dev (routeWord s dev b) }
  if bits b 62 2 = 2 ∧ old ≠ 2 then failPeer s dev else s

/-- LKCTL WRITE_ROUTE. -/
def execLkctlWriteRoute (rd ra rb : Reg) (s : State) : Out :=
  let dev := lkIdx (readX s ra)
  lkctl s rd ra rb 3 [3] (fun b => bits b 48 14 == 0 && bits b 0 16 == 0 && dev != s.number) (fun s w b => (0, writeRoute s (lkIdx w) b))

/-- LKCTL CLEAR_LOSS. -/
def execLkctlClearLoss (rd ra rb : Reg) (s : State) : Out :=
  lkctl s rd ra rb 4 [1, 2, 4] (fun b => b == 0) (fun s w _ => (lossOf s (lkObj w) (lkIdx w), modLoss s (lkObj w) (lkIdx w) (fun _ => 0)))

/-- LKCTL REVIVE. -/
def execLkctlRevive (rd ra rb : Reg) (s : State) : Out :=
  lkctl s rd ra rb 5 [3] (fun b => b == 0) (fun s w _ =>
    if routeState s (lkIdx w) = 2 then (0, setRoute s (lkIdx w) 3) else (1, s))

/-- LKQ: made once by a twin, when the unit answers; f gives the result for a valid selector (R386, R387). -/
def lkq (s : State) (rd ra : Reg) (op : Nat) (objs : List Nat) (f : State → W64 → W64) : Out :=
  let w := readX s ra
  privOnly s (fun s => once s (some rd) w 8 0 0 (fun s => unitAnswers s (fun s =>
    .next (writeX s rd (if lkOp w = op ∧ selectorOk w objs then f s w else lkBad)))))

/-- STATE of a link. -/
def linkNo : LinkState → Nat
  | .disabled => 0
  | .training => 1
  | .up => 2

/-- The status word of a port. -/
def portStatus (s : State) (w : W64) : W64 :=
  if lkObj w = 1 then
    let u := ueAt s (lkIdx w)
    BitVec.ofNat 64 (linkNo u.st * 2 ^ 60 + u.window.length * 2 ^ 40 + u.fails * 2 ^ 32 + u.replays * 2 ^ 16 + u.repairs)
  else
    let u := cxlAt s (lkIdx w)
    BitVec.ofNat 64 (linkNo u.st * 2 ^ 60 + u.fails * 2 ^ 32 + u.replays * 2 ^ 16)

/-- LKQ STATUS; an operation that is none of the five is invalid. -/
def execLkqStatus (rd ra : Reg) (s : State) : Out := lkq s rd ra 0 [1, 2] portStatus

/-- LKQ CAP. -/
def execLkqCap (rd ra : Reg) (s : State) : Out := lkq s rd ra 1 [1] (fun _ _ => ownCap)

/-- LKQ LOSS. -/
def execLkqLoss (rd ra : Reg) (s : State) : Out := lkq s rd ra 2 [1, 2, 4] (fun s w => lossOf s (lkObj w) (lkIdx w))

/-- LKQ ROUTE. -/
def execLkqRoute (rd ra : Reg) (s : State) : Out := lkq s rd ra 3 [3] (fun s w => tget 0 s.routes (lkIdx w))

/-- LKQ WINDOW: the names that the expander backs, 0 while the port is not UP (R427). -/
def execLkqWindow (rd ra : Reg) (s : State) : Out :=
  lkq s rd ra 4 [2] (fun s w =>
    let u := cxlAt s (lkIdx w)
    if u.st = .up then BitVec.ofNat 64 (min (u.bytes / 65536) cxlWindow * 2 ^ 32 + cxlWindow * lkIdx w) else 0)

end Sys2Proof.Machine
end

