-- ==== Sys2Proof/Machine/Remote.lean ====
section
/-!
DEFINITION. Requests of peer devices (R74, R171, R296, R366): a link agent translates an access under the mapping of this device and
performs it, or answers with the fault.
-/

namespace Sys2Proof.Machine

/-- Who a remote access translates as: its seat is the die of the receiving port (R74), and where a group mask looks at a cluster or a core,
the port's own cluster and the first core of it (log 78, DESIGN CHOICE). -/
def remoteWho (s : State) (port ctx : Nat) : Who :=
  let c := uePortCluster port * 32
  { ctx := ctx, privid := 0, seat := mkSeat s.number c, core := c }

/-- Translation of a remote access: its prefix is read as level 0; a PRIVATE page faults VP_INVALID (R74). -/
def remoteXl (s : State) (port ctx : Nat) (rt : Rights) (addr : W64) : Xl :=
  let va := bits addr 0 48
  if (ctxAt s ctx).st = .free then .trap cTRANSLATION
  else match leafGlobal s ctx va with
    | .leaf _ wd c b =>
      let key : LeafKey := ⟨ctx, none, va / 2 ^ b * 2 ^ b, b⟩
      if nbits wd 46 2 ≠ 1 ∧ nbits c 0 2 = 1 then .trap cVPINVALID
      else throughLeaf s (remoteWho s port ctx) rt (BitVec.ofNat 64 va) key wd c b
    | .absent => .trap cTRANSLATION
    | .bad => .trap cPROTECTION
    | .wait k => .wait k
    | .unbacked => .unbacked

/-- What a remote access needs. -/
def remoteRights (op : RemoteOp) : Rights := { r := op.kind != 1, w := op.kind != 0 }

/-- The cores that a remote promoting acquire drains (R162). -/
def remoteHits (s : State) (op : RemoteOp) (loc : Nat) : List Nat :=
  if isPacq op.order then ((List.range ((op.size + 7) / 8)).filterMap (fun i => recordOf s (wordNo loc + i))).eraseDups else []

/-- A remote access performed at its location: the value it returns, and the state after (R160, R162, R170). -/
def remotePerform (s : State) (op : RemoteOp) (loc : Nat) : Nat × State :=
  match op.kind with
  | 0 => (loadAt s loc op.size, s)
  | 1 => (0, storeAt (some peerCore) s loc op.size op.data)
  | _ => amoAt peerCore s loc op.size op.amo op.data op.cmp

/-- An answer of a port's link agent to a peer device, with its stamp (R32). -/
def remoteReply (s : State) (dev port cause value : Nat) : State :=
  let (m, s) := stampClu s (uePortCluster port)
  linkSend s (.reply dev port cause value m)

/-- A remote access at its location. One whose identity is held there is not applied again: a store is acknowledged, an AMO gives the value
it returned, and its hold starts again (R171, R380). The stamp goes with the request and comes back with the answer (R29). -/
def remoteApply (s : State) (dev port : Nat) (op : RemoteOp) (loc : Nat) : State :=
  let u := Clk.clu (uePortCluster port)
  match (if op.kind = 0 then none else s.idents.find? (sameIdentity dev op.core op.slot op.stamp)) with
  | some e => remoteReply (holdIdentity s dev op.core op.slot op.stamp e.value e.die) dev port 0 e.value
  | none =>
    let (v, s) := remotePerform (carry s u (locClk loc)) op loc
    let s := carry s (locClk loc) u
    remoteReply (if op.kind = 0 then s else holdIdentity s dev op.core op.slot op.stamp v (dieOfLoc loc)) dev port 0 v

/-- An access of a peer device (R74). One that is answered "moving" or "waking", or that waits at a CXL port or for a line being copied, is
held by the link agent and comes again (R337, R347, R355, R375); so is one whose drains are not done. -/
def remoteAccess (s : State) (dev port ctx : Nat) (op : RemoteOp) : Out :=
  match remoteXl s port ctx (remoteRights op) op.addr with
  | .wait k => .next (startExit s k)
  | .unbacked => .fault .unbackedWalk
  | .trap c => .next (remoteReply s dev port c 0)
  | .reaches (.peer _ _) _ => .next s
  | .reaches (.here loc) _ =>
    if blockedAt s loc || (op.kind != 0 && lineHeld s loc) then .next (reachPlace s (.here loc))
    else
      let d := remoteHits s op loc
      let s := d.foldl (fun s k => let s := drainAll s k; carry s (.core k) (locClk loc)) s
      .next (if d.any (fun k => (coreAt s k).loose != []) then s else remoteApply s dev port op loc)

/-- An active message of a peer device, a YCP launch: the status of its answer is 0 accepted, 4 for a FREE context, 2 for a malformed start,
1 for a context that is LOADING or RESTORING and for a full run queue, 3 for a core that is not open (R282, R296, R429). -/
def remoteStart (s : State) (dev port ctx : Nat) (op : RemoteOp) : State :=
  let x := (List.range 4).map (fun i => BitVec.ofNat 64 (nbits op.data (64 * i) 64))
  let st : Start := { kind := 4, ctx := ctx, core := op.cmp, src := 0, pc := op.addr, x := x, stamp := op.stamp }
  let z := (ctxAt s ctx).st
  if z = .free then remoteReply s dev port 0 4
  else if op.addr.toNat % 8 ≠ 0 ∨ 5120 ≤ op.cmp then remoteReply s dev port 0 2
  else if z = .loading ∨ z = .restoring then remoteReply s dev port 0 1
  else if !openFor s op.cmp ctx then remoteReply s dev port 0 3
  else match acceptStart s st with
    | some (_, s) => remoteReply (receiveCore s op.cmp op.stamp) dev port 0 0
    | none => remoteReply s dev port 0 1

/-- A tile that a peer device has sent over a port reaches the agents whose interests went out that way: each is the end of the reply's
reverse path (R363, R366). -/
def remoteTile (s : State) (dev port : Nat) (op : RemoteOp) : State :=
  let data := (List.range op.size).map (fun i => BitVec.ofNat 8 (op.data / 256 ^ i))
  let ends := (s.clusters.filter (fun p => p.2.agent.ints.any (fun e => e.name == op.addr && e.sent == some (port, dev)))).map (·.1)
  ends.foldl (fun s k =>
    let s := if k = uePortCluster port then s else carry s (.clu (uePortCluster port)) (.clu k)
    { s with tiles := s.tiles ++ [⟨op.addr, data, op.cmp != 0, k⟩] }) s

/-- An acknowledgement of what this device has sent to a peer: its traffic is pending no more, but for requests without an answer (R382). -/
def remoteAck (s : State) (dev : Nat) : State :=
  let open_ := s.cores.any (fun p => p.2.threads.any (fun q => q.2.accs.any (toPeer dev))) || s.ams.any (·.dev == dev)
  if open_ then s else { s with quiet := tput s.quiet dev 0 }

/-- REMOTE_REQUEST: what a peer device sends reaches the link agent of a port that is UP: a load, store or AMO (kind 0 to 2), an interest
(3), a tile (4), an active message (5), or its acknowledgement of what this device sent (6). The agent's clock receives its stamp (R29). A
tile and an acknowledgement are answers: they end PROBING (R382). -/
def execRemoteRequest (dev port ctx : Nat) (op : RemoteOp) (s : State) : Out :=
  if 16 ≤ port ∨ (ueAt s port).st ≠ .up then .next s
  else
  let s := heardFrom (receiveAt s (.clu (uePortCluster port)) op.stamp) dev
  match op.kind with
    | 0 | 1 | 2 => remoteAccess s dev port ctx op
    | 3 => .next { s with ints := s.ints ++ [⟨op.addr, ctx, op.data, uePortCluster port, 0, some (port, dev)⟩] }
    | 4 => .next (remoteTile (peerUp s dev) dev port op)
    | 5 => .next (remoteStart s dev port ctx op)
    | 6 => .next (remoteAck (peerUp s dev) dev)
    | _ => .next s

end Sys2Proof.Machine
end

