-- ==== Sys2Proof/Machine/Host.lean ====
section
/-!
DEFINITION. YCP requests (R385, R429): CREATE, LAUNCH, AMSEND, KILL, PREEMPT, RESTORE, SHRINK, WRITE, READ, and BUDGET, IDENTITY, ATTEST
(R421, R424).
-/

namespace Sys2Proof.Machine

/-! ## Requests and replies (R385) -/

/-- A body word of a request. -/
def bodyWord (y : Ycp) (i : Nat) : W64 := y.body[i]?.getD 0

/-- A reply: the operation with bit 7 set, on the session of its request. -/
def ycpReply (s : State) (y : Ycp) (op st : Nat) (body : List W64) : State :=
  hostSend s { op := op + 0x80, status := st, reqid := y.reqid, ctx := y.ctx, body := body, port := y.port, host := y.host }

/-- The session of a request has host role: one that Odcor has admitted on its port (R385, R425). -/
def isHost (s : State) (y : Ycp) : Bool := y.host && s.hosts.contains y.port

/-- A reply as an answer of exec. -/
def reply (s : State) (y : Ycp) (op st : Nat) : Out := .next (ycpReply s y op st [])

/-- A request reaches the device on a UE port that is UP (R23, R375): the link agent's clock receives its stamp; a session that may not ask
gets 3, a body of the wrong length 2 (R29, R385). -/
def ycp (s : State) (y : Ycp) (op : Nat) (allowed : Bool) (len : Nat → Bool) (k : State → Out) : Out :=
  if 16 ≤ y.port ∨ (ueAt s y.port).st ≠ .up then .next s
  else
  let s := receiveAt s (.clu (uePortCluster y.port)) y.stamp
  if !allowed then reply s y op 3
  else if !len y.body.length ∨ 512 < y.body.length then reply s y op 2
  else k s

/-- The cores of a placement map that starts at a body word (R299). -/
def mapCores (y : Ycp) (from_ : Nat) : List Nat :=
  (List.range 5120).filter (fun c => (bodyWord y (from_ + c / 64)).getLsbD (c % 64))

/-- How a range of physical addresses answers: one that waits, a cluster's exit from VIGIL with it, waits as a whole, and so does one behind
a port that is not UP or, of a write, one with a line being copied (R347, R355, R375; log 52, DEDUCED). -/
def rangeAnswer (s : State) (pa n : Nat) (wr : Bool := false) : Answer :=
  let ls := (List.range ((n + 63) / 64)).map (fun i => pa + 64 * i) ++ (if n = 0 then [] else [pa + n - 1])
  let as := ls.map (answerOf s)
  if as.any (· == .unbacked) then .unbacked
  else match as.find? (· != .now) with
    | some a => a
    | none => if ls.any (fun l => blockedAt s l || (wr && lineHeld s l)) then .wait none else .now

/-! ## CREATE (R239, R278, R279, R300) -/

/-- The number of a kernel descriptor's 128 bytes. -/
def descAt (s : State) (pa : Nat) : Nat := loadAt s pa 128

/-- The entry PCs of a descriptor. -/
def descEntries (d : Nat) : List W64 := (List.range 4).map (fun i => BitVec.ofNat 64 (nbits d (384 + 64 * i) 64))

/-- A descriptor breaks R279 other than by capacity. -/
def descBad (d : Nat) : Bool :=
  let p : BitVec 15 := BitVec.ofNat 15 (nbits d 0 15)
  nbits d 928 16 != 0 || nbits d 29 355 != 0 || nbits d 15 1 != 0 || decide (regf p < 2) || decide (20 < partSum p)
    || (descEntries d).any (fun e => e.toNat % 8 != 0) || nbits d 640 64 % 8 != 0 || nbits d 704 64 % 4096 != 0
    || nbits d 960 64 % 64 != 0 || nbits d 832 64 % 32 != 0

/-- The body words of a CREATE break R239. -/
def createBad (y : Ycp) : Bool :=
  (bodyWord y 1).toNat % 8192 != 0 || (bodyWord y 2).toNat % 8 != 0 || (bodyWord y 3).toNat % 4096 != 0 || (bodyWord y 4).toNat % 64 != 0
    || bits (bodyWord y 5) 1 63 != 0

/-- The life-cycle state admits the kernel of a descriptor (R426). -/
def kernelAllowed (s : State) (pa : Nat) : Bool :=
  s.lcs == 2 || s.lcs == 3 || ((s.lcs == 1 || s.lcs == 4) && Config.testKernel pa (descAt s pa))

/-- A core claimed for a context: its pool is wiped (R301). -/
def claimCore (s : State) (c ctx : Nat) (part : BitVec 15) (stopping : Bool) : State :=
  modCore (wipeCore s c) c (fun k => { k with group := .claimed, ctx := ctx, part := part, stopping := stopping })

/-- A core is IDLE on a die that is ready (R300). -/
def coreTaken (s : State) (c : Nat) : Bool := (coreAt s c).group != .idle || !s.dierdy.getLsbD (dieOfCore c)

/-- YCP CREATE. A descriptor in memory that is not ready yet is waited for, unless the request is refused whatever it holds (R415, R429;
log 52, DEDUCED). -/
def execYcpCreate (y : Ycp) (s : State) : Out :=
  ycp s y 0x01 (isHost s y) (fun n => n == 86) (fun s =>
    let pa := (bodyWord y 0).toNat
    let cs := mapCores y 6
    if createBad y ∨ pa % 64 ≠ 0 then reply s y 0x01 2
    else match rangeAnswer s pa 128 with
      | .unbacked => reply s y 0x01 2
      | .wait k =>
        if cs = [] then reply s y 0x01 2
        else if (ctxAt s y.ctx).st ≠ .free ∨ 4096 ≤ y.ctx then reply s y 0x01 3
        else if cs.any (coreTaken s) then reply s y 0x01 1
        else .next (startExit s k)
      | .now =>
        let d := descAt s pa
        let part : BitVec 15 := BitVec.ofNat 15 (nbits d 0 15)
        if descBad d ∨ cs = [] then reply s y 0x01 2
        else if (ctxAt s y.ctx).st ≠ .free ∨ 4096 ≤ y.ctx ∨ !kernelAllowed s pa
            ∨ cs.any (fun c => decide (cappool (coreAt s c) < partSum part)) then reply s y 0x01 3
        else if cs.any (coreTaken s) then reply s y 0x01 1
        else
          let x : Ctx :=
            { st := .loading, refer := BitVec.ofNat 64 (nbits d 768 64), killrec := bodyWord y 4, savebase := bodyWord y 3
              proot := bodyWord y 2, groot := bodyWord y 1, hbase := BitVec.ofNat 64 (nbits d 704 64), supcore := nbits d 16 13
              priv := (bodyWord y 5).getLsbD 0, kern := .launched, shapetab := BitVec.ofNat 64 (nbits d 960 64), shapen := nbits d 944 16
              recn := nbits d 896 32, recpool := BitVec.ofNat 64 (nbits d 832 64), relaunch := BitVec.ofNat 64 (nbits d 640 64)
              entries := descEntries d, part := part, place := cs }
          let s := cs.foldl (fun s c => claimCore s c y.ctx part false) (modCtx s y.ctx (fun _ => x))
          reply s y 0x01 0)

/-! ## LAUNCH and AMSEND (R282, R283, R296) -/

/-- A start asked for by a YCP message: the rows of R429 after the form of its operands; one for a core of a die whose DIERDY is clear is
refused as busy (R415). -/
def ycpStart (s : State) (y : Ycp) (op core kind : Nat) (bad : Bool) (pc : W64) (x : List W64) : Out :=
  let st := (ctxAt s y.ctx).st
  if st = .free then reply s y op 4
  else if bad ∨ 5120 ≤ core then reply s y op 2
  else if st = .loading ∨ st = .restoring ∨ !s.dierdy.getLsbD (dieOfCore core) then reply s y op 1
  else if st = .saved ∨ st = .killed ∨ !openFor s core y.ctx then reply s y op 3
  else match acceptStart s { kind := kind, ctx := y.ctx, core := core, src := 0, pc := pc, x := x, stamp := y.stamp } with
    | some (_, s) => reply (receiveCore s core y.stamp) y op 0
    | none => reply s y op 1

/-- YCP LAUNCH. -/
def execYcpLaunch (y : Ycp) (s : State) : Out :=
  ycp s y 0x02 (isHost s y) (fun n => n == 3) (fun s =>
    let w := bodyWord y 0
    let pc := (ctxAt s y.ctx).entries[bits w 0 2]?.getD 0
    ycpStart s y 0x02 (bits w 16 13) 0 (pc == 0) pc [bodyWord y 1, bodyWord y 2])

/-- YCP AMSEND: the one request that a device session may make (R385). -/
def execYcpAmsend (y : Ycp) (s : State) : Out :=
  ycp s y 0x03 true (fun n => n == 6) (fun s =>
    let pc := bodyWord y 0
    ycpStart s y 0x03 (bits (bodyWord y 1) 0 13) 4 (pc.toNat % 8 != 0) pc ((List.range 4).map (fun i => bodyWord y (2 + i))))

/-! ## KILL, PREEMPT, RESTORE, SHRINK -/

/-- YCP KILL (R247, KIND 2). -/
def execYcpKill (y : Ycp) (s : State) : Out :=
  ycp s y 0x04 (isHost s y) (fun n => n == 0) (fun s =>
    let st := (ctxAt s y.ctx).st
    if st = .free then reply s y 0x04 4
    else if killable st then
      let (m, s) := stampClu s (uePortCluster y.port)
      reply (killKind s y.ctx 2 m (threadWord 0 false 0 y.port 0x1FFF y.ctx)) y 0x04 0
    else reply s y 0x04 0)

/-- YCP PREEMPT (R252) (log 51, DEDUCED). -/
def execYcpPreempt (y : Ycp) (s : State) : Out :=
  ycp s y 0x05 (isHost s y) (fun n => n == 0) (fun s =>
    let st := (ctxAt s y.ctx).st
    if st = .free then reply s y 0x05 4
    else if st ≠ .live then reply s y 0x05 3
    else reply (beginPreempt s y.ctx y.stamp none) y 0x05 0)

/-- The groups in which a context holds a cell keep a core (R306, R310). -/
def cellsKept (s : State) (ctx : Nat) (cs : List Nat) : Bool :=
  s.cells.all (fun q => q.2.st == 0 || q.2.ctx != ctx || cs.any (inCellGroup q.1))

/-- YCP RESTORE: the image's blocks name the cores of the placement (R255, R256, R300) (log 50, DEDUCED). -/
def execYcpRestore (y : Ycp) (s : State) : Out :=
  ycp s y 0x06 (isHost s y) (fun n => n == 81) (fun s =>
    let x := ctxAt s y.ctx
    let a := (bodyWord y 0).toNat
    let cs := mapCores y 1
    match x.st, x.image with
    | .free, _ => reply s y 0x06 4
    | .saved, some im =>
      match rangeAnswer s a 256 with
      | .unbacked => reply s y 0x06 2
      | .wait k => .next (startExit s k)
      | .now =>
        let h := wordAt s a
        let bs := imageBlocks s a (bits h 2 14) 256
        let part := fun (off : Nat) => BitVec.ofNat 15 (bits (wordAt s (a + off)) 13 15)
        if bits h 0 1 = 0 ∨ bits h 2 14 ≠ im.cores.length ∨ cs = [] ∨ bs.any (fun b => !cs.contains b.2)
            ∨ (bs.map (·.2)).eraseDups.length ≠ cs.length ∨ bs.length ≠ cs.length ∨ bs.any (fun b => !blockOk s a b.1)
            ∨ !cellsKept s y.ctx cs then reply s y 0x06 2
        else if bits h 1 1 = 0 then reply s y 0x06 1
        else if bs.any (fun b => decide (cappool (coreAt s b.2) < partSum (part b.1))) then reply s y 0x06 3
        else if cs.any (coreTaken s) then reply s y 0x06 1
        else
          let s := modCtx s y.ctx (fun x => { x with st := .restoring, place := cs, imageAt := a })
          let s := bs.foldl (fun s b => claimCore s b.2 y.ctx (part b.1) true) s
          let s := { s with cells := s.cells.map (fun q => if q.2.st = 2 ∧ q.2.ctx = y.ctx then (q.1, { q.2 with st := 1 }) else q) }
          reply s y 0x06 0
    | _, _ => reply s y 0x06 3)

/-- YCP SHRINK: the named cores leave the placement (R297). -/
def execYcpShrink (y : Ycp) (s : State) : Out :=
  ycp s y 0x07 (isHost s y) (fun n => n == 80) (fun s =>
    let x := ctxAt s y.ctx
    let cs := mapCores y 0
    if x.st = .free then reply s y 0x07 4
    else if x.st ≠ .live then reply s y 0x07 3
    else if cs = [] ∨ cs.any (fun c => !(staying s y.ctx).contains c) then reply s y 0x07 2
    else
      let s := modCtx s y.ctx (fun x => { x with shrink := x.shrink ++ cs.filter (fun c => !x.shrink.contains c) })
      reply (cs.foldl raiseOvercap s) y 0x07 0)

/-! ## WRITE and READ (R429) -/

/-- YCP WRITE: each word as an ordinary store. A frame that moves is waited for. -/
def execYcpWrite (y : Ycp) (s : State) : Out :=
  ycp s y 0x08 (isHost s y) (fun n => decide (1 ≤ n)) (fun s =>
    let pa := (bodyWord y 0).toNat
    match rangeAnswer s pa (8 * (y.body.length - 1)) true with
    | .unbacked => reply s y 0x08 2
    | .wait k => .next (startExit s k)
    | .now => reply (writeWords s pa (y.body.drop 1)) y 0x08 0)

/-- YCP READ: an empty word reads as zero. -/
def execYcpRead (y : Ycp) (s : State) : Out :=
  ycp s y 0x09 (isHost s y) (fun n => n == 2) (fun s =>
    let pa := (bodyWord y 0).toNat
    let n := (bodyWord y 1).toNat
    if 4088 < n then reply s y 0x09 2
    else match rangeAnswer s pa n with
      | .unbacked => reply s y 0x09 2
      | .wait k => .next (startExit s k)
      | .now =>
        let v := loadAt s pa n
        .next (ycpReply s y 0x09 0 ((List.range ((n + 7) / 8)).map (fun i => BitVec.ofNat 64 (nbits v (64 * i) 64)))))

/-! ## BUDGET, IDENTITY, ATTEST (R416, R421, R424) -/

/-- FRAG of body word 0. -/
def frag (y : Ycp) : Nat := bits (bodyWord y 0) 8 16

/-- A reply in fragments of 511 words; bit 31 of its word 0 marks the last. A fragment that does not exist gives status 2. -/
def fragReply (s : State) (y : Ycp) (st : Nat) (ws : List W64) : State :=
  let n := frag y
  let part := (ws.drop (511 * n)).take 511
  let last := decide (ws.length ≤ 511 * (n + 1))
  if n ≠ 0 ∧ part = [] then ycpReply s y 0x0A 2 []
  else ycpReply s y 0x0A st (((bodyWord y 0 &&& 0xFFFFFF) ||| (if last then 0x80000000 else 0)) :: part)

/-- The bits of the budget register (R421). -/
def budgetMask : W64 := 0xF3FFFF

/-- A fastest point allowed, for UE ports, CXL ports and stacks: those at a faster one go to it (R26, R420, R421). -/
def limitUnits (s : State) (p : Nat) : State :=
  let s := (List.range 16).foldl (fun s i => if p ≤ (ueAt s i).point then s else modUe s i (fun u => { u with point := p })) s
  let s := (List.range 4).foldl (fun s i => if p ≤ (cxlAt s i).point then s else modCxl s i (fun u => { u with point := p })) s
  (List.range 12).foldl (fun s i => if p ≤ tget 1 s.stkPoint i then s else { s with stkPoint := tput s.stkPoint i p }) s

/-- A fastest point allowed: units at a faster one go to it, the clocks of clusters stopped until they have settled unless they do not run
(R420, R421). -/
def limitPoints (s : State) (p : Nat) : State :=
  (List.range 160).foldl (fun s k =>
    let c := cluAt s k
    if p ≤ c.point then s
    else modClu s k (fun c => { c with point := p, stopped := c.stopped || (c.vigil == 0 && !s.gated.getLsbD (dieOf k)) })) (limitUnits s p)

/-- A request of operation 0x0A whose body word 0 names a sub-operation; one that names another is not this request (R424). -/
def ycpSub (s : State) (y : Ycp) (sub : Nat) (allowed : Bool) (len : Nat → Bool) (k : State → Out) : Out :=
  if bits (bodyWord y 0) 0 8 = sub then ycp s y 0x0A allowed len k else .next s

/-- YCP BUDGET write (log 64, DEDUCED). -/
def execBudgetWrite (y : Ycp) (s : State) : Out :=
  ycpSub s y 0 (isHost s y) (fun n => n == 2) (fun s =>
    let v := bodyWord y 1 &&& budgetMask
    let w := bits v 0 16
    if bits v 16 2 = 3 ∨ w < 200 ∨ 2400 < w ∨ frag y ≠ 0 then reply s y 0x0A 2
    else .next (fragReply (limitPoints { s with budget := v } (bits v 16 2)) y 0 [s.budget]))

/-- YCP BUDGET read. -/
def execBudgetRead (y : Ycp) (s : State) : Out :=
  ycpSub s y 1 (isHost s y) (fun n => n == 1) (fun s => .next (fragReply s y 0 [s.budget]))

/-- The ready word (R416). LCS shows the life-cycle state from the boot of Odcor on (R6, R414). -/
def readyWord (s : State) : W64 :=
  let cx := (List.range 4).foldl (fun n p => n + if cxlReady s p then 2 ^ p else 0) 0
  BitVec.ofNat 64 (s.stage * 2 ^ 62 + cx * 2 ^ 36 + s.stkrdy.toNat * 2 ^ 24 + s.dierdy.toNat * 2 ^ 20 + s.lcsShown)

/-- Bytes as words, least significant first; the last word is padded with zeros. -/
def wordsOf (l : List Nat) : List W64 :=
  (List.range ((l.length + 7) / 8)).map (fun i => BitVec.ofNat 64 ((List.range 8).foldl (fun n j => n + (l[8 * i + j]?.getD 0 % 256) * 256 ^ j) 0))

/-- A number as n bytes. -/
def natBytes (v n : Nat) : List Nat := (List.range n).map (fun i => v / 256 ^ i % 256)

/-- A session that may ask for IDENTITY and ATTEST: the host's, and in stage 0 any on UE port 0. -/
def trustSession (s : State) (y : Ycp) : Bool := isHost s y || (s.stage == 0 && y.port == 0)

/-- The seed of the identity key: the digest of the fused device secret, from which Odcor derives the key at each reset (R423). -/
def keySeed : Nat := Config.sha3 Config.deviceSecret

/-- The 2,592 bytes of the public identity key (R423, R424); once the key is destroyed, bytes that the spec does not give (R417; log 15,
DESIGN CHOICE). -/
def identityBytes (s : State) : List Nat :=
  (List.range 2592).map (fun i => if s.idkey then Config.publicKey keySeed i else Config.lostKey i)

/-- The report of a component that failed its verification: one word, 1, at the end of an IDENTITY reply (R422; log 15, DESIGN CHOICE). -/
def failReport (s : State) : List W64 := if s.fwFail then [1] else []

/-- YCP IDENTITY. -/
def execIdentity (y : Ycp) (s : State) : Out :=
  ycpSub s y 2 (trustSession s y) (fun n => n == 1) (fun s =>
    .next (fragReply s y 0 ([readyWord s, Config.partNumber] ++ wordsOf (identityBytes s) ++ failReport s)))

/-- The reply of an ATTEST: the measurement log, then the signature over nonce, measurement and ready word. -/
def attestWords (s : State) (nonce : List W64) : List W64 :=
  let msg := nonce.flatMap (fun w => natBytes w.toNat 8) ++ natBytes s.measure 64 ++ natBytes (readyWord s).toNat 8
  (s.mlog.flatMap (fun d => wordsOf (natBytes d 64))) ++
    wordsOf ((List.range 4627).map (Config.sign keySeed s.attests (Config.sha3 msg)))

/-- YCP ATTEST: fragment 0 makes a fresh signature, the others give the rest of it. -/
def execAttest (y : Ycp) (s : State) : Out :=
  ycpSub s y 3 (trustSession s y) (fun n => n == 5) (fun s =>
    if s.lcs = 5 then reply s y 0x0A 3
    else if frag y = 0 then
      let ws := attestWords s ((List.range 4).map (fun i => bodyWord y (1 + i)))
      .next (fragReply { s with attest := some (ws.map (·.toNat)), attests := s.attests + 1 } y 0 ws)
    else match s.attest with
      | none => reply s y 0x0A 2
      | some l => .next (fragReply s y 0 (l.map (fun n => BitVec.ofNat 64 n))))

/-- A YCP request whose operation, or whose sub-operation of 0x0A, is none that R385 and R424 give: status 2, from a device session 3. -/
def ycpOther (op : Nat) (y : Ycp) (s : State) : Out :=
  if (1 ≤ op ∧ op ≤ 9) ∨ (op = 0x0A ∧ bits (bodyWord y 0) 0 8 ≤ 3 ∧ 1 ≤ y.body.length) ∨ 128 ≤ op then .next s
  else ycp s y op (isHost s y) (fun _ => true) (fun s => reply s y op 2)

end Sys2Proof.Machine
end

