-- ==== Sys2Proof/Machine/Mode.lean ====
section
/-!
DEFINITION. Ganging and twinning: GANG, UNGANG, TWIN, UNTWIN (R258 to R260).
-/

namespace Sys2Proof.Machine

/-- The slot beside an even thread is FREE, and no start has reserved it (R260). -/
def oddFree (s : State) (c t : Nat) : Bool := (thrAt s c (t + 1)).slot == .free && !isReserved s c (t + 1)

/-- The failure statuses of GANG and TWIN in their order: odd issuer, trap level, ganged or twinned, slot busy (R260). -/
def pairStatus (s : State) (free : Bool) : Nat :=
  let th := me s
  if mySlot s % 2 = 1 then 2
  else if th.tl ≠ 0 then 4
  else if isGang th || isTwin th then 3
  else if free then 0 else 1

/-- GANG (R260). -/
def execGang (rd : Reg) (s : State) : Out :=
  once s (some rd) 0 0 0 0 (fun s =>
    let c := myCore s
    let t := mySlot s
    let split := (thrAt s c (t + 1)).slot == .split
    let n := pairStatus s (oddFree s c t || split)
    let s := writeX s rd (BitVec.ofNat 64 n)
    if n ≠ 0 then .next s
    else
      let (uid, s) := withFresh s
      let s := if split then modThr s c (t + 1) (fun o => { o with slot := .ganghigh })
        else setThr s c (t + 1) { slot := .ganghigh, uid := uid, ctx := (me s).ctx }
      .next (modMe s (fun th => { th with mode := th.mode ||| 1 })))

/-- UNGANG (R260). -/
def execUngang (s : State) : Out :=
  once s none 0 0 0 0 (fun s =>
    let c := myCore s
    let t := mySlot s
    let odd := (thrAt s c (t + 1)).slot
    if t % 2 = 0 ∧ (odd = .ganghigh ∨ odd = .split) then
      .next (refill (setThr (modMe s (fun th => { th with mode := th.mode &&& 0xE })) c (t + 1) {}) c)
    else .next s)

/-- The trailing thread of a new twin: a copy of the thread's private state at the next bundle (R260). -/
def trailCopy (th : Thread) (uid : Nat) (pc : W64) : Thread :=
  { th with slot := .trailing, uid := uid, pc := pc, mode := th.mode ||| 6, park := none, reply := none, accs := [], last := none
            marker := false, traps := [], row := none, lvq := [], cmp := [], resv := [], probed := [], inside := none, keep := none
            arrived := [], late := [], ahead := 0 }

/-- TWIN; the thread's results and accesses have arrived before its state is copied (R260; log 97, DESIGN CHOICE). -/
def execTwin (rd : Reg) (s : State) : Out :=
  once s (some rd) 0 0 0 0 (fun s =>
    let c := myCore s
    let t := mySlot s
    let n := pairStatus s (oddFree s c t)
    if n ≠ 0 then .next (writeX s rd (BitVec.ofNat 64 n))
    else settled s (fun s =>
      let (uid, s) := withFresh (writeX s rd 0)
      let s := setThr s c (t + 1) (trailCopy (me s) uid (s.iss.pc + 8))
      .next (modMe s (fun th => { th with mode := th.mode ||| 2, lvq := [], cmp := [], ahead := 0 }))))

/-- UNTWIN: when both threads reach it, the trailing slot is FREE (R260). -/
def execUntwin (s : State) : Out :=
  once s none 0 0 0 0 (fun s =>
    if !isTwin (me s) then .next s
    else
      let c := myCore s
      let t := mySlot s
      let s := modMe s (fun th => { th with mode := th.mode &&& 0x9, lvq := [], cmp := [], ahead := 0 })
      .next (refill (setThr s c (t + 1) {}) c))

end Sys2Proof.Machine
end

