-- ==== Sys2Proof/Machine/Port.lean ====
section
/-!
DEFINITION. Ports: PORT and QSTAT (R263 to R272), the arrival of neighbour pushes (R267), mailbox reservations (R268), and the
queue watchdog (R277).
-/

namespace Sys2Proof.Machine

/-! ## PORT (R265) -/

/-- Fields of a binding word that must be zero, by KIND, and KIND 7 to 15 (R263, R265). -/
def bindingBad (w : W64) : Bool :=
  let k := bKind w
  bits w 48 6 != 0 || bits w 29 18 != 0 || decide (7 ≤ k)
    || (k != 6 && (bEntry w != 0 || bPrio w != 0))
    || (k == 6 && bits w 47 1 != 0)
    || (k != 3 && bCore w != 0)
    || ((k == 0 || k == 4 || k == 5) && bArg w != 0)
    || (k == 1 && decide (1 < bArg w))

/-- Entry i leaves every MBRECV set of a core (R263). -/
def dropFromSets (s : State) (c i : Nat) : State :=
  (List.range 4).foldl (fun s p =>
    let b := portAt s c p
    if bKind b.word = 2 then modPort s c p (fun b => { b with word := b.word &&& ~~~(1 <<< i : W64) }) else s) s

/-- MBDEF of entry ENTRY with a geometry word: its status and the state after (R265). -/
def mboxDefine (s : State) (c p : Nat) (w g : W64) : Nat × State :=
  let n := bits g 20 12
  let base := bits g 0 20
  let i := bEntry w
  if p ≠ 0 then (2, s)
  else if n ≠ 0 ∧ (base % 16 ≠ 0 ∨ scratch (coreAt s c).part * 8192 - 1024 < base + 16 * n) then (2, s)
  else if (mbox s c i).count ≠ 0 ∨ mboxResvs s c i ≠ 0
      ∨ (List.range 16).any (fun j => j != i && (mbox s c j).valid && (mbox s c j).id == bArg w) then (4, s)
  else
    let s := setMbox s c i { base := base, slots := n, valid := n != 0, prio := bPrio w, id := bArg w, head := 0, count := 0 }
    (0, if n = 0 then dropFromSets s c i else s)

/-- The reservations that threads of a core hold through a port are cancelled (R268). -/
def cancelPort (s : State) (c p : Nat) : State :=
  slots.foldl (fun s t => ((thrAt s c t).resv.filter (fun q => q.1 == p)).foldl (fun s q => cancelOne s c t q) s) s

/-- A port takes a binding; every thread parked on it reissues (R265). The accepted reservations that threads hold through it are cancelled
(R268; log 91, DESIGN CHOICE). -/
def bindPort (s : State) (c t p : Nat) (w : W64) : State :=
  let s := cancelPort s c p
  wakePort (modPort s c p (fun _ => { word := w, owner := t })) c p

/-- The status of PORT other than MBDEF (R265). -/
def bindStatus (s : State) (c t p : Nat) (w : W64) : Nat :=
  let b := portAt s c p
  if bKind b.word ≠ 0 ∧ bExcl b.word ∧ b.owner ≠ t then 1
  else if bKind w = 3 ∧ !liveFor s (bCore w) (thrAt s c t).ctx then 3
  else if bKind w = 2 ∧ (List.range 16).any (fun i => bArg w / 2 ^ i % 2 == 1 && !(mbox s c i).valid) then 2
  else 0

/-- PORT (R265). What the bundle pops and pushes uses the binding it issued under. -/
def portOp (s : State) (rd : Reg) (q : BitVec 2) (ra rb : Reg) : Out :=
  let w := readX s ra
  let g := readX s rb
  let p := q.toNat
  once s (some rd) (BitVec.ofNat 64 p) 8 0 (w.toNat * 2 ^ 64 + g.toNat) (fun s =>
    let c := myCore s
    let t := mySlot s
    let s := commitPops s
    let give := fun (s : State) (n : Nat) => writeX s rd (BitVec.ofNat 64 n)
    if scratch (coreAt s c).part = 0 ∧ (bKind w = 1 ∨ bKind w = 2 ∨ bKind w = 3 ∨ bKind w = 6) then .next (give s 5)
    else if bindingBad w then .next (give s 2)
    else if bKind w = 6 then
      let (n, s) := mboxDefine s c p w g
      .next (give s n)
    else
      let n := bindStatus s c t p w
      let s := give s n
      .next (if n = 0 then bindPort s c t p w else s))

/-- PORT of KIND 0, and of a KIND that is none (R265). -/
def execPortUnbind (rd : Reg) (q : BitVec 2) (ra rb : Reg) (s : State) : Out := portOp s rd q ra rb

/-- PORT of KIND 1 (R265). -/
def execPortNeighbour (rd : Reg) (q : BitVec 2) (ra rb : Reg) (s : State) : Out := portOp s rd q ra rb

/-- PORT of KIND 2 (R265). -/
def execPortMbrecv (rd : Reg) (q : BitVec 2) (ra rb : Reg) (s : State) : Out := portOp s rd q ra rb

/-- PORT of KIND 3 (R265). -/
def execPortMbsend (rd : Reg) (q : BitVec 2) (ra rb : Reg) (s : State) : Out := portOp s rd q ra rb

/-- PORT of KIND 4 (R265). -/
def execPortArraycmd (rd : Reg) (q : BitVec 2) (ra rb : Reg) (s : State) : Out := portOp s rd q ra rb

/-- PORT of KIND 5 (R265). -/
def execPortArrayres (rd : Reg) (q : BitVec 2) (ra rb : Reg) (s : State) : Out := portOp s rd q ra rb

/-- PORT of KIND 6, which defines a mailbox (R263, R265). -/
def execPortMbdef (rd : Reg) (q : BitVec 2) (ra rb : Reg) (s : State) : Out := portOp s rd q ra rb

/-- QSTAT: the status word arrives as a long-latency result (R272). -/
def execQstat (rd : Reg) (q : BitVec 2) (s : State) : Out :=
  let c := myCore s
  let t := mySlot s
  if isTrail (me s) then
    match (thrAt s c (t - 1)).lvq with
    | (_, some x) :: r => .next (writeX (wakeTwin (modThr s c (t - 1) (fun th => { th with lvq := r })) c (t - 1)) rd (x.setWidth 64))
    | _ => hold s .twin
  else if isTwin (me s) && decide (32 ≤ (me s).lvq.length) then wait s .twin
  else
    let (id, s) := withFresh s
    let s := addAccess s (newAccess s id 0 (.qstat q.toNat) .loose 0 8 (.scalar rd) [] [])
    .next (if isTwin (me s) then wakeTwin (modMe s (fun th => { th with lvq := th.lvq ++ [(id, none)] })) c (t + 1) else s)

/-! ## Arrivals -/

/-- NEIGHBOUR_ARRIVAL: a push made 8 cycles before enters the queue, after those made before it into the same queue (R267, R273), unless a line
of the queue area is copied now (R347). -/
def execNeighbourArrival (core idx : Nat) (s : State) : Out :=
  match (coreAt s core).nb[idx]? with
  | none => .next s
  | some p =>
    if p.due < (coreAt s core).time ∧ !((coreAt s core).nb.take idx).any (·.up == p.up) ∧ !areaHeld s core then
      let s := modCore (receiveCore s core p.stamp) core (fun k => { k with nb := k.nb.eraseIdx idx })
      .next (queueArrival (nbAppend s core p.up p.entry) core (popsNb p.up))
    else .next s

/-- The reservation of a parked thread reaches core CORE, which answers (R268); while the clock of its cluster stands the request waits
(R420). -/
def reserve (s : State) (c t p : Nat) : State :=
  let th := thrAt s c t
  let w := (portAt s c p).word
  let d := bCore w
  let refuse := fun (cause : Nat) => answer (leavePorts (modPort s c p (fun b => { b with faulted := true })) c t) c t (BitVec.ofNat 64 cause)
  if (cluAt s (clusterOf d)).stopped then s
  else if !liveFor s d th.ctx then refuse cPEERGONE
  else match mboxById s d (bArg w) with
    | none => refuse cPROTECTION
    | some i =>
      if mboxFree s d i = 0 then
        modThr s c t (fun th => { th with park := th.park.map (fun q => { q with aux := 3, since := (coreAt s c).time }) })
      else
        let s := modCore s d (fun k => { k with resvs := k.resvs ++ [⟨i, c, t, th.uid, p, none⟩] })
        freeThr (modThr (leavePorts s c t) c t (fun th => { th with resv := th.resv ++ [(p, i)] })) c t

/-- A thread waits for the answer to its reservation, in a stage of its park (1 sent, 3 refused as full). -/
def waitsResv (s : State) (c t aux : Nat) : Option Park :=
  let th := thrAt s c t
  th.park.filter (fun q => parkedFor th .port && q.aux.toNat == aux && decide (q.obj.toNat < 4)
    && !th.resv.any (fun r => r.1 == q.obj.toNat) && bKind (portAt s c q.obj.toNat).word == 3)

/-- MB_RESERVATION (R268). -/
def execMbReservation (core slot : Nat) (s : State) : Out :=
  match waitsResv s core slot 1 with
  | some q => .next (reserve s core slot q.obj.toNat)
  | none => .next s

/-- MB_RESERVATION_RESEND: a refused reservation is sent again after 64 cycles (R268). -/
def execMbReservationResend (core slot : Nat) (s : State) : Out :=
  match waitsResv s core slot 3 with
  | some q => .next (if q.since + 64 ≤ (coreAt s core).time then reserve s core slot q.obj.toNat else s)
  | none => .next s

/-! ## The watchdog (R277) -/

/-- The feeder of the queue that a thread waits to pop, when it is parked on an empty pop of a NEIGHBOUR port. -/
def awaitedFeeder (s : State) (c t : Nat) : Option Nat :=
  let th := thrAt s c t
  match th.park with
  | none => none
  | some q =>
    let w := (portAt s c q.obj.toNat).word
    if parkedFor th .port && q.aux == 0 && decide (q.obj.toNat < 4) && bKind w == 1 then some (nbTarget c (bArg w % 2)) else none

/-- QWATCH_EXPIRY: a thread parked on an empty NEIGHBOUR pop for $qwatch cycles sends a probe. -/
def execQwatchExpiry (core slot : Nat) (s : State) : Out :=
  let k := coreAt s core
  let q := k.qwatch.toNat
  match awaitedFeeder s core slot, (thrAt s core slot).park with
  | some f, some p =>
    if q = 0 ∨ k.time < p.since + q then .next s
    else
      let s := modThr s core slot (fun th => { th with park := some { p with since := k.time } })
      .next { s with probes := s.probes ++ [⟨core, slot, f, [core], 0⟩] }
  | _, _ => .next s

/-- The report of a cycle: QUEUE_CYCLE with the cores of the set (R277). -/
def reportCycle (s : State) (p : Probe) : State :=
  let th := thrAt s p.origin p.slot
  if (awaitedFeeder s p.origin p.slot).isNone || p.seen.any (fun c => decide (c < p.origin)) || th.probed.contains p.seen then s
  else
    let s := modThr s p.origin p.slot (fun th => { th with probed := th.probed ++ [p.seen] })
    let w := p.seen.foldl (fun n c => n + 2 ^ (c % 32)) (clusterOf p.origin * 2 ^ 32)
    supThread s p.origin p.slot 0x44 false th.pc (BitVec.ofNat 64 w)

/-- A probe at a core: it passes to the feeders of the queues that the threads of the context await, or ends. -/
def passProbe (s : State) (p : Probe) : State :=
  let ctx := (thrAt s p.origin p.slot).ctx
  let ts := slots.filter (fun t => occupied (thrAt s p.at_ t) && !isUpper (thrAt s p.at_ t) && (thrAt s p.at_ t).ctx == ctx)
  if 32 ≤ p.hops + 1 ∨ ts.any (fun t => (awaitedFeeder s p.at_ t).isNone) then s
  else
    let seen := insertRising p.at_ p.seen
    let next := (ts.filterMap (awaitedFeeder s p.at_)).eraseDups
    { s with probes := s.probes ++ next.map (fun f => { p with at_ := f, seen := seen, hops := p.hops + 1 }) }

/-- QUEUE_PROBE: a probe reaches a core, its origin or another. -/
def execQueueProbe (idx : Nat) (s : State) : Out :=
  match s.probes[idx]? with
  | none => .next s
  | some p =>
    let s := { s with probes := s.probes.eraseIdx idx }
    .next (if p.at_ = p.origin then reportCycle s p else passProbe s p)

end Sys2Proof.Machine
end

