-- ==== Sys2Proof/Machine/Power.lean ====
section
/-!
DEFINITION. Start, reset, power, trust (R414 to R426): the stages, the resets, operating points, the gating of dies, the life cycle.
-/

namespace Sys2Proof.Machine

/-! ## Firmware (R422) -/

/-- The digest of Grenoskund's firmware public key that the ROM holds; the fuses hold the key. -/
def romDigest : Nat := Config.sha3 Config.vendorKey

/-- The digest of a component. -/
def componentDigest (f : Firmware) : Nat := Config.sha3 f.image

/-- A component's signature verifies over its digest under the key of the fuses, the one whose digest the ROM holds. -/
def verified (f : Firmware) : Bool :=
  Config.sha3 Config.vendorKey == romDigest && Config.verify Config.vendorKey (componentDigest f) f.signature

/-- Components loaded in order: each verified one is measured; the first that fails stops the load, and the failure is kept for the
IDENTITY reply. -/
def loadFirmware (s : State) : List Firmware → State
  | [] => { s with fwOk := true, fwFail := false }
  | f :: r =>
    if !verified f then { s with fwOk := false, fwFail := true }
    else loadFirmware { s with
      mlog := s.mlog ++ [componentDigest f], measure := Config.sha3 (natBytes s.measure 64 ++ natBytes (componentDigest f) 64) } r

/-! ## Stages (R414, R416) -/

/-- POWER_GOOD: Odcor boots, shows the life-cycle state of the fuses, verifies the firmware, and trains UE port 0 (R414, R416, R422). -/
def execPowerGood (parts : List Firmware) (s : State) : Out :=
  if s.stage ≠ 0 ∨ s.fwOk then .next s
  else
    let s := loadFirmware { s with mlog := [], measure := 0, lcsShown := s.lcs } parts
    .next (modUe s 0 ueEnable)

/-- Odcor enables the ports of a die (R375, R414). -/
def enablePorts (s : State) (d : Nat) : State :=
  (List.range 4).foldl (fun s i => modUe s (4 * d + i) ueEnable) (modCxl s d cxlEnable)

/-- The stack that a location's storage lies in, that of its pseudo-channel (R341, R343); none for storage elsewhere. -/
def stackOf (s : State) (loc : Nat) : Option Nat :=
  if isScratch loc then none else (hbmAddr s loc).map (fun o =>
    3 * (o / dieBytes) + linePseudo (dieAt s (o / dieBytes)) (pseudoOf (o % dieBytes)) (lineOf (o % dieBytes)) / 64)

/-- The CXL port whose expander stores a location. -/
def cxlOf (s : State) (loc : Nat) : Option Nat :=
  if isScratch loc ∨ (hbmAddr s loc).isSome then none else some (groupDie (congruence loc).1)

/-- Memory whose storage is a given one is wiped: zero and full (R163, R418). -/
def wipeWhere (s : State) (p : Nat → Bool) : State :=
  { s with mem := s.mem.filter (fun q => !p q.1), empties := s.empties.filter (fun w => !p (w * 8))
           relrec := s.relrec.filter (fun q => !p (q.1 * 8)), poison := s.poison.filter (fun l => !p (l * 64)) }

/-- STACK_READY: a stack is trained, and wiped unless its start wipe has completed before (R414, R418). Die 0's three come first; those of
the other dies join when die 0 is ready. With the first, stage 1 has begun (log 57, DEDUCED). -/
def execStackReady (stack : Nat) (s : State) : Out :=
  if !s.fwOk ∨ 12 ≤ stack ∨ (3 ≤ stack ∧ s.stage < 2) then .next s
  else
    let b : BitVec 12 := 1 <<< stack
    let s := if s.stkwiped.getLsbD stack then s else wipeWhere s (fun l => stackOf s l == some stack)
    let s := { s with stkrdy := s.stkrdy ||| b, stkwiped := s.stkwiped ||| b, stage := max s.stage 1 }
    .next (enablePorts s (stack / 3))

/-- DIE_READY: the die's three stacks are ready and its SRAM is wiped; what waited for it goes on (R414 to R416). Die 0 is the first, and
its DIERDY ends stage 1; the others join after it, in stage 3. -/
def execDieReady (die : Nat) (s : State) : Out :=
  let stks := (List.range 3).all (fun i => s.stkrdy.getLsbD (3 * die + i))
  if !s.fwOk ∨ 4 ≤ die ∨ !stks ∨ s.gated.getLsbD die ∨ (die ≠ 0 ∧ s.stage < 2) then .next s
  else
    let s := { s with dierdy := s.dierdy ||| (1 <<< die), stage := max s.stage (if die = 0 then 2 else 3) }
    .next (wakeDevice (wakePages s))

/-- CXL_READY: the names of a CXL port that is UP are wiped, unless their start wipe has completed before, or Odcor has found no expander at
a port that does not come UP (R414, R416, R418). The CXL tier follows die 0. -/
def execCxlReady (found : CxlEnd) (s : State) : Out :=
  if !s.fwOk ∨ 4 ≤ found.port ∨ s.stage < 2 ∨ ((cxlAt s found.port).st = .up ↔ found.absent = true) then .next s
  else
    let s := if found.absent ∨ (cxlAt s found.port).wiped then s else wipeWhere s (fun l => cxlOf s l == some found.port)
    let s := modCxl { s with cxlrdy := s.cxlrdy ||| (1 <<< found.port) } found.port (fun u =>
      { u with wiped := !found.absent, bytes := if found.absent then 0 else u.bytes })
    .next (wakeDevice (wakePages s))

/-! ## Resets (R417 to R419) -/

/-- A pool or slice evacuation ends at a reset: the unit is RETIRED, its destination takes its logical place (R419) (log 58, DEDUCED). -/
def endEvac (t : Tbl BankUnit) (get : Tbl BankUnit → Nat → BankUnit) (n : Nat) : Tbl BankUnit :=
  (List.range n).foldl (fun t b =>
    let u := get t b
    if u.st ≠ .evacuating then t
    else
      let t := match u.dest, u.stub with
        | some d, none => tput t d { get t d with logical := u.logical }
        | _, _ => t
      tput t b { u with st := .retired, logical := none, held := false, stub := none }) t

/-- A core after a reset: its bank map, with evacuations ended, and its stamp clock are kept, and its cycles count from 0 (R130, R417,
R419). -/
def resetCore (k : Core) : Core :=
  let hole := (List.range 20).filterMap (fun b => if (poolBank k b).held then (poolBank k b).logical else none)
  hole.foldl fillHole { clock := k.clock, banks := endEvac k.banks (fun t b => tget { logical := some b } t b) 20 }

/-- A cluster after a reset at a count of its die: its cores are IDLE from then on (R420). -/
def resetCluster (c : Cluster) (ns : Nat) : Cluster :=
  { clock := c.clock, idleNs := ns, slices := endEvac c.slices (fun t b => tget { logical := some b } t b) 32 }

/-- Bytes and empty words outside the scratchpads. -/
def keptMem (s : State) : List Host.Cell := s.mem.filter (fun p => !isScratch p.1)
def keptEmpties (s : State) : List Nat := s.empties.filter (fun w => !isScratch (w * 8))

/-- What every reset keeps: the device number, bank maps, almanac, life cycle and owner credential, the messages already sent, and the
model's counters. Sessions and their keys are gone, and the identity key is derived again (R417, R423). -/
def resetBase (s : State) : State :=
  { number := s.number
    cores := s.cores.map (fun p => (p.1, resetCore p.2))
    clusters := (List.range 160).map (fun k => (k, resetCluster (cluAt s k) (dieAt s (dieOf k)).ns))
    dies := s.dies
    lcs := s.lcs, owner := s.owner, ownerFuse := s.ownerFuse, idkey := s.lcs != 5, attests := s.attests
    hostOut := s.hostOut, linkOut := s.linkOut, agenda := s.agenda, focus := s.focus, fresh := s.fresh, free := s.free }

/-- WARM_RESET (R417): HBM and CXL contents, remap, swaps, firmware and measurements are kept; ports train again. What an expander backs is
read again as its port comes UP (R427). -/
def execWarmReset (s : State) : Out :=
  .next { resetBase s with
    mem := keptMem s, empties := keptEmpties s, poison := s.poison.filter (fun l => !isScratch (l * 64)), remap := s.remap
    swaps := s.swaps.map (fun w => { w with issuer := none })
    fwOk := s.fwOk, fwFail := s.fwFail, lcsShown := s.lcs, measure := s.measure, mlog := s.mlog, stkwiped := s.stkwiped
    ue := (List.range 16).map (fun p => (p, { st := .training }))
    cxl := (List.range 4).map (fun p => (p, { st := .training, bytes := (cxlAt s p).bytes, wiped := (cxlAt s p).wiped })) }

/-- COLD_RESET: everything is wiped, Odcor restores the bank maps, the almanac restarts from IEEE 1588 time (R417, R419). -/
def execColdReset (phys : Nat) (s : State) : Out :=
  .next (resetBase { s with dies := (List.range 4).map (fun d => (d, { dieAt s d with ns := phys, clock := 0 })) })

/-! ## Life cycle and the owner credential (R425, R426) -/

/-- Odcor holds an owner credential: a public key whose digest the fuses hold (R425). -/
def ownerOk (s : State) : Bool :=
  match s.owner, s.ownerFuse with
  | some k, some f => f == Config.sha3 (natBytes k 2592)
  | _, _ => false

/-- A session on a UE port asks for host role: it is admitted when its peer signs with the owner's key, or, in MANUFACTURE, as the first on
port 0 (R425). -/
def admitSession (s : State) (port : Nat) (signed : Bool) : State :=
  if port < 16 ∧ (ueAt s port).st = .up ∧ !s.hosts.contains port ∧
      ((ownerOk s ∧ signed) ∨ (s.lcs = 1 ∧ port = 0 ∧ s.hosts = [])) then { s with hosts := s.hosts ++ [port] }
  else s

/-- The transitions of the life cycle, with the signatures that each needs. -/
def lifeStep (from_ next : Nat) (vendor owner : Bool) : Bool :=
  (from_ == 1 && next == 2 && vendor) || (from_ == 2 && next == 3 && owner) || (from_ == 3 && next == 4 && vendor && owner)
    || (from_ == 4 && next == 5 && vendor)

/-- The bank maps as manufactured: they are cleared on entry to RMA (R344, R417). -/
def clearMaps (s : State) : State :=
  { s with
    cores := s.cores.map (fun p => (p.1, { p.2 with banks := [] }))
    clusters := s.clusters.map (fun p => (p.1, { p.2 with slices := [] }))
    dies := s.dies.map (fun p => (p.1, { p.2 with pchs := [], redirect := [], domain := true })) }

/-- LIFE_CYCLE_CHANGE, asked for on a host session with the signatures that the command carries: the new state, every memory wiped, the
device at stage 0. The owner credential, in the command's body, is installed with PROVISIONED, its digest in the fuses, and destroyed with
DECOMMISSIONED, and so is the identity key (R417, R425, R426). -/
def execLifeCycleChange (cmd : LifeCommand) (vendor owner : Bool) (s : State) : Out :=
  if !s.hosts.contains cmd.port ∨ !lifeStep s.lcs cmd.next vendor (owner && ownerOk s) then .next s
  else
    let s := { resetBase s with
      lcs := cmd.next, idkey := cmd.next != 5
      owner := if cmd.next = 2 then some cmd.key else if cmd.next = 5 then none else s.owner
      ownerFuse := if cmd.next = 2 then some (Config.sha3 (natBytes cmd.key 2592)) else if cmd.next = 5 then none else s.ownerFuse }
    .next (if cmd.next = 4 then clearMaps s else s)

/-! ## Operating points (R420, R421) -/

/-- A cluster goes to a point: its clock stops until it has settled (R420). -/
def goPoint (s : State) (k p : Nat) : State := modClu s k (fun c => { c with point := p, stopped := true })

/-- A cluster that may change its point. -/
def mayPoint (s : State) (k : Nat) : Bool :=
  decide (k < 160) && (cluAt s k).vigil == 0 && !(cluAt s k).stopped && !s.gated.getLsbD (dieOf k)

/-- A unit may choose a point instead of the one it is at: none faster than MAXPOINT, and a faster one only within the budget (R26, R420).
held: the power controllers have stepped it down. -/
def pointOk (s : State) (now point : Nat) (held : Bool) : Bool :=
  decide (point ≤ 2) && decide (bits s.budget 16 2 ≤ point) && (decide (now ≤ point) || (decide (s.watts ≤ bits s.budget 0 16) && !held))

/-- OPERATING_POINT_CHANGE: a cluster chooses its point, within the limits of the budget (log 80, DESIGN CHOICE). -/
def execOperatingPointChange (cluster point : Nat) (s : State) : Out :=
  if mayPoint s cluster ∧ pointOk s (cluAt s cluster).point point (s.stepped.contains cluster) then .next (goPoint s cluster point) else .next s

/-- A UE port (1), CXL port (2) or stack (3) chooses its point (R26, R420). -/
def unitPoint (s : State) (kind idx point : Nat) : State :=
  if kind = 1 ∧ idx < 16 ∧ pointOk s (ueAt s idx).point point false then modUe s idx (fun u => { u with point := point })
  else if kind = 2 ∧ idx < 4 ∧ pointOk s (cxlAt s idx).point point false then modCxl s idx (fun u => { u with point := point })
  else if kind = 3 ∧ idx < 12 ∧ pointOk s (tget 1 s.stkPoint idx) point false then { s with stkPoint := tput s.stkPoint idx point }
  else s

/-- The power controllers' estimate of the package total and of each cluster's activity over the last 10 us (R420; log 80, DESIGN
CHOICE). -/
def estimate (s : State) (watts : Nat) (acts : List Nat) : State :=
  (List.range 160).foldl (fun s k => if (cluAt s k).activity = acts[k]?.getD 0 then s else modClu s k (fun c => { c with activity := acts[k]?.getD 0 }))
    { s with watts := watts }

/-- OPERATING_POINT_SETTLED: the cluster's clock runs again, and requests that waited for it go on (R420). -/
def execOperatingPointSettled (cluster : Nat) (s : State) : Out :=
  .next (if (cluAt s cluster).stopped then wakeBlocked (modClu s cluster (fun c => { c with stopped := false })) else s)

/-- A cluster is the one that steps down first: of those that can, it has the least activity, and of these the lowest number. -/
def stepsFirst (s : State) (k : Nat) : Bool :=
  (List.range 160).all (fun j => !mayPoint s j || decide (2 ≤ (cluAt s j).point) || decide ((cluAt s k).activity < (cluAt s j).activity)
    || ((cluAt s k).activity == (cluAt s j).activity && decide (k ≤ j)))

/-- BUDGET_STEP: while the estimated total exceeds WATTS, the power controllers step a cluster one point down; once there is room, clusters
step up again in the reverse order (R420). -/
def execBudgetStep (cluster : Nat) (down : Bool) (s : State) : Out :=
  let p := (cluAt s cluster).point
  let w := bits s.budget 0 16
  if !mayPoint s cluster then .next s
  else if down then
    .next (if w < s.watts ∧ p < 2 ∧ stepsFirst s cluster then goPoint { s with stepped := cluster :: s.stepped } cluster (p + 1) else s)
  else match s.stepped with
    | k :: r =>
      .next (if k = cluster ∧ s.watts ≤ w then
        (if bits s.budget 16 2 < p then goPoint { s with stepped := r } cluster (p - 1) else { s with stepped := r })
      else s)
    | [] => .next s

/-! ## Gating (R306, R421) -/

/-- Every core of a die is IDLE. -/
def dieIdle (s : State) (d : Nat) : Bool := s.cores.all (fun p => dieOfCore p.1 != d || p.2.group == .idle)

/-- DIE_GATE: the die's tarns drop their tiles, its clusters power off, DIERDY clears. No cluster of it is in VIGIL or changes its point any
more, and what waited for that goes on (R353, R420, R421). -/
def execDieGate (die : Nat) (s : State) : Out :=
  if 4 ≤ die ∨ !(s.budget.getLsbD (20 + die)) ∨ !s.dierdy.getLsbD die ∨ !dieIdle s die then .next s
  else
    let s := (clustersOfDie die).foldl (fun s k => modClu s k (fun c => { c with
      vigil := 0, stopped := false, agent := { c.agent with tiles := [] } })) s
    let s := (clustersOfDie die).foldl odcorSettle s
    .next (wakeBlocked <| wakePages { s with gated := s.gated ||| (1 <<< die), dierdy := s.dierdy &&& ~~~(1 <<< die : BitVec 4) })

/-- DIE_UNGATE: the die's GATE bit is clear; DIERDY sets. -/
def execDieUngate (die : Nat) (s : State) : Out :=
  if !s.gated.getLsbD die ∨ s.budget.getLsbD (20 + die) then .next s
  else
    let s := (clustersOfDie die).foldl (fun s k => modClu s k (fun c => { c with idleNs := (dieAt s die).ns })) s
    .next (wakeDevice (wakePages { s with gated := s.gated &&& ~~~(1 <<< die : BitVec 4), dierdy := s.dierdy ||| (1 <<< die) }))

/-! ## The almanac (R31) -/

/-- The nanosecond count of a die reaches a value: the dies of the device agree within 2 ns (R31). -/
def advance (s : State) (d n : Nat) : State :=
  if d < 4 ∧ (dieAt s d).ns < n then
    (List.range 4).foldl (fun s e => modDie s e (fun x => { x with ns := if e = d then n else max x.ns (n - 2) })) s
  else s

end Sys2Proof.Machine
end

