-- ==== Sys2Proof/Machine/Ring.lean ====
section
/-!
DEFINITION. Rings: RINIT, RACQ, RCOMMIT, RPEEK, RREL (R274 to R276).
-/

namespace Sys2Proof.Machine

/-- The fields of a ring control block (R274). -/
structure Ring where
  base  : W64
  size  : Nat
  count : Nat
  head  : W64
  tail  : W64
  deriving DecidableEq, Repr

/-- The block at a location. -/
def ringAt (s : State) (loc : Nat) : Ring :=
  let n := loadAt s loc 32
  { base := BitVec.ofNat 64 n, size := nbits n 64 32, count := nbits n 96 32, head := BitVec.ofNat 64 (nbits n 128 64)
    tail := BitVec.ofNat 64 (nbits n 192 64) }

/-- A malformed block or geometry (R274). -/
def Ring.bad (r : Ring) : Bool :=
  r.count == 0 || decide (2 ^ 31 < r.count) || decide (r.size < 16) || decide (2 ^ 20 < r.size) || r.size % 16 != 0
    || r.base.toNat % 16 != 0

/-- The address of slot n. -/
def Ring.slot (r : Ring) (n : W64) : W64 := r.base + BitVec.ofNat 64 (n.toNat % r.count * r.size)

/-- The 32 bytes of a block. -/
def Ring.word (r : Ring) : Nat :=
  r.base.toNat + r.size * 2 ^ 64 + r.count * 2 ^ 96 + r.head.toNat * 2 ^ 128 + r.tail.toNat * 2 ^ 192

/-- The place of a block, checked (R276); a peer device carries no step of a block (R378) (log 37, DEDUCED). -/
def withBlock (s : State) (rt : Rights) (order : Order) (a : W64) (k : State → Nat → Out) : Out :=
  match placeOne s .feEmpty order rt 32 a with
  | (.trap c, s) => trapC s c a
  | (.wait _, s) => wait s .pageMove a
  | (.unbacked, _) => .fault .unbackedWalk
  | (.reaches (.peer _ _) _, s) => trapC s cLINKATOMIC a
  | (.reaches (.here l) _, s) =>
    let s := forceOverlap s (myCore s) (mySlot s) .store 32 [⟨0, .here l, 0⟩]
    if overlapWaits s (myCore s) (mySlot s) .store 32 [⟨0, .here l, 0⟩] then waitOverlap s .store 32 [⟨0, .here l, 0⟩]
    else if placeBlocked s rt.w (.here l) 32 then wait (reachPlace s (.here l)) .access
    else k (drainOverlap s (myCore s) (.here l) 32) l

/-- A well-formed block. -/
def withRing (s : State) (rt : Rights) (order : Order) (a : W64) (k : State → Nat → Ring → Out) : Out :=
  withBlock s rt order a (fun s l => if (ringAt s l).bad then trapC s cPROTECTION a else k s l (ringAt s l))

/-- A write of the block by a thread of a core, with its stamp and identity; a core-scope release records its core with each
word (R162, R171). -/
def blockWrite (s : State) (c t : Nat) (order : Order) (loc n v : Nat) : State :=
  let (m, s) := stampCore s c
  let s := storeAt (some c) (receiveAt s (locClk loc) m) loc n v (isRelCore order)
  holdIdentity s s.number c t m 0 (dieOfLoc loc)

/-- The owner of a block answers a step: its stamp reaches the core (R29, R276). -/
def blockAnswers (s : State) (c loc : Nat) : State := carry s (locClk loc) (.core c)

/-- The words of slots, by their lanes, become empty (R165). -/
def emptyLanes (s : State) (c : Nat) (ls : List Lane) : State :=
  ls.foldl (fun s l => match l.place with
    | .here p =>
      let s := drainOverlap s c l.place 8
      let s := carry s (.core c) (locClk p)
      if isEmpty s (wordNo p) then s else emptyWord s c (wordNo p)
    | .peer _ _ => s) s

/-- RINIT: the block is written as a release, which waits for the thread's earlier loose reads and for the drain, then every slot is emptied,
while the thread waits (R228, R276). -/
def execRinit (rd ra rb : Reg) (sc : Scope) (s : State) : Out :=
  let a := readX s ra
  let g := readX s rd
  let r : Ring := { base := readX s rb, size := bits g 32 32, count := bits g 0 32, head := 0, tail := 0 }
  once s none a 32 (orderNo (.rel sc)) r.word (fun s =>
    if plainBusy (me s) then wait s .access
    else if a.toNat % 32 ≠ 0 then trapC s cMISALIGNED a
    else if r.bad then trapC s cPROTECTION a
    else withBlock s { w := true } (.rel sc) a (fun s l =>
      withAccess s .feEmpty .plain { w := true } 8 ((List.range r.count).map (fun n => (0, r.slot (BitVec.ofNat 64 n), 0)))
        (fun s _ ls _ =>
          if ls.any (fun l => placeBlocked s true l.place 8) then wait s .access
          else
            let s := if (me s).reply.isSome then s else releaseSide s (.rel sc)
            if (me s).reply.isNone && releaseWaits s sc then hold s .access
            else
              let s := if (me s).reply.isSome then s else blockWrite s (myCore s) (mySlot s) (.rel sc) l 32 r.word
              unitAnswers s (fun s => .next (emptyLanes s (myCore s) ls)))))

/-- The step of RACQ at the block: the slot acquired, none when the ring is full (R276). -/
def racqTry (s : State) (c t : Nat) (order : Order) (loc : Nat) (r : Ring) : Option (W64 × State) :=
  if (r.head - r.tail).toNat < r.count then
    some (r.slot r.head, blockAnswers (blockWrite s c t order (loc + 16) 8 (r.head + 1).toNat) c loc)
  else none

/-- RACQ: a slot at HEAD; refused, the thread parks PORT and the step is sent again (R276). -/
def execRacq (rd ra : Reg) (sc : Scope) (s : State) : Out :=
  let a := readX s ra
  once s (some rd) a 32 (orderNo (.acq sc)) 0 (fun s =>
    match (me s).reply with
    | some v => .next (takeReply s (some rd) v)
    | none =>
      if plainBusy (me s) then wait s .access
      else withRing s { r := true, w := true } (.acq sc) a (fun s l r =>
        match racqTry s (myCore s) (mySlot s) (.acq sc) l r with
        | some (v, s) => .next (writeX s rd v)
        | none => hold s .port a (BitVec.ofNat 64 (16 + (coreAt s (myCore s)).time))))

/-- RCOMMIT: STD.E of the publish word, as a release (R276). -/
def execRcommit (rd ra : Reg) (sc : Scope) (s : State) : Out := feStoreE s 8 rd ra (.rel sc) none

/-- The steps of RPEEK for the thread that performs them: TAIL, then the request for its slot's publish word. -/
def rpeek (s : State) (rd ra : Reg) (sc : Scope) : Out :=
  let a := readX s ra
  match (me s).reply with
  | some v => .next (takeReply s (some rd) v)
  | none =>
    if (me s).accs.any (fun a => isFeRequest a && a.order != .loose) then feHold s
    else if plainBusy (me s) then wait s .access
    else withRing s { r := true } (.acq sc) a (fun s l r =>
      let v := r.slot r.tail
      withAccess s (.feLoad false) (.acq sc) { r := true } 8 [(0, v, 0)] (fun s id ls ks =>
        let s := forceOverlap (blockAnswers s (myCore s) l) (myCore s) (mySlot s) (.feLoad false) 8 ls
        if overlapWaits s (myCore s) (mySlot s) (.feLoad false) 8 ls then waitOverlap s (.feLoad false) 8 ls
        else
        let q := newAccess s id 0 (.feLoad false) (.acq sc) v 8 (.scalar rd) ls ks
        feHold (modMe s (fun th => { th with accs := th.accs ++ [q] }))))

/-- RPEEK: the slot at TAIL, once it is published (R276); in a twin the leading thread performs it. -/
def execRpeek (rd ra : Reg) (sc : Scope) (s : State) : Out :=
  if isTrail (me s) then
    match (thrAt s (myCore s) (mySlot s - 1)).lvq with
    | (_, some x) :: r =>
      let l := mySlot s - 1
      .next (writeX (wakeTwin (modThr s (myCore s) l (fun th => { th with lvq := r })) (myCore s) l) rd (x.setWidth 64))
    | _ => hold s .twin
  else if isTwin (me s) then
    if 32 ≤ (me s).lvq.length then wait s .twin
    else
      match rpeek s rd ra sc with
      | .next s' => .next (feShare s s')
      | r => r
  else rpeek s rd ra sc

/-- RREL: the slot at TAIL is emptied, then TAIL counts it released (R276). As a release it waits for the thread's earlier loose reads and for
the drain (R228). -/
def execRrel (ra : Reg) (sc : Scope) (s : State) : Out :=
  let a := readX s ra
  once s none a 32 (orderNo (.rel sc)) 0 (fun s =>
    if plainBusy (me s) then wait s .access
    else withRing s { r := true, w := true } (.rel sc) a (fun s l r =>
      let v := r.slot r.tail
      withAccess s .feEmpty (.rel sc) { w := true } 8 [(0, v, 0)] (fun s _ ls _ =>
        let s := releaseSide s (.rel sc)
        if releaseWaits s sc then hold s .access
        else if ls.any (fun l => placeBlocked s true l.place 8) then wait s .access
        else
          let s := emptyLanes s (myCore s) ls
          .next (blockAnswers (blockWrite s (myCore s) (mySlot s) (.rel sc) (l + 24) 8 (r.tail + 1).toNat) (myCore s) l))))

/-- RACQ_RESEND: a refused RACQ is sent again after 64 cycles; a wait longer than $fewait traps FE_TIMEOUT (R276). -/
def execRacqResend (core slot : Nat) (s : State) : Out :=
  let s0 := s
  let th := thrAt s core slot
  let now := (coreAt s core).time
  match th.park with
  | none => .next s
  | some p =>
    if !parkedFor th .port || decide (p.aux.toNat < 16) then .next s
    else if pastFewait s core slot p.since then .next (trapOutside s core slot cFETIMEOUT p.obj)
    else if now + 16 < p.aux.toNat + 64 then .next s
    else match translate s (whoOf s core slot) { r := true, w := true } p.obj 32 with
      | (.reaches (.here l) _, s) =>
        if outOfReach s (.here l) || heldWrite s (.here l) || overlapLeft (drainOverlap s core (.here l) 32) core (.here l) 32 then .next (reachPlace s0 (.here l))
        else
        let s := drainOverlap s core (.here l) 32
        if (ringAt s l).bad then .next (trapOutside s core slot cPROTECTION p.obj)
        else match racqTry s core slot .plain l (ringAt s l) with
          | some (v, s) => .next (answer s core slot v)
          | none => .next (modThr s core slot (fun th => { th with park := some { p with aux := BitVec.ofNat 64 (16 + now) } }))
      | (.reaches (.peer _ _) _, s) => .next (trapOutside s core slot cLINKATOMIC p.obj)
      | (.trap c, s) => .next (trapOutside s core slot c p.obj)
      | (.wait k, _) => .next (startExit s0 k)
      | (.unbacked, _) => .fault .unbackedWalk

end Sys2Proof.Machine
end

