-- ==== Sys2Proof/Machine/Sys.lean ====
section
/-!
DEFINITION. System instructions (R121 to R131): TRAP, RETT, GETS, SETS, TSTAMP, WAITEV, YIELD; the tag instructions CPW (R184).
-/

namespace Sys2Proof.Machine

/-- TRAP: a precise trap with cause SOFTWARE and the code in $eaddr (R122). -/
def execTrap (code : BitVec 15) (s : State) : Out := trapC s cSOFTWARE (code.setWidth 64)

/-- RETT (R123). -/
def execRett (s : State) : Out :=
  if (me s).tl = 0 then trapC s cILLEGAL 0 else .next (modMe s returned)

/-! ## State registers (R130) -/

/-- $lease: zero for a thread that does not hold the lease (log 33, DEDUCED). -/
def leaseWord (s : State) (c t : Nat) : W64 :=
  let a := (cluAt s (clusterOf c)).arr
  if holdsLease s c t then BitVec.ofNat 64 (a.cycles * 2 ^ 16 + a.cmds * 2 ^ 8 + 1) else 0

/-- $ctx. -/
def ctxWord (s : State) (th : Thread) : W64 :=
  BitVec.ofNat 64 ((ctxAt s th.ctx).supcore * 2 ^ 16 + (if (ctxAt s th.ctx).priv then 2 ^ 12 else 0) + th.ctx)

/-- $tid. -/
def tidWord (c t : Nat) : W64 := BitVec.ofNat 64 (c * 16 + t)

/-- The value of a state register (R130). -/
def readSReg (s : State) (r : SReg) : W64 :=
  let th := was s
  let c := myCore s
  let t := mySlot s
  match r with
  | .seat => th.seat
  | .ctx => ctxWord s th
  | .tid => tidWord c t
  | .time => BitVec.ofNat 64 (coreAt s c).time
  | .mode => th.mode.setWidth 64
  | .tags => th.tags
  | .tagerr => th.tagerr
  | .events => th.events.setWidth 64
  | .fewait => th.fewait.setWidth 64
  | .qwatch => (latched s).qwatch.setWidth 64
  | .lease => leaseWord s c t
  | .fflags => th.fflags.setWidth 64
  | .fenab => th.rm.setWidth 64 <<< 8 ||| th.fen.setWidth 64
  | .pdeg => th.pdeg.setWidth 64
  | .tl => BitVec.ofNat 64 th.tl
  | .epc1 => th.l1.epc
  | .epc2 => th.l2.epc
  | .ecause1 => th.l1.ecause
  | .ecause2 => th.l2.ecause
  | .eaddr1 => th.l1.eaddr
  | .eaddr2 => th.l2.eaddr
  | .estat1 => th.l1.estat
  | .estat2 => th.l2.estat
  | .hbase => th.hbase
  | .part => (coreAt s c).part.setWidth 64
  | .cappool => BitVec.ofNat 64 (cappool (coreAt s c))
  | .capslice => BitVec.ofNat 64 (capslice (cluAt s (clusterOf c)))
  | .caphbm => caphbm (dieAt s (seatDie th.seat))

/-- The registers that only the leading thread of a twin reads itself (R129). -/
def twinShared : SReg → Bool
  | .seat | .tid | .time | .tags | .tagerr | .events | .lease | .part | .cappool | .capslice | .caphbm => true
  | _ => false

/-- GETS (R124, R129). -/
def execGets (rd : Reg) (name : SReg) (s : State) : Out :=
  let v := readSReg s name
  if twinShared name then shared s (v.setWidth 256) (fun s x => .next (writeX s rd (x.setWidth 64)))
  else .next (writeX s rd v)

/-- A thread with a state register of its own written under its access rules (R5, R6, R130). -/
def setSReg (th : Thread) (r : SReg) (v : W64) : Thread :=
  match r with
  | .tagerr => { th with tagerr := th.tagerr &&& ~~~v }
  | .events => { th with events := th.events &&& ~~~v.setWidth 4 }
  | .fewait => { th with fewait := v.setWidth 32 }
  | .fflags => { th with fflags := v.setWidth 5 }
  | .fenab => { th with rm := (v >>> 8).setWidth 2, fen := v.setWidth 5 }
  | .pdeg => { th with pdeg := v.setWidth 6 }
  | .epc1 => { th with l1 := { th.l1 with epc := v &&& ~~~7 } }
  | .epc2 => { th with l2 := { th.l2 with epc := v &&& ~~~7 } }
  | .estat1 => { th with l1 := { th.l1 with estat := (th.l1.estat &&& 0xFFFF000000000000) ||| (v &&& 0x0000FFFFFFFFFFFF) } }
  | .estat2 => { th with l2 := { th.l2 with estat := (th.l2.estat &&& 0xFFFF000000000000) ||| (v &&& 0x0000FFFFFFFFFFFF) } }
  | .hbase => { th with hbase := v &&& ~~~0xFFF }
  | _ => th

/-- SETS: $hbase is for privileged threads (R5, R124). -/
def execSets (name : SReg) (rs : Reg) (s : State) : Out :=
  let v := readX s rs
  match name with
  | .hbase => if privileged s (was s) then .next (modMe s (fun th => setSReg th name v)) else trapC s cPRIV 0
  | .qwatch => .next (modCore s (myCore s) (fun k => { k with qwatch := v.setWidth 32 }))
  | _ => .next (modMe s (fun th => setSReg th name v))

/-! ## Stamps, events, YIELD -/

/-- TSTAMP: a local event of the core's clock (R125). -/
def execTstamp (rd : Reg) (s : State) : Out :=
  if isTrail (me s) then shared s 0 (fun s x => .next (writeX s rd (x.setWidth 64)))
  else
    let (m, s) := stampCore s (myCore s)
    shared s (m.setWidth 256) (fun s x => .next (writeX s rd (x.setWidth 64)))

/-- WAITEV: the thread waits for an event it names, or its timeout (R126). -/
def execWaitev (rd ra : Reg) (s : State) : Out :=
  let e : BitVec 4 := (readX s ra).setWidth 4
  let give := fun (v : W64) => shared s (v.setWidth 256) (fun s x => .next (writeX s rd (x.setWidth 64)))
  if isTrail (me s) then give 0
  else match (me s).reply with
    | some v => give v
    | none =>
      let l := (me s).events &&& e
      if l ≠ 0 then give (l.setWidth 64) else hold s .event (e.setWidth 64)

/-- EVENT_TIMEOUT: a WAITEV has lasted $fewait cycles and gives 0 (R126). -/
def execEventTimeout (core slot : Nat) (s : State) : Out :=
  let th := thrAt s core slot
  match th.park with
  | some p =>
    if parkedFor th .event && th.fewait != 0 && decide (p.since + th.fewait.toNat ≤ (coreAt s core).time) then
      .next (answer s core slot 0)
    else .next s
  | none => .next s

/-- YIELD: 16 cycles in which the thread lends its slots (R127). -/
def execYield (s : State) : Out := .next (busy s 16 1)

/-! ## Tags (R184) -/

/-- The tags of the thread that a mask names. -/
def myTags (s : State) (m : W64) : W64 := (me s).tags &&& m

/-- CPWAITANY (R184). -/
def execCpwaitany (rd ra : Reg) (s : State) : Out :=
  let m := readX s ra
  let v := myTags s m
  if !isTrail (me s) && m != 0 && v == 0 then hold s .engine m 1
  else shared s (v.setWidth 256) (fun s x => .next (writeX s rd (x.setWidth 64)))

/-- CPWAITALL (R184). -/
def execCpwaitall (ra : Reg) (s : State) : Out :=
  let m := readX s ra
  if !isTrail (me s) && myTags s m != m then hold s .engine m 2
  else shared s 0 (fun s _ => .next s)

/-- CPFIRST: the lowest tag set, or 64 (R184). -/
def execCpfirst (rd ra : Reg) (s : State) : Out :=
  let v := myTags s (readX s ra)
  let i := (firstBelow 64 (fun i => v.getLsbD i)).getD 64
  shared s (BitVec.ofNat 256 i) (fun s x => .next (writeX s rd (x.setWidth 64)))

/-- CPCLR (R184). -/
def execCpclr (ra : Reg) (s : State) : Out :=
  let m := readX s ra
  .next (modMe s (fun th => { th with tags := th.tags &&& ~~~m, tagerr := th.tagerr &&& ~~~m }))

/-- CPW_TIMEOUT: a wait for tags longer than $fewait traps FE_TIMEOUT with the mask (R184). -/
def execCpwTimeout (core slot : Nat) (s : State) : Out :=
  let th := thrAt s core slot
  match th.park with
  | some p =>
    if parkedFor th .engine && (p.aux == 1 || p.aux == 2) && pastFewait s core slot p.since then
      .next (trapOutside s core slot cFETIMEOUT p.obj)
    else .next s
  | none => .next s

end Sys2Proof.Machine
end

