-- ==== Sys2Proof/Machine/Vector.lean ====
section
/-!
DEFINITION. The vector and mask instructions (R137 to R150).
-/

namespace Sys2Proof.Machine

/-- An elementwise operation of two vectors. -/
def vec2 (s : State) (vd va vb : Reg) (m : MaskNo) (fmt : Fmt) (f : Nat → Nat → Nat) : Out :=
  let a := readV s va
  let b := readV s vb
  mapLanes s vd m fmt.width (fun i => f (lane a fmt.width i) (lane b fmt.width i))

/-- An elementwise operation of one vector. -/
def vec1 (s : State) (vd va : Reg) (m : MaskNo) (fmt : Fmt) (f : Nat → Nat) : Out :=
  let a := readV s va
  mapLanes s vd m fmt.width (fun i => f (lane a fmt.width i))

/-- A lane of a format as an integer (R44). -/
def laneInt (fmt : Fmt) (c : Nat) : Int := intOf fmt.isSInt fmt.width c

/-- The limits of an integer format. -/
def fmtMin (fmt : Fmt) : Int := intMin fmt.isSInt fmt.width
def fmtMax (fmt : Fmt) : Int := intMax fmt.isSInt fmt.width

/-- An integer clamped to a format's range. -/
def clamp (fmt : Fmt) (i : Int) : Int := if i < fmtMin fmt then fmtMin fmt else if fmtMax fmt < i then fmtMax fmt else i

/-! ## VINT (R137) -/

/-- VADD (R137). -/
def execVadd (vd va vb : Reg) (m : MaskNo) (fmt : Fmt) (s : State) : Out :=
  vec2 s vd va vb m fmt (fun a b => wrapTo fmt.width ((a + b : Nat) : Int))

/-- VSUB (R137). -/
def execVsub (vd va vb : Reg) (m : MaskNo) (fmt : Fmt) (s : State) : Out :=
  vec2 s vd va vb m fmt (fun a b => wrapTo fmt.width ((a : Int) - b))

/-- VMUL (R137). -/
def execVmul (vd va vb : Reg) (m : MaskNo) (fmt : Fmt) (s : State) : Out :=
  vec2 s vd va vb m fmt (fun a b => wrapTo fmt.width ((a * b : Nat) : Int))

/-- VMULH (R137). -/
def execVmulh (vd va vb : Reg) (m : MaskNo) (fmt : Fmt) (s : State) : Out :=
  vec2 s vd va vb m fmt (fun a b => wrapTo fmt.width (laneInt fmt a * laneInt fmt b / 2 ^ fmt.width))

/-- VMIN (R137). -/
def execVmin (vd va vb : Reg) (m : MaskNo) (fmt : Fmt) (s : State) : Out :=
  vec2 s vd va vb m fmt (fun a b => if laneInt fmt a < laneInt fmt b then a else b)

/-- VMAX (R137). -/
def execVmax (vd va vb : Reg) (m : MaskNo) (fmt : Fmt) (s : State) : Out :=
  vec2 s vd va vb m fmt (fun a b => if laneInt fmt a < laneInt fmt b then b else a)

/-- VSADD (R137). -/
def execVsadd (vd va vb : Reg) (m : MaskNo) (fmt : Fmt) (s : State) : Out :=
  vec2 s vd va vb m fmt (fun a b => wrapTo fmt.width (clamp fmt (laneInt fmt a + laneInt fmt b)))

/-- VABS: the most negative value gives itself (R137). -/
def execVabs (vd va : Reg) (m : MaskNo) (fmt : Fmt) (s : State) : Out :=
  vec1 s vd va m fmt (fun a => wrapTo fmt.width ((laneInt fmt a).natAbs : Int))

/-! ## VLOG (R138) -/

/-- The count of a lane shift: the low log2 w bits of its lane of vb (R138). -/
def laneShift (fmt : Fmt) (b : Nat) : Nat := b % fmt.width

/-- VAND (R138). -/
def execVand (vd va vb : Reg) (m : MaskNo) (fmt : Fmt) (s : State) : Out :=
  vec2 s vd va vb m fmt (fun a b => Nat.land a b)

/-- VOR (R138). -/
def execVor (vd va vb : Reg) (m : MaskNo) (fmt : Fmt) (s : State) : Out :=
  vec2 s vd va vb m fmt (fun a b => Nat.lor a b)

/-- VXOR (R138). -/
def execVxor (vd va vb : Reg) (m : MaskNo) (fmt : Fmt) (s : State) : Out :=
  vec2 s vd va vb m fmt (fun a b => Nat.xor a b)

/-- VANDN (R138). -/
def execVandn (vd va vb : Reg) (m : MaskNo) (fmt : Fmt) (s : State) : Out :=
  vec2 s vd va vb m fmt (fun a b => Nat.land a (2 ^ fmt.width - 1 - b))

/-- VSHL (R138). -/
def execVshl (vd va vb : Reg) (m : MaskNo) (fmt : Fmt) (s : State) : Out :=
  vec2 s vd va vb m fmt (fun a b => wrapTo fmt.width ((a * 2 ^ laneShift fmt b : Nat) : Int))

/-- VSHR (R138). -/
def execVshr (vd va vb : Reg) (m : MaskNo) (fmt : Fmt) (s : State) : Out :=
  vec2 s vd va vb m fmt (fun a b => a / 2 ^ laneShift fmt b)

/-- VSAR (R138). -/
def execVsar (vd va vb : Reg) (m : MaskNo) (fmt : Fmt) (s : State) : Out :=
  vec2 s vd va vb m fmt (fun a b => wrapTo fmt.width (intOf true fmt.width a / 2 ^ laneShift fmt b))

/-- VNOT (R138). -/
def execVnot (vd va : Reg) (m : MaskNo) (fmt : Fmt) (s : State) : Out :=
  vec1 s vd va m fmt (fun a => 2 ^ fmt.width - 1 - a)

/-! ## VFP (R139) -/

/-- An elementwise floating operation of two vectors. -/
def vecF (s : State) (vd va vb : Reg) (m : MaskNo) (fmt : Fmt) (f : Nat → Nat → Nat × Flags) : Out :=
  let a := readV s va
  let b := readV s vb
  mapLanesF s vd m fmt.width (fun i => f (lane a fmt.width i) (lane b fmt.width i))

/-- VFADD (R139). -/
def execVfadd (vd va vb : Reg) (m : MaskNo) (fmt : Fmt) (s : State) : Out := vecF s vd va vb m fmt (fadd (fmtIeee fmt) (myMode s))

/-- VFSUB (R139). -/
def execVfsub (vd va vb : Reg) (m : MaskNo) (fmt : Fmt) (s : State) : Out := vecF s vd va vb m fmt (fsub (fmtIeee fmt) (myMode s))

/-- VFMUL (R139). -/
def execVfmul (vd va vb : Reg) (m : MaskNo) (fmt : Fmt) (s : State) : Out := vecF s vd va vb m fmt (fmul (fmtIeee fmt) (myMode s))

/-- VFMIN (R139). -/
def execVfmin (vd va vb : Reg) (m : MaskNo) (fmt : Fmt) (s : State) : Out := vecF s vd va vb m fmt (minMax (fmtIeee fmt) false)

/-- VFMAX (R139). -/
def execVfmax (vd va vb : Reg) (m : MaskNo) (fmt : Fmt) (s : State) : Out := vecF s vd va vb m fmt (minMax (fmtIeee fmt) true)

/-- VFMA reads the old lane of vd as its third operand (R139). -/
def execVfma (vd va vb : Reg) (m : MaskNo) (fmt : Fmt) (s : State) : Out :=
  let a := readV s va
  let b := readV s vb
  let d := readV s vd
  mapLanesF s vd m fmt.width (fun i =>
    ffma (fmtIeee fmt) (myMode s) (lane a fmt.width i) (lane b fmt.width i) (lane d fmt.width i))

/-- VFABS is FSGN.X a, a (R139). -/
def execVfabs (vd va : Reg) (m : MaskNo) (fmt : Fmt) (s : State) : Out :=
  vecF s vd va va m fmt (fun a _ => fsgn (fmtIeee fmt) 2 a a)

/-- VFNEG is FSGN.N a, a (R139). -/
def execVfneg (vd va : Reg) (m : MaskNo) (fmt : Fmt) (s : State) : Out :=
  vecF s vd va va m fmt (fun a _ => fsgn (fmtIeee fmt) 1 a a)

/-! ## VCMP (R140) -/

/-- A comparison of two vectors into a mask. -/
def vcmp (s : State) (md : MaskNo) (va vb : Reg) (m : MaskNo) (fmt : Fmt) (f : Nat → Nat → Bool × Flags) : Out :=
  let a := readV s va
  let b := readV s vb
  cmpLanes s md m fmt.width (fun i => f (lane a fmt.width i) (lane b fmt.width i))

/-- VCMP.EQ (R140). -/
def execVcmpEq (md : MaskNo) (va vb : Reg) (m : MaskNo) (fmt : Fmt) (s : State) : Out :=
  vcmp s md va vb m fmt (fun a b => if fmt.isFloat then fcmpEq (fmtIeee fmt) a b else (a == b, 0))

/-- VCMP.NE (R140). -/
def execVcmpNe (md : MaskNo) (va vb : Reg) (m : MaskNo) (fmt : Fmt) (s : State) : Out :=
  vcmp s md va vb m fmt (fun a b => if fmt.isFloat then (!(fcmpEq (fmtIeee fmt) a b).1, (fcmpEq (fmtIeee fmt) a b).2) else (a != b, 0))

/-- VCMP.LT (R140). -/
def execVcmpLt (md : MaskNo) (va vb : Reg) (m : MaskNo) (fmt : Fmt) (s : State) : Out :=
  vcmp s md va vb m fmt (fun a b => (decide (intOf true fmt.width a < intOf true fmt.width b), 0))

/-- VCMP.LE (R140). -/
def execVcmpLe (md : MaskNo) (va vb : Reg) (m : MaskNo) (fmt : Fmt) (s : State) : Out :=
  vcmp s md va vb m fmt (fun a b => (decide (intOf true fmt.width a ≤ intOf true fmt.width b), 0))

/-- VCMP.LTU (R140). -/
def execVcmpLtu (md : MaskNo) (va vb : Reg) (m : MaskNo) (fmt : Fmt) (s : State) : Out :=
  vcmp s md va vb m fmt (fun a b => (decide (a < b), 0))

/-- VCMP.LEU (R140). -/
def execVcmpLeu (md : MaskNo) (va vb : Reg) (m : MaskNo) (fmt : Fmt) (s : State) : Out :=
  vcmp s md va vb m fmt (fun a b => (decide (a ≤ b), 0))

/-- VCMP.FLT (R140). -/
def execVcmpFlt (md : MaskNo) (va vb : Reg) (m : MaskNo) (fmt : Fmt) (s : State) : Out :=
  vcmp s md va vb m fmt (fun a b => fcmpLess (fmtIeee fmt) false a b)

/-- VCMP.FLE (R140). -/
def execVcmpFle (md : MaskNo) (va vb : Reg) (m : MaskNo) (fmt : Fmt) (s : State) : Out :=
  vcmp s md va vb m fmt (fun a b => fcmpLess (fmtIeee fmt) true a b)

/-! ## VPERM (R141) -/

/-- A vector of n lanes. -/
def fromLanes (w n : Nat) (f : Nat → Nat) : W256 := BitVec.ofNat 256 (packLanes w ((List.range n).map f))

/-- VSEL (R141). -/
def execVsel (vd va vb : Reg) (m : MaskNo) (fmt : Fmt) (s : State) : Out :=
  let w := fmt.width
  .next (writeV s vd (fromLanes w (laneCount s w) (fun i => if on (readM s m) i then lane (readV s va) w i else lane (readV s vb) w i)))

/-- VSPLAT (R141). -/
def execVsplat (vd xa : Reg) (m : MaskNo) (fmt : Fmt) (s : State) : Out :=
  let x := (readX s xa).toNat
  mapLanes s vd m fmt.width (fun _ => x)

/-- VPERM (R141). -/
def execVperm (vd va vb : Reg) (m : MaskNo) (fmt : Fmt) (s : State) : Out :=
  let w := fmt.width
  let n := laneCount s w
  let a := readV s va
  let b := readV s vb
  mapLanes s vd m w (fun i => if n ≤ lane b w i then 0 else lane a w (lane b w i))

/-- The lanes that a mask selects, ascending. -/
def selected (n : Nat) (m : BitVec 32) : List Nat := (List.range n).filter (on m)

/-- VCOMP (R141). -/
def execVcomp (vd va : Reg) (m : MaskNo) (fmt : Fmt) (s : State) : Out :=
  let w := fmt.width
  let n := laneCount s w
  let l := selected n (readM s m)
  .next (writeV s vd (fromLanes w n (fun j => match l[j]? with
    | some i => lane (readV s va) w i
    | none => 0)))

/-- VEXPD (R141). -/
def execVexpd (vd va : Reg) (m : MaskNo) (fmt : Fmt) (s : State) : Out :=
  let w := fmt.width
  let n := laneCount s w
  let k := readM s m
  .next (writeV s vd (fromLanes w n (fun i => if on k i then lane (readV s va) w (selected i k).length else 0)))

/-- VSHUF (R141). -/
def execVshuf (vd va vb : Reg) (m : MaskNo) (fmt : Fmt) (s : State) : Out :=
  let w := fmt.width
  mapLanes s vd m w (fun i => if i % 2 = 0 then lane (readV s va) w (i / 2) else lane (readV s vb) w (i / 2))

/-- VROT (R141). -/
def execVrot (vd va xb : Reg) (m : MaskNo) (fmt : Fmt) (s : State) : Out :=
  let w := fmt.width
  let n := laneCount s w
  let x := (readX s xb).toNat % n
  mapLanes s vd m w (fun i => lane (readV s va) w ((i + n - x) % n))

/-- VREV (R141). -/
def execVrev (vd va : Reg) (m : MaskNo) (fmt : Fmt) (s : State) : Out :=
  let w := fmt.width
  mapLanes s vd m w (fun i => lane (readV s va) w (laneCount s w - 1 - i))

/-! ## VRED (R142, R143) -/

/-- One node of the tree: both children combined, or the one that is present. -/
def redNode (f : Nat → Nat → Nat × Flags) (a b : Option Nat × Flags) : Option Nat × Flags :=
  match a.1, b.1 with
  | some x, some y => (some (f x y).1, a.2 ||| b.2 ||| (f x y).2)
  | some x, none => (some x, a.2 ||| b.2)
  | none, y => (y, a.2 ||| b.2)

/-- One level of the tree over neighbouring pairs. -/
def redLevel (f : Nat → Nat → Nat × Flags) : List (Option Nat × Flags) → List (Option Nat × Flags)
  | a :: b :: r => redNode f a b :: redLevel f r
  | l => l

/-- The fixed tree of R143, as many levels as the fuel. -/
def redTree (f : Nat → Nat → Nat × Flags) : Nat → List (Option Nat × Flags) → Option Nat × Flags
  | 0, l => l.headD (none, 0)
  | k + 1, l => redTree f k (redLevel f l)

/-- A reduction: lane 0 takes the result, every other lane zero (R142). -/
def reduce (s : State) (vd va : Reg) (m : MaskNo) (fmt : Fmt) (none_ : Nat) (f : Nat → Nat → Nat × Flags) : Out :=
  let w := fmt.width
  let n := laneCount s w
  let k := readM s m
  let t := redTree f 5 ((List.range n).map (fun i => if on k i then (some (lane (readV s va) w i), 0) else (none, 0)))
  .next (addFlags (writeV s vd (BitVec.ofNat 256 (t.1.getD none_))) t.2)

/-- VREDADD (R142). -/
def execVredadd (vd va : Reg) (m : MaskNo) (fmt : Fmt) (s : State) : Out :=
  reduce s vd va m fmt 0 (fun a b =>
    if fmt.isFloat then fadd (fmtIeee fmt) (myMode s) a b else (wrapTo fmt.width ((a + b : Nat) : Int), 0))

/-- VREDMAX (R142). -/
def execVredmax (vd va : Reg) (m : MaskNo) (fmt : Fmt) (s : State) : Out :=
  reduce s vd va m fmt (if fmt.isFloat then (fmtIeee fmt).inf true else wrapTo fmt.width (fmtMin fmt)) (fun a b =>
    if fmt.isFloat then minMax (fmtIeee fmt) true a b else (if laneInt fmt a < laneInt fmt b then b else a, 0))

/-- VREDMIN (R142). -/
def execVredmin (vd va : Reg) (m : MaskNo) (fmt : Fmt) (s : State) : Out :=
  reduce s vd va m fmt (if fmt.isFloat then (fmtIeee fmt).inf false else wrapTo fmt.width (fmtMax fmt)) (fun a b =>
    if fmt.isFloat then minMax (fmtIeee fmt) false a b else (if laneInt fmt a < laneInt fmt b then a else b, 0))

/-- VREDAND (R142). -/
def execVredand (vd va : Reg) (m : MaskNo) (fmt : Fmt) (s : State) : Out :=
  reduce s vd va m fmt (2 ^ fmt.width - 1) (fun a b => (Nat.land a b, 0))

/-- VREDOR (R142). -/
def execVredor (vd va : Reg) (m : MaskNo) (fmt : Fmt) (s : State) : Out :=
  reduce s vd va m fmt 0 (fun a b => (Nat.lor a b, 0))

/-! ## VCVT (R144 to R146) -/

/-- One lane of VCVT: integers convert to integers exactly, then wrap or clamp, with no flag (R146). -/
def vcvtLane (mode : Mode) (sat : Bool) (dst src : Fmt) (c : Nat) : Nat × Flags :=
  if dst.isInt && src.isInt then
    let i := laneInt src c
    (wrapTo dst.width (if sat then clamp dst i else i), 0)
  else convert mode sat dst src c

/-- VCVT (R145): narrowing leaves the destination lanes outside its part unwritten. -/
def execVcvt (vd va : Reg) (sat : Bool) (partner : Fmt) (m : MaskNo) (fmt : Fmt) (srcIsFmt : Bool) (q : BitVec 2) (s : State) : Out :=
  let src := if srcIsFmt then fmt else partner
  let dst := if srcIsFmt then partner else fmt
  let sw := src.width
  let dw := dst.width
  let a := readV s va
  let k := readM s m
  let n := laneCount s dw
  let cv := fun j => vcvtLane (myMode s) sat dst src (lane a sw j)
  let first := if sw ≤ dw then 0 else q.toNat * laneCount s sw
  let count := if sw ≤ dw then n else laneCount s sw
  let from_ := fun i => if sw ≤ dw then q.toNat * n + i else i - first
  let act : BitVec 32 := BitVec.ofNat 32 ((List.range n).foldl (fun x i => if on k i && decide (first ≤ i) && decide (i < first + count) then x + 2 ^ i else x) 0)
  .next (addFlags (writeV s vd (mergeLanes (oldV s vd) dw n act (fun i => (cv (from_ i)).1)) (laneBytes dw act)) (orFlags n act (fun i => (cv (from_ i)).2)))

/-! ## VDOT (R147) -/

/-- The dot product of lanes l of two vectors added to d: 32 bits, exact for integers, one rounding for binary8. -/
def dot (s : State) (fmt : Fmt) (a b : W256) (d : Nat) (l : List Nat) : Nat × Flags :=
  if fmt.isInt then
    (wrapTo 32 (l.foldl (fun x k => x + laneInt fmt (lane a 8 k) * laneInt fmt (lane b 8 k)) (d : Int)), 0)
  else dotVal (myMode s) (fp32.decode d) (l.map (fun k => (fmtValue fmt (lane a 8 k), fmtValue fmt (lane b 8 k))))

/-- VDOT4 (R147). -/
def execVdot4 (vd va vb : Reg) (m : MaskNo) (fmt : Fmt) (s : State) : Out :=
  let d := readV s vd
  mapLanesF s vd m 32 (fun i => dot s fmt (readV s va) (readV s vb) (lane d 32 i) ((List.range 4).map (fun k => 4 * i + k)))

/-- VDOTA: the other lanes are unchanged, zero in a port (R135, R147). -/
def execVdota (vd va vb : Reg) (m : MaskNo) (fmt : Fmt) (s : State) : Out :=
  let d := readV s vd
  let r := dot s fmt (readV s va) (readV s vb) (lane d 32 0) (selected (laneCount s 8) (readM s m))
  .next (addFlags (writeV s vd (setLane (oldV s vd) 32 0 r.1) 0xF) r.2)

/-! ## VLANE (R148) -/

/-- VGETL (R148). -/
def execVgetl (xd va : Reg) (k : BitVec 5) (fmt : Fmt) (s : State) : Out :=
  let c := lane (readV s va) fmt.width k.toNat
  .next (writeX s xd (if fmt.isSInt then sext c fmt.width else BitVec.ofNat 64 c))

/-- VSETL: the other lanes are unchanged, zero in a port (R135, R148). -/
def execVsetl (vd xa : Reg) (k : BitVec 5) (fmt : Fmt) (s : State) : Out :=
  .next (writeV s vd (setLane (oldV s vd) fmt.width k.toNat (readX s xa).toNat) (laneBytes fmt.width (1 <<< k.toNat)))

/-! ## MASK (R149, R150) -/

/-- MAND (R149). -/
def execMand (md ma mb : MaskNo) (s : State) : Out := .next (writeM s md (readM s ma &&& readM s mb))

/-- MOR (R149). -/
def execMor (md ma mb : MaskNo) (s : State) : Out := .next (writeM s md (readM s ma ||| readM s mb))

/-- MNOT (R149). -/
def execMnot (md ma : MaskNo) (s : State) : Out := .next (writeM s md (~~~readM s ma))

/-- The lanes that W names: 16, 8, 4 or 2, twice as many in a gang (R149, R150). -/
def maskLanes (s : State) (w : BitVec 2) : Nat := (if ganged s then 2 else 1) * (16 / 2 ^ w.toNat)

/-- MPOPC (R149). -/
def execMpopc (xd : Reg) (ma : MaskNo) (w : BitVec 2) (s : State) : Out :=
  .next (writeX s xd (BitVec.ofNat 64 (selected (maskLanes s w) (readM s ma)).length))

/-- MFIRST (R149). -/
def execMfirst (xd : Reg) (ma : MaskNo) (w : BitVec 2) (s : State) : Out :=
  .next (writeX s xd (BitVec.ofNat 64 ((selected (maskLanes s w) (readM s ma)).headD (maskLanes s w))))

/-- MSET (R149). -/
def execMset (md : MaskNo) (xa : Reg) (s : State) : Out := .next (writeM s md ((readX s xa).setWidth 32))

/-- MGET (R149). -/
def execMget (xd : Reg) (ma : MaskNo) (s : State) : Out := .next (writeX s xd ((readM s ma).setWidth 64))

end Sys2Proof.Machine
end

