-- ==== Sys2Proof/Machine/Dispatch.lean ====
section
/-!
DEFINITION. One arm for each constructor of Instr: the call of its meaning.
-/

namespace Sys2Proof.Machine

/-- The meaning of one transition: an instruction of the bundle under way, or an event of the device. -/
def exec (i : Instr) (s : State) : Host.Outcome State Fault Refusal :=
  match i with
  | .nop => Sys2Proof.Machine.execNop s
  | .trap code => Sys2Proof.Machine.execTrap code s
  | .rett => Sys2Proof.Machine.execRett s
  | .gets rd name => Sys2Proof.Machine.execGets rd name s
  | .sets name rs => Sys2Proof.Machine.execSets name rs s
  | .tstamp rd => Sys2Proof.Machine.execTstamp rd s
  | .waitev rd ra => Sys2Proof.Machine.execWaitev rd ra s
  | .yield => Sys2Proof.Machine.execYield s
  | .beq ra rb off => Sys2Proof.Machine.execBeq ra rb off s
  | .bne ra rb off => Sys2Proof.Machine.execBne ra rb off s
  | .blt ra rb off => Sys2Proof.Machine.execBlt ra rb off s
  | .bge ra rb off => Sys2Proof.Machine.execBge ra rb off s
  | .bltu ra rb off => Sys2Proof.Machine.execBltu ra rb off s
  | .bgeu ra rb off => Sys2Proof.Machine.execBgeu ra rb off s
  | .br off ext => Sys2Proof.Machine.execBr off ext s
  | .call off ext => Sys2Proof.Machine.execCall off ext s
  | .jr ra => Sys2Proof.Machine.execJr ra s
  | .callr ra => Sys2Proof.Machine.execCallr ra s
  | .ldb rd base off ord => Sys2Proof.Machine.execLdb rd base off ord s
  | .ldbu rd base off ord => Sys2Proof.Machine.execLdbu rd base off ord s
  | .ldh rd base off ord => Sys2Proof.Machine.execLdh rd base off ord s
  | .ldhu rd base off ord => Sys2Proof.Machine.execLdhu rd base off ord s
  | .ldw rd base off ord => Sys2Proof.Machine.execLdw rd base off ord s
  | .ldwu rd base off ord => Sys2Proof.Machine.execLdwu rd base off ord s
  | .ldd rd base off ord => Sys2Proof.Machine.execLdd rd base off ord s
  | .ldv rd base off ord => Sys2Proof.Machine.execLdv rd base off ord s
  | .stb rd base off ord => Sys2Proof.Machine.execStb rd base off ord s
  | .sth rd base off ord => Sys2Proof.Machine.execSth rd base off ord s
  | .stw rd base off ord => Sys2Proof.Machine.execStw rd base off ord s
  | .std rd base off ord => Sys2Proof.Machine.execStd rd base off ord s
  | .stv rd base off ord => Sys2Proof.Machine.execStv rd base off ord s
  | .ldwF rd ra ord ext => Sys2Proof.Machine.execLdwF rd ra ord ext s
  | .lddF rd ra ord ext => Sys2Proof.Machine.execLddF rd ra ord ext s
  | .ldwT rd ra ord ext => Sys2Proof.Machine.execLdwT rd ra ord ext s
  | .lddT rd ra ord ext => Sys2Proof.Machine.execLddT rd ra ord ext s
  | .stwE rd ra ord ext => Sys2Proof.Machine.execStwE rd ra ord ext s
  | .stdE rd ra ord ext => Sys2Proof.Machine.execStdE rd ra ord ext s
  | .stwX rd ra ord ext => Sys2Proof.Machine.execStwX rd ra ord ext s
  | .stdX rd ra ord ext => Sys2Proof.Machine.execStdX rd ra ord ext s
  | .fempty ra ord ext => Sys2Proof.Machine.execFempty ra ord ext s
  | .fstat rd ra ord ext => Sys2Proof.Machine.execFstat rd ra ord ext s
  | .amoadd rd ra rb ord w4 ext => Sys2Proof.Machine.execAmoadd rd ra rb ord w4 ext s
  | .amoand rd ra rb ord w4 ext => Sys2Proof.Machine.execAmoand rd ra rb ord w4 ext s
  | .amoor rd ra rb ord w4 ext => Sys2Proof.Machine.execAmoor rd ra rb ord w4 ext s
  | .amoxor rd ra rb ord w4 ext => Sys2Proof.Machine.execAmoxor rd ra rb ord w4 ext s
  | .amomin rd ra rb ord w4 ext => Sys2Proof.Machine.execAmomin rd ra rb ord w4 ext s
  | .amomax rd ra rb ord w4 ext => Sys2Proof.Machine.execAmomax rd ra rb ord w4 ext s
  | .amominu rd ra rb ord w4 ext => Sys2Proof.Machine.execAmominu rd ra rb ord w4 ext s
  | .amomaxu rd ra rb ord w4 ext => Sys2Proof.Machine.execAmomaxu rd ra rb ord w4 ext s
  | .amoswap rd ra rb ord w4 ext => Sys2Proof.Machine.execAmoswap rd ra rb ord w4 ext s
  | .amocas rd ra rb ord w4 ext => Sys2Proof.Machine.execAmocas rd ra rb ord w4 ext s
  | .amoCombine core slot core2 slot2 => Sys2Proof.Machine.execAmoCombine core slot core2 slot2 s
  | .fence sc => Sys2Proof.Machine.execFence sc s
  | .xfence frm tgt sc => Sys2Proof.Machine.execXfence frm tgt sc s
  | .vgath vd ra vb ord sz m ext => Sys2Proof.Machine.execVgath vd ra vb ord sz m ext s
  | .vscat vd ra vb ord sz m ext => Sys2Proof.Machine.execVscat vd ra vb ord sz m ext s
  | .sptst rd ra => Sys2Proof.Machine.execSptst rd ra s
  | .spcast rd ra => Sys2Proof.Machine.execSpcast rd ra s
  | .vpin rd ra lvl => Sys2Proof.Machine.execVpin rd ra lvl s
  | .cpy rd ra rb dk tag => Sys2Proof.Machine.execCpy rd ra rb dk tag s
  | .cpys rd ra rb dk tag => Sys2Proof.Machine.execCpys rd ra rb dk tag s
  | .copyStart cluster chan => Sys2Proof.Machine.execCopyStart cluster chan s
  | .copyComplete cluster chan => Sys2Proof.Machine.execCopyComplete cluster chan s
  | .cpwaitany rd ra => Sys2Proof.Machine.execCpwaitany rd ra s
  | .cpwaitall ra => Sys2Proof.Machine.execCpwaitall ra s
  | .cpfirst rd ra => Sys2Proof.Machine.execCpfirst rd ra s
  | .cpclr ra => Sys2Proof.Machine.execCpclr ra s
  | .scanq ra tag => Sys2Proof.Machine.execScanq ra tag s
  | .scanComplete idx order => Sys2Proof.Machine.execScanComplete idx order s
  | .annc rd ra rb ext => Sys2Proof.Machine.execAnnc rd ra rb ext s
  | .want ra rb tag ext => Sys2Proof.Machine.execWant ra rb tag ext s
  | .retrc rd tag => Sys2Proof.Machine.execRetrc rd tag s
  | .portUnbind rd q ra rb => Sys2Proof.Machine.execPortUnbind rd q ra rb s
  | .portNeighbour rd q ra rb => Sys2Proof.Machine.execPortNeighbour rd q ra rb s
  | .portMbrecv rd q ra rb => Sys2Proof.Machine.execPortMbrecv rd q ra rb s
  | .portMbsend rd q ra rb => Sys2Proof.Machine.execPortMbsend rd q ra rb s
  | .portArraycmd rd q ra rb => Sys2Proof.Machine.execPortArraycmd rd q ra rb s
  | .portArrayres rd q ra rb => Sys2Proof.Machine.execPortArrayres rd q ra rb s
  | .portMbdef rd q ra rb => Sys2Proof.Machine.execPortMbdef rd q ra rb s
  | .qstat rd q => Sys2Proof.Machine.execQstat rd q s
  | .neighbourArrival core idx => Sys2Proof.Machine.execNeighbourArrival core idx s
  | .mbReservation core slot => Sys2Proof.Machine.execMbReservation core slot s
  | .mbReservationResend core slot => Sys2Proof.Machine.execMbReservationResend core slot s
  | .qwatchExpiry core slot => Sys2Proof.Machine.execQwatchExpiry core slot s
  | .queueProbe idx => Sys2Proof.Machine.execQueueProbe idx s
  | .rinit rd ra rb sc => Sys2Proof.Machine.execRinit rd ra rb sc s
  | .racq rd ra sc => Sys2Proof.Machine.execRacq rd ra sc s
  | .rcommit rd ra sc => Sys2Proof.Machine.execRcommit rd ra sc s
  | .rpeek rd ra sc => Sys2Proof.Machine.execRpeek rd ra sc s
  | .rrel ra sc => Sys2Proof.Machine.execRrel ra sc s
  | .racqResend core slot => Sys2Proof.Machine.execRacqResend core slot s
  | .lease => Sys2Proof.Machine.execLease s
  | .lrel => Sys2Proof.Machine.execLrel s
  | .mhset ra rb => Sys2Proof.Machine.execMhset ra rb s
  | .rowdone ra => Sys2Proof.Machine.execRowdone ra s
  | .leaseExpiry cluster => Sys2Proof.Machine.execLeaseExpiry cluster s
  | .arrayCommandCheck cluster => Sys2Proof.Machine.execArrayCommandCheck cluster s
  | .arrayChunkComplete cluster => Sys2Proof.Machine.execArrayChunkComplete cluster s
  | .rowLanding cluster => Sys2Proof.Machine.execRowLanding cluster s
  | .arrayStatusPush cluster => Sys2Proof.Machine.execArrayStatusPush cluster s
  | .spawn rd ra rb ext => Sys2Proof.Machine.execSpawn rd ra rb ext s
  | .quit => Sys2Proof.Machine.execQuit s
  | .fork ra rb sc ext => Sys2Proof.Machine.execFork ra rb sc ext s
  | .join ra => Sys2Proof.Machine.execJoin ra s
  | .migr ra => Sys2Proof.Machine.execMigr ra s
  | .anchor ra => Sys2Proof.Machine.execAnchor ra s
  | .startMessage idx => Sys2Proof.Machine.execStartMessage idx s
  | .startResend core slot => Sys2Proof.Machine.execStartResend core slot s
  | .slotLoaded core slot => Sys2Proof.Machine.execSlotLoaded core slot s
  | .migrArrival idx => Sys2Proof.Machine.execMigrArrival idx s
  | .amsend ra rb tag ext => Sys2Proof.Machine.execAmsend ra rb tag ext s
  | .amsendRetry idx => Sys2Proof.Machine.execAmsendRetry idx s
  | .kernelRelaunch ctx => Sys2Proof.Machine.execKernelRelaunch ctx s
  | .kernelComplete ctx => Sys2Proof.Machine.execKernelComplete ctx s
  | .barinit rd ra rb => Sys2Proof.Machine.execBarinit rd ra rb s
  | .bararr rd ra rb => Sys2Proof.Machine.execBararr rd ra rb s
  | .barwait rd ra rb => Sys2Proof.Machine.execBarwait rd ra rb s
  | .baraw rd ra rb => Sys2Proof.Machine.execBaraw rd ra rb s
  | .semp rd ra => Sys2Proof.Machine.execSemp rd ra s
  | .semv ra rb => Sys2Proof.Machine.execSemv ra rb s
  | .barrierWake idx => Sys2Proof.Machine.execBarrierWake idx s
  | .syncTimeout core slot => Sys2Proof.Machine.execSyncTimeout core slot s
  | .gang rd => Sys2Proof.Machine.execGang rd s
  | .ungang => Sys2Proof.Machine.execUngang s
  | .twin rd => Sys2Proof.Machine.execTwin rd s
  | .untwin => Sys2Proof.Machine.execUntwin s
  | .killThread rd ra rb => Sys2Proof.Machine.execKillThread rd ra rb s
  | .killContext rd ra rb => Sys2Proof.Machine.execKillContext rd ra rb s
  | .wake rd ra => Sys2Proof.Machine.execWake rd ra s
  | .resumeRetry rd ra rb => Sys2Proof.Machine.execResumeRetry rd ra rb s
  | .resumeSkip rd ra rb => Sys2Proof.Machine.execResumeSkip rd ra rb s
  | .resumeHandler rd ra rb => Sys2Proof.Machine.execResumeHandler rd ra rb s
  | .preempt rd ra => Sys2Proof.Machine.execPreempt rd ra s
  | .mapset rd ra rb => Sys2Proof.Machine.execMapset rd ra rb s
  | .mapinvUnmap rd ra rb => Sys2Proof.Machine.execMapinvUnmap rd ra rb s
  | .mapinvRetire rd ra rb => Sys2Proof.Machine.execMapinvRetire rd ra rb s
  | .pghotRead rd ra rb => Sys2Proof.Machine.execPghotRead rd ra rb s
  | .pghotHalve rd ra rb => Sys2Proof.Machine.execPghotHalve rd ra rb s
  | .pghotClear rd ra rb => Sys2Proof.Machine.execPghotClear rd ra rb s
  | .pghotPromote rd ra rb => Sys2Proof.Machine.execPghotPromote rd ra rb s
  | .tlbflPage rd ra rb => Sys2Proof.Machine.execTlbflPage rd ra rb s
  | .tlbflGlobal rd ra rb => Sys2Proof.Machine.execTlbflGlobal rd ra rb s
  | .tlbflPrivate rd ra rb => Sys2Proof.Machine.execTlbflPrivate rd ra rb s
  | .tlbflContext rd ra rb => Sys2Proof.Machine.execTlbflContext rd ra rb s
  | .tlbflDevice rd ra rb => Sys2Proof.Machine.execTlbflDevice rd ra rb s
  | .tlbEvict core idx => Sys2Proof.Machine.execTlbEvict core idx s
  | .swapComplete idx => Sys2Proof.Machine.execSwapComplete idx s
  | .bankret rd ra => Sys2Proof.Machine.execBankret rd ra s
  | .bankretDomain rd ra => Sys2Proof.Machine.execBankretDomain rd ra s
  | .bankq rd ra => Sys2Proof.Machine.execBankq rd ra s
  | .evacLineCopy kind holder bank => Sys2Proof.Machine.execEvacLineCopy kind holder bank s
  | .evacSwitchover kind holder bank => Sys2Proof.Machine.execEvacSwitchover kind holder bank s
  | .drainHorizon kind holder bank => Sys2Proof.Machine.execDrainHorizon kind holder bank s
  | .vigilEntry cluster => Sys2Proof.Machine.execVigilEntry cluster s
  | .vigilExit cluster => Sys2Proof.Machine.execVigilExit cluster s
  | .lkctlEnable rd ra rb => Sys2Proof.Machine.execLkctlEnable rd ra rb s
  | .lkctlDisable rd ra rb => Sys2Proof.Machine.execLkctlDisable rd ra rb s
  | .lkctlRetrain rd ra rb => Sys2Proof.Machine.execLkctlRetrain rd ra rb s
  | .lkctlWriteRoute rd ra rb => Sys2Proof.Machine.execLkctlWriteRoute rd ra rb s
  | .lkctlClearLoss rd ra rb => Sys2Proof.Machine.execLkctlClearLoss rd ra rb s
  | .lkctlRevive rd ra rb => Sys2Proof.Machine.execLkctlRevive rd ra rb s
  | .lkqStatus rd ra => Sys2Proof.Machine.execLkqStatus rd ra s
  | .lkqCap rd ra => Sys2Proof.Machine.execLkqCap rd ra s
  | .lkqLoss rd ra => Sys2Proof.Machine.execLkqLoss rd ra s
  | .lkqRoute rd ra => Sys2Proof.Machine.execLkqRoute rd ra s
  | .lkqWindow rd ra => Sys2Proof.Machine.execLkqWindow rd ra s
  | .namerouteWriteRoute rd ra rb => Sys2Proof.Machine.execNamerouteWriteRoute rd ra rb s
  | .namerouteReadRoute rd ra rb => Sys2Proof.Machine.execNamerouteReadRoute rd ra rb s
  | .namerouteSetTarn rd ra rb => Sys2Proof.Machine.execNamerouteSetTarn rd ra rb s
  | .namerouteReadDrops rd ra rb => Sys2Proof.Machine.execNamerouteReadDrops rd ra rb s
  | .movl rd imm => Sys2Proof.Machine.execMovl rd imm s
  | .movlU rd imm => Sys2Proof.Machine.execMovlU rd imm s
  | .movlH rd imm => Sys2Proof.Machine.execMovlH rd imm s
  | .anop => Sys2Proof.Machine.execAnop s
  | .add rd ra rb => Sys2Proof.Machine.execAdd rd ra rb s
  | .sub rd ra rb => Sys2Proof.Machine.execSub rd ra rb s
  | .and rd ra rb => Sys2Proof.Machine.execAnd rd ra rb s
  | .or rd ra rb => Sys2Proof.Machine.execOr rd ra rb s
  | .xor rd ra rb => Sys2Proof.Machine.execXor rd ra rb s
  | .shl rd ra rb => Sys2Proof.Machine.execShl rd ra rb s
  | .shr rd ra rb => Sys2Proof.Machine.execShr rd ra rb s
  | .sar rd ra rb => Sys2Proof.Machine.execSar rd ra rb s
  | .rol rd ra rb => Sys2Proof.Machine.execRol rd ra rb s
  | .min rd ra rb => Sys2Proof.Machine.execMin rd ra rb s
  | .max rd ra rb => Sys2Proof.Machine.execMax rd ra rb s
  | .minu rd ra rb => Sys2Proof.Machine.execMinu rd ra rb s
  | .maxu rd ra rb => Sys2Proof.Machine.execMaxu rd ra rb s
  | .slt rd ra rb => Sys2Proof.Machine.execSlt rd ra rb s
  | .sltu rd ra rb => Sys2Proof.Machine.execSltu rd ra rb s
  | .seq rd ra rb => Sys2Proof.Machine.execSeq rd ra rb s
  | .csel rd rc ra rb => Sys2Proof.Machine.execCsel rd rc ra rb s
  | .mul rd ra rb => Sys2Proof.Machine.execMul rd ra rb s
  | .mulh rd ra rb => Sys2Proof.Machine.execMulh rd ra rb s
  | .mulhu rd ra rb => Sys2Proof.Machine.execMulhu rd ra rb s
  | .div rd ra rb => Sys2Proof.Machine.execDiv rd ra rb s
  | .divu rd ra rb => Sys2Proof.Machine.execDivu rd ra rb s
  | .rem rd ra rb => Sys2Proof.Machine.execRem rd ra rb s
  | .remu rd ra rb => Sys2Proof.Machine.execRemu rd ra rb s
  | .dividerDone core slot => Sys2Proof.Machine.execDividerDone core slot s
  | .clz rd ra => Sys2Proof.Machine.execClz rd ra s
  | .ctz rd ra => Sys2Proof.Machine.execCtz rd ra s
  | .popc rd ra => Sys2Proof.Machine.execPopc rd ra s
  | .ext rd ra rb => Sys2Proof.Machine.execExt rd ra rb s
  | .ins rd ra rb => Sys2Proof.Machine.execIns rd ra rb s
  | .abs rd ra => Sys2Proof.Machine.execAbs rd ra s
  | .addi rd ra imm => Sys2Proof.Machine.execAddi rd ra imm s
  | .andi rd ra imm => Sys2Proof.Machine.execAndi rd ra imm s
  | .ori rd ra imm => Sys2Proof.Machine.execOri rd ra imm s
  | .xori rd ra imm => Sys2Proof.Machine.execXori rd ra imm s
  | .shli rd ra n => Sys2Proof.Machine.execShli rd ra n s
  | .shri rd ra n => Sys2Proof.Machine.execShri rd ra n s
  | .sari rd ra n => Sys2Proof.Machine.execSari rd ra n s
  | .movi rd imm => Sys2Proof.Machine.execMovi rd imm s
  | .movhi rd h imm => Sys2Proof.Machine.execMovhi rd h imm s
  | .slti rd ra imm => Sys2Proof.Machine.execSlti rd ra imm s
  | .fadd rd ra rb f => Sys2Proof.Machine.execFadd rd ra rb f s
  | .fsub rd ra rb f => Sys2Proof.Machine.execFsub rd ra rb f s
  | .fmul rd ra rb f => Sys2Proof.Machine.execFmul rd ra rb f s
  | .ffma rd ra rb rc f => Sys2Proof.Machine.execFfma rd ra rb rc f s
  | .fmin rd ra rb f => Sys2Proof.Machine.execFmin rd ra rb f s
  | .fmax rd ra rb f => Sys2Proof.Machine.execFmax rd ra rb f s
  | .fcmpeq rd ra rb f => Sys2Proof.Machine.execFcmpeq rd ra rb f s
  | .fcmplt rd ra rb f => Sys2Proof.Machine.execFcmplt rd ra rb f s
  | .fcmple rd ra rb f => Sys2Proof.Machine.execFcmple rd ra rb f s
  | .fsgn rd ra rb f kind => Sys2Proof.Machine.execFsgn rd ra rb f kind s
  | .fcvt rd ra dfmt sfmt sat => Sys2Proof.Machine.execFcvt rd ra dfmt sfmt sat s
  | .fexp2 rd ra f => Sys2Proof.Machine.execFexp2 rd ra f s
  | .flog2 rd ra f => Sys2Proof.Machine.execFlog2 rd ra f s
  | .frcp rd ra f => Sys2Proof.Machine.execFrcp rd ra f s
  | .frsq rd ra f => Sys2Proof.Machine.execFrsq rd ra f s
  | .fsqrt rd ra f => Sys2Proof.Machine.execFsqrt rd ra f s
  | .ftanh rd ra f => Sys2Proof.Machine.execFtanh rd ra f s
  | .fsin rd ra f => Sys2Proof.Machine.execFsin rd ra f s
  | .fcos rd ra f => Sys2Proof.Machine.execFcos rd ra f s
  | .vfexp2 vd va m fmt => Sys2Proof.Machine.execVfexp2 vd va m fmt s
  | .vflog2 vd va m fmt => Sys2Proof.Machine.execVflog2 vd va m fmt s
  | .vfrcp vd va m fmt => Sys2Proof.Machine.execVfrcp vd va m fmt s
  | .vfrsq vd va m fmt => Sys2Proof.Machine.execVfrsq vd va m fmt s
  | .vfsqrt vd va m fmt => Sys2Proof.Machine.execVfsqrt vd va m fmt s
  | .vftanh vd va m fmt => Sys2Proof.Machine.execVftanh vd va m fmt s
  | .vfsin vd va m fmt => Sys2Proof.Machine.execVfsin vd va m fmt s
  | .vfcos vd va m fmt => Sys2Proof.Machine.execVfcos vd va m fmt s
  | .sfuResult core => Sys2Proof.Machine.execSfuResult core s
  | .vadd vd va vb m fmt => Sys2Proof.Machine.execVadd vd va vb m fmt s
  | .vsub vd va vb m fmt => Sys2Proof.Machine.execVsub vd va vb m fmt s
  | .vmul vd va vb m fmt => Sys2Proof.Machine.execVmul vd va vb m fmt s
  | .vmulh vd va vb m fmt => Sys2Proof.Machine.execVmulh vd va vb m fmt s
  | .vmin vd va vb m fmt => Sys2Proof.Machine.execVmin vd va vb m fmt s
  | .vmax vd va vb m fmt => Sys2Proof.Machine.execVmax vd va vb m fmt s
  | .vabs vd va m fmt => Sys2Proof.Machine.execVabs vd va m fmt s
  | .vsadd vd va vb m fmt => Sys2Proof.Machine.execVsadd vd va vb m fmt s
  | .vand vd va vb m fmt => Sys2Proof.Machine.execVand vd va vb m fmt s
  | .vor vd va vb m fmt => Sys2Proof.Machine.execVor vd va vb m fmt s
  | .vxor vd va vb m fmt => Sys2Proof.Machine.execVxor vd va vb m fmt s
  | .vandn vd va vb m fmt => Sys2Proof.Machine.execVandn vd va vb m fmt s
  | .vnot vd va m fmt => Sys2Proof.Machine.execVnot vd va m fmt s
  | .vshl vd va vb m fmt => Sys2Proof.Machine.execVshl vd va vb m fmt s
  | .vshr vd va vb m fmt => Sys2Proof.Machine.execVshr vd va vb m fmt s
  | .vsar vd va vb m fmt => Sys2Proof.Machine.execVsar vd va vb m fmt s
  | .vfadd vd va vb m fmt => Sys2Proof.Machine.execVfadd vd va vb m fmt s
  | .vfsub vd va vb m fmt => Sys2Proof.Machine.execVfsub vd va vb m fmt s
  | .vfmul vd va vb m fmt => Sys2Proof.Machine.execVfmul vd va vb m fmt s
  | .vfma vd va vb m fmt => Sys2Proof.Machine.execVfma vd va vb m fmt s
  | .vfmin vd va vb m fmt => Sys2Proof.Machine.execVfmin vd va vb m fmt s
  | .vfmax vd va vb m fmt => Sys2Proof.Machine.execVfmax vd va vb m fmt s
  | .vfabs vd va m fmt => Sys2Proof.Machine.execVfabs vd va m fmt s
  | .vfneg vd va m fmt => Sys2Proof.Machine.execVfneg vd va m fmt s
  | .vcmpEq md va vb m fmt => Sys2Proof.Machine.execVcmpEq md va vb m fmt s
  | .vcmpNe md va vb m fmt => Sys2Proof.Machine.execVcmpNe md va vb m fmt s
  | .vcmpLt md va vb m fmt => Sys2Proof.Machine.execVcmpLt md va vb m fmt s
  | .vcmpLe md va vb m fmt => Sys2Proof.Machine.execVcmpLe md va vb m fmt s
  | .vcmpLtu md va vb m fmt => Sys2Proof.Machine.execVcmpLtu md va vb m fmt s
  | .vcmpLeu md va vb m fmt => Sys2Proof.Machine.execVcmpLeu md va vb m fmt s
  | .vcmpFlt md va vb m fmt => Sys2Proof.Machine.execVcmpFlt md va vb m fmt s
  | .vcmpFle md va vb m fmt => Sys2Proof.Machine.execVcmpFle md va vb m fmt s
  | .vsel vd va vb m fmt => Sys2Proof.Machine.execVsel vd va vb m fmt s
  | .vsplat vd xa m fmt => Sys2Proof.Machine.execVsplat vd xa m fmt s
  | .vperm vd va vb m fmt => Sys2Proof.Machine.execVperm vd va vb m fmt s
  | .vcomp vd va m fmt => Sys2Proof.Machine.execVcomp vd va m fmt s
  | .vexpd vd va m fmt => Sys2Proof.Machine.execVexpd vd va m fmt s
  | .vshuf vd va vb m fmt => Sys2Proof.Machine.execVshuf vd va vb m fmt s
  | .vrot vd va xb m fmt => Sys2Proof.Machine.execVrot vd va xb m fmt s
  | .vrev vd va m fmt => Sys2Proof.Machine.execVrev vd va m fmt s
  | .vredadd vd va m fmt => Sys2Proof.Machine.execVredadd vd va m fmt s
  | .vredmax vd va m fmt => Sys2Proof.Machine.execVredmax vd va m fmt s
  | .vredmin vd va m fmt => Sys2Proof.Machine.execVredmin vd va m fmt s
  | .vredand vd va m fmt => Sys2Proof.Machine.execVredand vd va m fmt s
  | .vredor vd va m fmt => Sys2Proof.Machine.execVredor vd va m fmt s
  | .vcvt vd va sat partner m fmt srcIsFmt q => Sys2Proof.Machine.execVcvt vd va sat partner m fmt srcIsFmt q s
  | .vdot4 vd va vb m fmt => Sys2Proof.Machine.execVdot4 vd va vb m fmt s
  | .vdota vd va vb m fmt => Sys2Proof.Machine.execVdota vd va vb m fmt s
  | .vgetl xd va k fmt => Sys2Proof.Machine.execVgetl xd va k fmt s
  | .vsetl vd xa k fmt => Sys2Proof.Machine.execVsetl vd xa k fmt s
  | .bsalign vd va => Sys2Proof.Machine.execBsalign vd va s
  | .scaccL vd va vb m => Sys2Proof.Machine.execScaccL vd va vb m s
  | .scaccH vd va vb m => Sys2Proof.Machine.execScaccH vd va vb m s
  | .bsnormL vd va m => Sys2Proof.Machine.execBsnormL vd va m s
  | .bsnormH vd va m => Sys2Proof.Machine.execBsnormH vd va m s
  | .bsnormR vd va m => Sys2Proof.Machine.execBsnormR vd va m s
  | .ppinit pd xa => Sys2Proof.Machine.execPpinit pd xa s
  | .ppmul pd xa xb => Sys2Proof.Machine.execPpmul pd xa xb s
  | .ppmulv pd va vb m => Sys2Proof.Machine.execPpmulv pd va vb m s
  | .ppdiv pd xa xb => Sys2Proof.Machine.execPpdiv pd xa xb s
  | .ppmerge pd pa pb => Sys2Proof.Machine.execPpmerge pd pa pb s
  | .pprd vd pa g m => Sys2Proof.Machine.execPprd vd pa g m s
  | .ppld pd va g m => Sys2Proof.Machine.execPpld pd va g m s
  | .ppexp xd pa => Sys2Proof.Machine.execPpexp xd pa s
  | .ppnorm pd => Sys2Proof.Machine.execPpnorm pd s
  | .ppaOpComplete core => Sys2Proof.Machine.execPpaOpComplete core s
  | .mand md ma mb => Sys2Proof.Machine.execMand md ma mb s
  | .mor md ma mb => Sys2Proof.Machine.execMor md ma mb s
  | .mnot md ma => Sys2Proof.Machine.execMnot md ma s
  | .mpopc xd ma w => Sys2Proof.Machine.execMpopc xd ma w s
  | .mfirst xd ma w => Sys2Proof.Machine.execMfirst xd ma w s
  | .mset md xa => Sys2Proof.Machine.execMset md xa s
  | .mget xd ma => Sys2Proof.Machine.execMget xd ma s
  | .resultArrival core slot idx => Sys2Proof.Machine.execResultArrival core slot idx s
  | .accessComplete core slot => Sys2Proof.Machine.execAccessComplete core slot s
  | .looseBufferDrain core => Sys2Proof.Machine.execLooseBufferDrain core s
  | .drainRequest core slot => Sys2Proof.Machine.execDrainRequest core slot s
  | .feRequestArrival core slot idx => Sys2Proof.Machine.execFeRequestArrival core slot idx s
  | .feResend core slot idx => Sys2Proof.Machine.execFeResend core slot idx s
  | .feTimeout core slot idx => Sys2Proof.Machine.execFeTimeout core slot idx s
  | .feCancel core slot idx => Sys2Proof.Machine.execFeCancel core slot idx s
  | .eventTimeout core slot => Sys2Proof.Machine.execEventTimeout core slot s
  | .requestReissue core slot idx => Sys2Proof.Machine.execRequestReissue core slot idx s
  | .requestFail core slot idx => Sys2Proof.Machine.execRequestFail core slot idx s
  | .identityExpiry idx => Sys2Proof.Machine.execIdentityExpiry idx s
  | .supervisorMessageRetry idx => Sys2Proof.Machine.execSupervisorMessageRetry idx s
  | .preemptRequest core => Sys2Proof.Machine.execPreemptRequest core s
  | .threadHalt core slot => Sys2Proof.Machine.execThreadHalt core slot s
  | .imageDone ctx => Sys2Proof.Machine.execImageDone ctx s
  | .arraySpillDone cluster => Sys2Proof.Machine.execArraySpillDone cluster s
  | .coreBlockLoaded core => Sys2Proof.Machine.execCoreBlockLoaded core s
  | .ueKill core slot => Sys2Proof.Machine.execUeKill core slot s
  | .poison ctx addr => Sys2Proof.Machine.execPoison ctx addr s
  | .claimWipeComplete core => Sys2Proof.Machine.execClaimWipeComplete core s
  | .groupExit core => Sys2Proof.Machine.execGroupExit core s
  | .engineWriteDrop cluster chan => Sys2Proof.Machine.execEngineWriteDrop cluster chan s
  | .interestArrival idx => Sys2Proof.Machine.execInterestArrival idx s
  | .tileDelivery idx => Sys2Proof.Machine.execTileDelivery idx s
  | .interestExpiry cluster idx => Sys2Proof.Machine.execInterestExpiry cluster idx s
  | .neverProduced cluster idx => Sys2Proof.Machine.execNeverProduced cluster idx s
  | .purgeAck idx => Sys2Proof.Machine.execPurgeAck idx s
  | .linkUp cxl port caps bytes => Sys2Proof.Machine.execLinkUp cxl port caps bytes s
  | .trainingTimeout cxl port => Sys2Proof.Machine.execTrainingTimeout cxl port s
  | .llrReplay port bad ok => Sys2Proof.Machine.execLlrReplay port bad ok s
  | .rudRetransmit port idx => Sys2Proof.Machine.execRudRetransmit port idx s
  | .peerFailed dev => Sys2Proof.Machine.execPeerFailed dev s
  | .packetDrop obj index => Sys2Proof.Machine.execPacketDrop obj index s
  | .ycpCreate y => Sys2Proof.Machine.execYcpCreate y s
  | .ycpLaunch y => Sys2Proof.Machine.execYcpLaunch y s
  | .ycpAmsend y => Sys2Proof.Machine.execYcpAmsend y s
  | .ycpKill y => Sys2Proof.Machine.execYcpKill y s
  | .ycpPreempt y => Sys2Proof.Machine.execYcpPreempt y s
  | .ycpRestore y => Sys2Proof.Machine.execYcpRestore y s
  | .ycpShrink y => Sys2Proof.Machine.execYcpShrink y s
  | .ycpWrite y => Sys2Proof.Machine.execYcpWrite y s
  | .ycpRead y => Sys2Proof.Machine.execYcpRead y s
  | .budgetWrite y => Sys2Proof.Machine.execBudgetWrite y s
  | .budgetRead y => Sys2Proof.Machine.execBudgetRead y s
  | .identity y => Sys2Proof.Machine.execIdentity y s
  | .attest y => Sys2Proof.Machine.execAttest y s
  | .lifeCycleChange cmd vendor owner => Sys2Proof.Machine.execLifeCycleChange cmd vendor owner s
  | .powerGood parts => Sys2Proof.Machine.execPowerGood parts s
  | .dieReady die => Sys2Proof.Machine.execDieReady die s
  | .cxlReady found => Sys2Proof.Machine.execCxlReady found s
  | .warmReset => Sys2Proof.Machine.execWarmReset s
  | .coldReset phys => Sys2Proof.Machine.execColdReset phys s
  | .operatingPointChange cluster point => Sys2Proof.Machine.execOperatingPointChange cluster point s
  | .budgetStep cluster down => Sys2Proof.Machine.execBudgetStep cluster down s
  | .dieGate die => Sys2Proof.Machine.execDieGate die s
  | .dieUngate die => Sys2Proof.Machine.execDieUngate die s
  | .yieldExpiry core slot => Sys2Proof.Machine.execYieldExpiry core slot s
  | .cpwTimeout core slot => Sys2Proof.Machine.execCpwTimeout core slot s
  | .vigilDecodeComplete cluster => Sys2Proof.Machine.execVigilDecodeComplete cluster s
  | .operatingPointSettled cluster => Sys2Proof.Machine.execOperatingPointSettled cluster s
  | .stackReady stack => Sys2Proof.Machine.execStackReady stack s
  | .remoteRequest dev port ctx op => Sys2Proof.Machine.execRemoteRequest dev port ctx op s
  | .llrAcknowledgement port count => Sys2Proof.Machine.execLlrAcknowledgement port count s

end Sys2Proof.Machine
end

