-- ==== Sys2Proof/Machine/Place.lean ====
section
/-!
DEFINITION. The load of one bundle from outside the device (log 9, DESIGN CHOICE): what a host sets up before a program's first bundle issues,
in place of the launch of a kernel (R281, R301, R414).
-/

noncomputable section

namespace Sys2Proof.Machine

/-- The address of the placed bundle, in the global window and in memory. -/
def placePc : Nat := 0x200000

/-- Bytes written to memory whose words are full. -/
def placeBytes (s : State) (loc v : Nat) : State := writeBytes (setFull s (loc / 8)) loc 8 v

/-- The table of context 1 (R324): three tables and a leaf of 2 MiB with every right, the identity on the page of placePc. -/
def placeTables (s : State) : State :=
  placeBytes (placeBytes (placeBytes s 0x10000 0x12001) 0x12000 0x14001) 0x14010 (placePc + 0x1F)

/-- The thread whose next issue is the placed bundle: READY at it, with nothing pending. -/
def placeThread (gang : Bool) (th : Thread) : Thread :=
  { th with
    slot := .ready, ctx := 1, pc := BitVec.ofNat 64 placePc, mode := if gang then 1 else 0, park := none, reply := none
    marksX := 0, marksV := 0, accs := [], last := none, busyTil := 0, marker := false, traps := []
    inside := none, keep := none, arrived := [], resv := [], forked := false, late := [] }

/-- The core of the placed bundle, at the cycle that slot 0 owns: its group ACTIVE for context 1. -/
def placeCore (gang : Bool) (k : Core) : Core :=
  let k := setThrOf k 0 (placeThread gang (thrOf k 0))
  let k := if gang then setThrOf k 1 { thrOf k 1 with slot := .ganghigh, ctx := 1, mode := 1, last := none } else k
  { k with time := 0, group := .active, ctx := 1, tlb := [], stopping := false }

/-- The device with one bundle in memory and thread 0 of core 0 about to fetch it: die 0 ready, a privileged context 1 with a
page table, an empty agenda, every clock running, no page moving, no line poisoned. A word that only a ganged thread may issue finds the thread ganged (R94). -/
def placeWord (s : State) (_nbits w : Nat) : State :=
  let b := tableBundle w
  let gang := !(decodeBundle false b).toBool && (decodeBundle true b).toBool
  let s := placeBytes (placeTables s) placePc b.toNat
  let s := modCtx s 1 (fun x => { x with st := .live, groot := 0x10000, priv := true })
  let s := modCore s 0 (placeCore gang)
  let s := { s with clusters := s.clusters.map (fun (p : Nat × Cluster) => (p.1, { p.2 with stopped := false, vigil := 0 })) }
  { s with dierdy := s.dierdy ||| 1, gated := s.gated &&& 14, swaps := [], poison := [], agenda := [], focus := 0, iss := {} }

end Sys2Proof.Machine

end
end

