-- ==== Sys2Proof/Machine/Schedule.lean ====
section
/-!
DEFINITION. The schedule of the model (log 1, DESIGN CHOICE): the moves of an agenda, and, when the agenda is empty, a move that the spec
allows: a cycle of the focus core when a thread of it can issue, else a message or a count that has come.
-/

noncomputable section

namespace Sys2Proof.Machine

/-- The cluster whose clock an event needs: that of the core, array, engine or agent that acts or that a message reaches (R420). -/
def clockOf (s : State) : Instr → Option Nat
  | .resultArrival c _ _ | .accessComplete c _ | .looseBufferDrain c | .preemptRequest c | .threadHalt c _ | .coreBlockLoaded c
  | .claimWipeComplete c | .groupExit c | .slotLoaded c _ => some (clusterOf c)
  | .copyStart k _ | .copyComplete k _ | .engineWriteDrop k _ | .arrayCommandCheck k | .arrayChunkComplete k | .rowLanding k
  | .arrayStatusPush k | .arraySpillDone k | .interestExpiry k _ | .neverProduced k _ => some k
  | .evacLineCopy kind h _ | .evacSwitchover kind h _ => unitCluster kind h
  | .startMessage i => s.starts[i]?.map (fun q => clusterOf q.core)
  | .migrArrival i => s.packets[i]?.map (fun q => clusterOf q.core)
  | .amsendRetry i => s.ams[i]?.bind (fun q => if q.dev = s.number then some (clusterOf q.dst) else none)
  | .barrierWake i => s.wakes[i]?.map (fun q => clusterOf q.core)
  | .queueProbe i => s.probes[i]?.map (fun q => clusterOf q.at_)
  | .interestArrival i => s.ints[i]?.map (·.tgt)
  | .tileDelivery i => s.tiles[i]?.map (·.tgt)
  | .ycpLaunch y => some (clusterOf (bits (bodyWord y 0) 16 13))
  | .ycpAmsend y => some (clusterOf (bits (bodyWord y 1) 0 13))
  | .remoteRequest _ _ _ op => if op.kind = 5 then some (clusterOf op.cmp) else none
  | _ => none

/-- An event waits while the clock that it needs stands: a change of operating point crosses no boundary, and requests to the cluster are
answered afterwards (R420). -/
def waitsForClock (s : State) (i : Instr) : Bool :=
  match clockOf s i with
  | some k => (cluAt s k).stopped
  | none => false

/-- An event comes, unless it waits for a clock. -/
def eventMove (ex : Instr → State → Out) (i : Instr) (s : State) : Out :=
  if isEvent i && !waitsForClock s i then ex i s else .next s

/-- One move of the device. ex is exec (log 13, DESIGN CHOICE). -/
def performMove (ex : Instr → State → Out) (m : Move) (s : State) : Out :=
  match m with
  | .event i => eventMove ex i s
  | .turn c => turn ex sfuEnd ppaEnd c s
  | .clock d n => .next (advance s d n)
  | .retire w => .next (odcorRetire s w)
  | .ycpOther op y => ycpOther op y s
  | .session port signed => .next (admitSession s port signed)
  | .estimate watts acts => .next (estimate s watts acts)
  | .unitPoint kind idx point => .next (unitPoint s kind idx point)

/-- A thread of a core can issue in this cycle. -/
def mayIssue (s : State) (c : Nat) : Bool :=
  decide (c < 5120) && clockRuns s c && !highHalf (coreAt s c) && (offered (coreAt s c).time).any (eligible s c)

/-- Events of the threads of a core that need nothing from outside. -/
def threadEvents (s : State) (c t : Nat) : List Instr :=
  (if (thrAt s c t).slot = .loading then [.slotLoaded c t] else []) ++
  (List.range (thrAt s c t).accs.length).flatMap (fun i => [.feRequestArrival c t i, .feResend c t i]) ++
  [.accessComplete c t] ++ (List.range (thrAt s c t).accs.length).map (fun i => .resultArrival c t i) ++
  (if (thrAt s c t).accs.any (fun a => a.drain != []) then [.drainRequest c t] else []) ++
  (if parkedFor (thrAt s c t) .port then [.mbReservation c t, .mbReservationResend c t, .racqResend c t] else []) ++
  (if parkedFor (thrAt s c t) .busy then [.startResend c t, .racqResend c t] else [])

/-- Events that the device brings about by itself, as its own schedule tries them for a core and its cluster (log 1, DESIGN CHOICE). -/
def ownEvents (s : State) (c : Nat) : List Instr :=
  let k := clusterOf c
  slots.flatMap (threadEvents s c) ++
  (List.range s.starts.length).map .startMessage ++ (List.range s.packets.length).map .migrArrival ++
  (List.range s.wakes.length).map .barrierWake ++
  (cluAt s k).chans.flatMap (fun p => [.copyStart k p.1, .copyComplete k p.1]) ++
  (List.range s.scans.length).map (fun i => .scanComplete i []) ++
  [.arrayCommandCheck k, .arrayChunkComplete k, .rowLanding k, .arrayStatusPush k] ++
  (List.range s.ints.length).map .interestArrival ++ (List.range s.tiles.length).map .tileDelivery ++
  (List.range s.purges.length).map .purgeAck ++
  [.looseBufferDrain c, .claimWipeComplete c, .groupExit c]

/-- The first of some events that changes the device. -/
def firstEvent (ex : Instr → State → Out) (s : State) : List Instr → Option Out
  | [] => none
  | i :: r => match eventMove ex i s with
    | .next s' => if s' = s then firstEvent ex s r else some (.next s')
    | o => some o

/-- The move of an empty agenda: a cycle of the focus core when a thread can issue in it; else the first event of the
device's own that changes it; else the cycle. -/
def ownMove (ex : Instr → State → Out) (s : State) : Out :=
  if mayIssue s s.focus then turn ex sfuEnd ppaEnd s.focus s
  else match firstEvent ex s (ownEvents s s.focus) with
    | some o => o
    | none => turn ex sfuEnd ppaEnd s.focus s

/-- A step of the device: the first move of the agenda, or a move of its own. -/
def moveOn (ex : Instr → State → Out) (s : State) : Out :=
  match s.agenda with
  | m :: r => performMove ex m { s with agenda := r }
  | [] => ownMove ex s

end Sys2Proof.Machine

end
end

