-- ==== Sys2Proof/Machine/Step.lean ====
section
/-!
DEFINITION. A step of the device: the next move of its schedule, with exec as the meaning of every event and of every word of a
bundle.
-/

noncomputable section

namespace Sys2Proof.Machine

/-- A step (log 1, DESIGN CHOICE). -/
def step (s : State) : Host.Outcome State Fault Refusal := moveOn exec s

/-- The device with the instruction of a table word in the bundle that its next step fetches (log 9, DESIGN CHOICE). -/
def State.withFetchWord (s : State) (nbits w : Nat) : State := placeWord s nbits w

end Sys2Proof.Machine

end
end

