-- ==== Sys2Proof/Safety.lean ====
section
/-!
DEFINITION. What a safe run is, and the words in which claims speak of a change of state: what stayed, and where.
-/

namespace Sys2Proof.Machine

/-- The machine answers a next state. -/
def answersNext (o : Out) : Prop := ∃ t, o = .next t

/-- A run of n steps meets no fault and no refusal. -/
def runsSafely (n : Nat) (s : State) : Prop := ∃ t, Sys2Proof.core.run n s = .next t

/-- Every byte of memory reads as before, and every word is full or empty as before. -/
def sameMem (s t : State) : Prop :=
  (∀ a, readByte t a = readByte s a) ∧ (∀ w, isEmpty t w = isEmpty s w)

/-- Every byte of memory outside n bytes from a location reads as before. -/
def sameMemOutside (loc n : Nat) (s t : State) : Prop :=
  ∀ a, (a < loc ∨ loc + n ≤ a) → readByte t a = readByte s a

/-- Nothing of the device changed outside its cores and the bundle under way. -/
def sameDevice (s t : State) : Prop := { t with cores := s.cores, iss := s.iss } = s

/-- Every core but one is as before. -/
def sameOtherCores (c : Nat) (s t : State) : Prop := ∀ d, d ≠ c → coreAt t d = coreAt s d

/-- Every thread of a core but one is as before. -/
def sameOtherThreads (c u : Nat) (s t : State) : Prop := ∀ v, v ≠ u → thrAt t c v = thrAt s c v

/-- A state differs from another in the clocks of the stamping units alone (R29). -/
def clocked (s t : State) : Prop :=
  { t with cores := s.cores, clusters := s.clusters, dies := s.dies } = s ∧
    (∀ c, { coreAt t c with clock := (coreAt s c).clock } = coreAt s c) ∧ (∀ k, { cluAt t k with clock := (cluAt s k).clock } = cluAt s k) ∧
    ∀ d, { dieAt t d with clock := (dieAt s d).clock } = dieAt s d

/-- Only one core of the device changed, and nothing of the bundle under way. -/
def onlyCore (c : Nat) (s t : State) : Prop := { t with cores := s.cores } = s ∧ sameOtherCores c s t

/-- Only one thread of the device changed, and nothing of the bundle under way. -/
def onlyThread (c u : Nat) (s t : State) : Prop :=
  onlyCore c s t ∧ sameOtherThreads c u s t ∧ { coreAt t c with threads := (coreAt s c).threads } = coreAt s c

/-- A scalar operand read unsigned, and read signed. -/
def natX (s : State) (r : Reg) : Nat := (readX s r).toNat
def intX (s : State) (r : Reg) : Int := (readX s r).toInt

/-- A word's answer writes a vector register whose active lanes hold f and whose other lanes keep their value; of a shared register the
bytes of the active lanes are written (R134, R135). -/
def writesLanes (i : Instr) (s : State) (vd : Reg) (m : MaskNo) (w : Nat) (f : Nat → Nat) : Prop :=
  ∃ v, exec i s = .next (writeV s vd v (laneBytes w (readM s m))) ∧
    ∀ k < laneCount s w, lane v w k = if on (readM s m) k then f k else lane (oldV s vd) w k

/-- The same with flags: those of the active lanes (R136). -/
def writesLanesF (i : Instr) (s : State) (vd : Reg) (m : MaskNo) (w : Nat) (f : Nat → Nat × Flags) : Prop :=
  ∃ v fl, exec i s = .next (addFlags (writeV s vd v (laneBytes w (readM s m))) fl) ∧
    (∀ k < laneCount s w, lane v w k = if on (readM s m) k then (f k).1 else lane (oldV s vd) w k) ∧
    ∀ b < 5, fl.getLsbD b = (List.range (laneCount s w)).any (fun k => on (readM s m) k && (f k).2.getLsbD b)

/-- A word's answer writes a mask whose bits of active lanes hold f, whose bits of inactive lanes are zero, and whose bits above
the lanes stay (R140). -/
def writesMask (i : Instr) (s : State) (md m : MaskNo) (w : Nat) (f : Nat → Bool × Flags) : Prop :=
  ∃ v fl, exec i s = .next (addFlags (writeM s md v) fl) ∧
    (∀ k < 32, v.getLsbD k = if k < laneCount s w then on (readM s m) k && (f k).1 else (readM s md).getLsbD k) ∧
    ∀ b < 5, fl.getLsbD b = (List.range (laneCount s w)).any (fun k => on (readM s m) k && (f k).2.getLsbD b)

/-- A word's answer is the next state in which only its own thread changed, to one given. -/
def becomes (i : Instr) (s : State) (th : Thread) : Prop :=
  ∃ t, exec i s = .next t ∧ onlyThread s.iss.core s.iss.slot s t ∧ thrAt t s.iss.core s.iss.slot = th

/-- An event's answer is the next state in which only one thread changed, to one given. -/
def makes (i : Instr) (s : State) (c u : Nat) (th : Thread) : Prop :=
  ∃ t, exec i s = .next t ∧ onlyThread c u s t ∧ thrAt t c u = th

/-- The value at a node of the tree of R143, l levels above the lanes and with first lane i, and the flags of the combinations below it: an
absent child passes the other on. -/
def treeNode (f : Nat → Nat → Nat × Flags) (lanes : Nat → Option Nat) : Nat → Nat → Option Nat × Flags
  | 0, i => (lanes i, 0)
  | l + 1, i =>
    let a := treeNode f lanes l i
    let b := treeNode f lanes l (i + 2 ^ l)
    match a.1, b.1 with
    | some x, some y => (some (f x y).1, a.2 ||| b.2 ||| (f x y).2)
    | some x, none => (some x, a.2 ||| b.2)
    | none, y => (y, a.2 ||| b.2)

/-- A product of two values as a number of multiples of 2^lo, for finite values of no smaller exponent. -/
def productAt (lo : Int) : FVal × FVal → Int
  | (.fin n m e, .fin k p q) => scaled (n != k) (m * p) (e + q) lo
  | _ => 0

/-- What rescaling makes of an accumulator whose largest finite magnitude is M (R54). -/
def rescales (p q : Pa) : Prop :=
  ∃ M, (∀ k < 64, special32 (coef p k) = false → coef p k % 2 ^ 31 ≤ M) ∧
    (M = 0 ∨ ∃ k < 64, special32 (coef p k) = false ∧ coef p k % 2 ^ 31 = M) ∧
    (M = 0 ∨ 0x1F800000 ≤ M ∧ M < 0x5F800000 → q = p) ∧
    (∀ d : Int, (0x5F800000 ≤ M ∧ d = 64) ∨ (M ≠ 0 ∧ M < 0x1F800000 ∧ d = -64) →
      if (0 < d ∧ 32767 < p.x + d) ∨ (d < 0 ∧ p.x + d < -32768) then q = { p with o := true }
      else { q with c := p.c } = { p with x := p.x + d } ∧ ∀ k < 64, coef q k = scale32 (coef p k) (-d))

/-- Of a core only the threads and the queue of one unit changed: the special-function unit's, or the product-polynomial unit's. -/
def onlySfu (c : Nat) (s t : State) : Prop :=
  { coreAt t c with sfu := (coreAt s c).sfu, sfuStart := (coreAt s c).sfuStart, threads := (coreAt s c).threads } = coreAt s c
def onlyPpa (c : Nat) (s t : State) : Prop :=
  { coreAt t c with ppa := (coreAt s c).ppa, ppaStart := (coreAt s c).ppaStart, threads := (coreAt s c).threads } = coreAt s c

/-- An answer is a next state of which, but for the clocks of stamping units that what is carried brings stamps to (R29), p says all. -/
def nextClocked (i : Instr) (s : State) (p : State → Prop) : Prop := ∃ t t0, exec i s = .next t ∧ clocked t0 t ∧ p t0

/-- The same of an event in which only one thread changed, to one given. -/
def makesClocked (i : Instr) (s : State) (c u : Nat) (th : Thread) : Prop := nextClocked i s (fun t => onlyThread c u s t ∧ thrAt t c u = th)

/-- A word's answer is a park of its thread, and nothing else (R82, R242): inside is the bundle in whose effect it waits, if any, and kept
what that bundle has read. -/
def parksWith (i : Instr) (s : State) (ph : Phase) (r : Reason) (obj aux : W64) (inside : Option W64) (kept : Option Keep) : Prop :=
  ∃ t, exec i s = .next t ∧ t.iss = { s.iss with phase := ph } ∧ onlyThread s.iss.core s.iss.slot s { t with iss := s.iss } ∧
    thrAt t s.iss.core s.iss.slot = { me s with
      pc := s.iss.pc, slot := .parked, park := some ⟨r, (coreAt s s.iss.core).time, obj, aux⟩, inside := inside, keep := kept }

/-- The thread parks before its bundle issues, with no effect (R82, step 5). -/
def parks (i : Instr) (s : State) (r : Reason) (obj aux : W64) : Prop := parksWith i s .parked r obj aux (me s).inside (me s).keep

/-- What the bundle under way has read: the shared registers and the entries of its ports (R79, R81), and those that return if it has no
effect. -/
def readsOf (s : State) : Keep := ⟨(latched s).s, (latched s).y, s.iss.pops, s.iss.popped, ((me s).keep.map (·.back)).getD []⟩

/-- The thread waits in the effect of its bundle (R82). -/
def holds (i : Instr) (s : State) (r : Reason) (obj aux : W64) : Prop := parksWith i s .held r obj aux (some s.iss.word) (some (readsOf s))

/-- A word's answer is to send a unit its request and to wait ENGINE until it answers, from the state after its checks (R242; log 75, DESIGN
CHOICE): the thread's reply marks that the request is out. -/
def asksUnit (i : Instr) (s s1 : State) : Prop := exec i s = .next (holdMe (modMe s1 (fun th => { th with reply := some 0 })) .engine 0 6)

/-- The state in which the unit has answered the thread. -/
def unitHas (s : State) : State := modMe s (fun th => { th with reply := none })

/-- A thread of no twin, at level 0 or 1, without a mailbox reservation, that traps for a cause into its own handler. -/
def trapsItself (s : State) (c u cause : Nat) : Prop :=
  isTwin (thrAt s c u) = false ∧ (thrAt s c u).cmp = [] ∧ (thrAt s c u).resv = [] ∧ (thrAt s c u).tl < 2 ∧
    referred s (thrAt s c u).ctx cause = false

/-- The level registers that a trap writes, the word and the mode at the trap among them (R245). -/
def levelWritten (th : Thread) (word cause : Nat) (e pc : W64) : Level :=
  ⟨pc, BitVec.ofNat 64 ((if th.mode.getLsbD 0 then 2 ^ 9 else 0) + word * 2 ^ 8 + cause), e,
    BitVec.ofNat 64 (looseCount th * 2 ^ 56 + th.mode.toNat * 2 ^ 48 + th.m3.toNat * 2 ^ 32 + th.m2.toNat * 2 ^ 16 + th.m1.toNat)⟩

/-- The thread of a slot has entered its handler for a cause, and nothing else changed but the odd slot of a gang, which is SPLIT,
and the head of the special-function queue, which goes to the tail when it is the thread's (R154, R245). -/
def entersHandler (s t : State) (c u word cause : Nat) (e pc : W64) : Prop :=
  let th := thrAt s c u
  { t with cores := s.cores } = s ∧ sameOtherCores c s t ∧
  (∀ v, v ≠ u → thrAt t c v =
    if isGang th = true ∧ v = u + 1 then { thrAt s c v with slot := .split } else thrAt s c v) ∧
  { coreAt t c with threads := (coreAt s c).threads, sfu := (coreAt s c).sfu, sfuStart := (coreAt s c).sfuStart } = coreAt s c ∧
  (coreAt t c).sfu = (match (coreAt s c).sfu with
    | [] => []
    | q :: r => if q.uid = th.uid then r ++ [q] else q :: r) ∧
  thrAt t c u = { th with
    slot := readySlot th, tl := th.tl + 1, mode := th.mode &&& 0xE, park := none, reply := none, inside := none, keep := none
    pc := th.hbase + BitVec.ofNat 64 (64 * cause)
    l1 := if th.tl = 0 then levelWritten th word cause e pc else th.l1
    l2 := if th.tl = 0 then th.l2 else levelWritten th word cause e pc }

/-- The device as the words of a bundle w of a thread see it: the bundle under way, the pc already the next bundle's, what they read
latched (R79, R82). -/
def issued (s : State) (c u : Nat) (w : W64) : State :=
  let t := modThr (beginIssue s c u w (bits w 30 1 == 1)) c u (fun th => { th with pc := (thrAt s c u).pc + 8 })
  { t with iss := { t.iss with latch := some (coreAt t c) } }

/-- A core at a cycle in which nothing is due but the bundle of its owner, thread u: no count, port, lease or shootdown of it changes. -/
def quietCycle (s : State) (c u : Nat) : Prop :=
  c < 5120 ∧ clockRuns s c = true ∧ dueEvents s c sfuEnd ppaEnd = [] ∧ settleShoots (wakePorts (wakeAnswered (leaseTick s c) c) c) c = s ∧
    modCore s c (fun k => { k with wrote := [] }) = s ∧
    highHalf (coreAt s c) = false ∧ u = (coreAt s c).time % 16 ∧ eligible s c u = true

/-- A thread that has nothing outstanding or pending when it issues. -/
def idleThread (th : Thread) : Prop :=
  isTwin th = false ∧ isTrail th = false ∧ th.accs = [] ∧ th.inside = none ∧ th.keep = none ∧ th.late = [] ∧ th.traps = [] ∧ noMarks th = true

/-- Translating has filled a cache of one core at most (R332), started the exit of clusters in VIGIL (R355), and used free values. -/
def onlyCache (c : Nat) (s t : State) : Prop :=
  { t with cores := s.cores, clusters := s.clusters, free := s.free } = s ∧ sameOtherCores c s t ∧
    { coreAt t c with tlb := (coreAt s c).tlb } = coreAt s c ∧
    ∀ k, cluAt t k = cluAt s k ∨ ((cluAt s k).vigil = 1 ∧ cluAt t k = { cluAt s k with vigil := 2 })

/-- What the checks of an access of n bytes give, for a word that issues it: a trap of R155, R70 or R378, or of a peer device (R74), with the
address of the piece that failed, a wait for a page, the model's stop, or the issue that ok describes, with the access's number, its pieces
and leaves and the state after the checks. -/
def checked (i : Instr) (s : State) (op : AccOp) (ord : Order) (rt : Rights) (n : Nat) (items : List (Nat × W64 × Nat))
    (ok : Nat → List Lane → List LeafKey → State → Prop) : Prop :=
  match placeAll op ord rt n s items with
  | (.trap k x, s1) => onlyCache s.iss.core s s1 ∧ exec i s = .next (takeTrap s1 0 k x)
  | (.wait x, s1) => onlyCache s.iss.core s s1 ∧ exec i s = .next (parkMe s1 .pageMove x)
  | (.unbacked, _) => exec i s = .fault .unbackedWalk
  | (.ok ls ks, s1) => onlyCache s.iss.core s s1 ∧ ok (s.fresh + 1) ls ks { s1 with fresh := s.fresh + 1 }

/-- What follows once a word has performed what its access overlaps: while some of that cannot be performed yet, or the word must wait, its
release side not drained or an access before a loose store not performed, the thread parks (R161, R227, R229); else the issue that ok
describes. -/
def follows (i : Instr) (s s2 : State) (op : AccOp) (must : Bool) (n : Nat) (ls : List Lane) (ok : Prop) : Prop :=
  (overlapWaits s2 s.iss.core s.iss.slot op n ls = true → exec i s = waitOverlap s2 op n ls) ∧
  (overlapWaits s2 s.iss.core s.iss.slot op n ls = false ∧ must = true → exec i s = .next (parkMe s2 .access)) ∧
  (overlapWaits s2 s.iss.core s.iss.slot op n ls = false ∧ must = false → ok)

/-- The access that a word issues now. -/
def accessOf (s : State) (id : Nat) (stamp : W64) (op : AccOp) (ord : Order) (a : W64) (n : Nat) (dest : Dest) (ls : List Lane)
    (ks : List LeafKey) : Access :=
  { id := id, stamp := stamp, pc := s.iss.pc, op := op, order := ord, addr := a, lanes := ls, size := n, dest := dest, leafs := ks
    since := (dieAt s (dieOfCore s.iss.core)).ns }

/-- A word of a thread in no twin issues a read: it parks ACCESS while the thread's access slot or loose limit is taken (R89) or, loose, an
acquire side is open (R228); else earlier accesses to the same bytes are performed (R229), the access, stamped by its core (R29), stands last
among the thread's, and its destination is marked (R86). -/
def issuesRead (i : Instr) (s : State) (op : AccOp) (ord : Order) (rt : Rights) (n : Nat) (a : W64) (items : List (Nat × W64 × Nat)) (dest : Dest)
    (split : List Lane → List Lane) (size : Nat) : Prop :=
  (accessReady s ord = false → parks i s .access 0 0) ∧
  (accessReady s ord = true → checked i s op ord rt n items (fun id ls ks s1 =>
    let m := (stampCore s1 s.iss.core).1
    let s2 := forceOverlap (stampCore s1 s.iss.core).2 s.iss.core s.iss.slot op size (split ls)
    follows i s s2 op false size (split ls) (∃ t, exec i s = .next t ∧ onlyThread s.iss.core s.iss.slot s2 t ∧
      thrAt t s.iss.core s.iss.slot =
        setMark { me s2 with accs := (me s2).accs ++ [accessOf s2 id m op ord a size dest (split ls) ks] } dest)))

/-- A word of a thread in no twin issues a write that awaits a result or an acknowledgement: the same, stamped by its core (R171), after the
release side of its order code (R228). -/
def issuesWrite (i : Instr) (s : State) (op : AccOp) (ord : Order) (n : Nat) (a : W64) (items : List (Nat × W64 × Nat)) (dest : Dest)
    (split : List Lane → List Lane) (size : Nat) : Prop :=
  (accessReady s ord = false → parks i s .access 0 0) ∧
  (accessReady s ord = true → checked i s op ord { r := decide (dest ≠ .none), w := true } n items (fun id ls ks s1 =>
    let m := (stampCore s1 s.iss.core).1
    let s2 := releaseSide (forceOverlap (stampCore s1 s.iss.core).2 s.iss.core s.iss.slot op size (split ls)) ord
    follows i s s2 op (drainLeft s2 ord) size (split ls) (∃ t, exec i s = .next t ∧ onlyThread s.iss.core s.iss.slot s2 t ∧
      thrAt t s.iss.core s.iss.slot =
        setMark { me s2 with accs := (me s2).accs ++ [accessOf s2 id m op ord a size dest (split ls) ks] } dest)))

/-- A word of a thread in no twin issues a loose store: its pieces enter the core's loose buffer, 32 entries at most, behind those that are there
(R161); it parks ACCESS while they have no room, an acquire side of the thread is open, or an earlier access of it that is not loose is not
performed (R227, R228). -/
def issuesLoose (i : Instr) (s : State) (op : AccOp) (n : Nat) (a : W64) (items : List (Nat × W64 × Nat)) (split : List Lane → List Lane)
    (size : Nat) : Prop :=
  let room := (coreAt s s.iss.core).loose.length + items.length * (if size = n then 1 else 2) ≤ 32
  (¬ room ∨ acquiring (me s) = true → parks i s .access 0 0) ∧
  (room ∧ acquiring (me s) = false → checked i s op .loose { w := true } n items (fun id ls ks s1 =>
    let m := (stampCore s1 s.iss.core).1
    let s2 := forceOverlap (stampCore s1 s.iss.core).2 s.iss.core s.iss.slot op size (split ls)
    follows i s s2 op (unitUnperformed s2 s.iss.core s.iss.slot) size (split ls) (∃ t, exec i s = .next t ∧ onlyCore s.iss.core s2 t ∧
      coreAt t s.iss.core = { coreAt s2 s.iss.core with
        loose := (coreAt s2 s.iss.core).loose ++ (split ls).map (fun l => ⟨id, s.iss.slot, m, l.place, size, l.data, myCtx s2, (me s2).uid, a, ks⟩) })))

/-- The address of a word's memory operand (R155): the base and, scaled or in the long form, the offset, wrapped. -/
def cmAddress (s : State) (base : Reg) (off : Off) (n : Nat) : W64 :=
  BitVec.ofInt 64 ((natX s base : Int) + (match off with
    | .short o => o.toInt * n
    | .long o => o.toInt))
def crAddress (s : State) (ra : Reg) (ext : Ext) : W64 :=
  BitVec.ofInt 64 ((natX s ra : Int) + (match ext with
    | some e => e.toInt
    | none => 0))

/-- Only one cluster of the device changed, and nothing of the bundle under way. -/
def onlyCluster (k : Nat) (s t : State) : Prop := { t with clusters := s.clusters } = s ∧ ∀ j, j ≠ k → cluAt t j = cluAt s j

/-- Only the array of one cluster changed. -/
def onlyArr (k : Nat) (s t : State) : Prop := onlyCluster k s t ∧ { cluAt t k with arr := (cluAt s k).arr } = cluAt s k

/-- Only the name agent of one cluster changed. -/
def onlyAgent (k : Nat) (s t : State) : Prop := onlyCluster k s t ∧ { cluAt t k with agent := (cluAt s k).agent } = cluAt s k

/-- A thread whose tag a command has taken (R183). -/
def tagOpened (th : Thread) (tag : Nat) : Thread := { th with
  tags := th.tags &&& ~~~(1 <<< tag : W64), tagerr := th.tagerr &&& ~~~(1 <<< tag : W64), busyTags := th.busyTags ||| (1 <<< tag) }

/-- A tag of a thread completes (R183). -/
def tagCompletes (s t : State) (c u tag : Nat) (err : Bool) : Prop :=
  (thrAt t c u).tags = (thrAt s c u).tags ||| (1 <<< tag) ∧
  (thrAt t c u).tagerr = (if err then (thrAt s c u).tagerr ||| (1 <<< tag) else (thrAt s c u).tagerr) ∧
  (thrAt t c u).busyTags = (thrAt s c u).busyTags &&& ~~~(1 <<< tag : W64) ∧ (thrAt t c u).events.getLsbD 0 = true

/-- The message about a command of a thread that an engine of a cluster sends, held by its sender: stamp, thread word with the level of the
thread, bundle, operand (R183, R248). -/
def engineMsg (s : State) (k ctx core slot cause : Nat) (pc e : W64) : SupMsg :=
  { ctx := ctx, core := (ctxAt s ctx).supcore, words := [(stampClu s k).1,
    threadWord (if (thrAt s core slot).ctx = ctx then (thrAt s core slot).tl else 0) false cause slot core ctx, pc, e] }

/-- The supervisor of a context has no mailbox 0, so that a message to it is held (R248). -/
def noSupervisor (s : State) (ctx : Nat) : Prop := mboxById s (ctxAt s ctx).supcore 0 = none

/-- Nothing of the device is outstanding: no access, buffered store, copy, shootdown, swap or full/empty request. -/
def stillDevice (s : State) : Prop :=
  (∀ p ∈ s.cores, p.2.loose = [] ∧ ∀ q ∈ p.2.threads, q.2.accs = []) ∧ (∀ p ∈ s.clusters, ∀ q ∈ p.2.chans, q.2 = []) ∧
    s.shoots = [] ∧ s.swaps = [] ∧ s.feWait = []

/-- No translation cache of the device holds a leaf (R332). -/
def noCached (s : State) : Prop :=
  (∀ p ∈ s.cores, p.2.tlb = []) ∧ ∀ p ∈ s.clusters, ∀ q ∈ p.2.tlbs, q.2 = []

/-- No translation cache of the device holds a leaf of a set. -/
def noneCached (s : State) (inSet : LeafKey → Prop) : Prop :=
  (∀ c, ∀ e ∈ (coreAt s c).tlb, ¬ inSet e.key) ∧ ∀ k ch, ∀ e ∈ tget [] (cluAt s k).tlbs ch, ¬ inSet e.key

end Sys2Proof.Machine
end

