-- ==== Sys2Proof/Certificates/Slice0/Obligations.lean ====
section
/-!
DEFINITION. The statements about the model, each from the rules that its docstring names. A statement of what an instruction
does says what exec answers; the frame of a result is that of the operation that writes it (the section on operands).
-/

open Sys2Proof Sys2Proof.Machine

/-! ## Operands (chapter 4) -/

/-- R90, R91, R92 and R94: where a scalar result goes. x0 to x15 belong to the thread; s0 discards; s1 to s11 belong to the core;
a result in q0 to q3 is pushed through the port as 128 bits with zeros above. Of the writes of one cycle to a shared register that of the
highest-numbered thread persists. What is not named stays.

R90, R91, R94 and R135: where a vector result goes. v0 to v15 belong to the thread, their high halves in a gang to the odd slot; y0 to y11
belong to the core, and of them the bytes of the lanes written change, each but where a higher-numbered thread has written it in the same
cycle; a port takes 128 bits. What is not named stays.

R93 and R94: a mask result changes the mask it names and nothing else, in a gang its high half that of the odd slot; m0 keeps its ones.

R79, R91 and R92: both words of a bundle read what stood before either wrote: s0 reads zero, a port reads the low half of the
entry the bundle pops, and a result that the bundle has written to a register is not seen. -/
def Obligations.OperandsAndResults : Prop :=
  (∀ (s : State) (r : Reg) (v : W64),
      (r.toNat < 16 → onlyThread s.iss.core s.iss.slot s (writeX s r v) ∧
        { thrAt (writeX s r v) s.iss.core s.iss.slot with x := (me s).x } = me s ∧
        (∀ n, tget 0 (thrAt (writeX s r v) s.iss.core s.iss.slot).x n = if n = r.toNat then v else tget 0 (me s).x n)) ∧
      (r.toNat = 16 → writeX s r v = s) ∧
      (16 < r.toNat → r.toNat < 28 →
        let k := coreAt s s.iss.core
        let k' := coreAt (writeX s r v) s.iss.core
        onlyCore s.iss.core s (writeX s r v) ∧ { k' with s := k.s, wrote := k.wrote } = k ∧
        k'.wrote = k.wrote ++ [(r.toNat, s.iss.slot, 0xFF)] ∧ (∀ n, n + 16 ≠ r.toNat → tget 0 k'.s n = tget 0 k.s n) ∧
        ((∀ w ∈ k.wrote, w.1 = r.toNat → w.2.1 ≤ s.iss.slot) → tget 0 k'.s (r.toNat - 16) = v) ∧
        ((∃ w ∈ k.wrote, w.1 = r.toNat ∧ s.iss.slot < w.2.1 ∧ w.2.2 = 0xFF) → k'.s = k.s)) ∧
      (28 ≤ r.toNat → isTwin (me s) = false →
        writeX s r v = portPush s s.iss.core s.iss.slot (r.toNat - 28) (v.setWidth 128))) ∧
  (∀ (s : State) (r : Reg) (v : W256) (bytes : Nat),
      let t := writeV s r v bytes
      (r.toNat < 16 → ganged s = false → onlyThread s.iss.core s.iss.slot s t ∧
        { thrAt t s.iss.core s.iss.slot with v := (me s).v } = me s ∧
        (∀ n, tget 0 (thrAt t s.iss.core s.iss.slot).v n = if n = r.toNat then v.setWidth 128 else tget 0 (me s).v n)) ∧
      (r.toNat < 16 → ganged s = true → (thrAt s s.iss.core (s.iss.slot + 1)).slot = .ganghigh →
        sameDevice s t ∧ sameOtherCores s.iss.core s t ∧
        (∀ u, u ≠ s.iss.slot → u ≠ s.iss.slot + 1 → thrAt t s.iss.core u = thrAt s s.iss.core u) ∧
        { coreAt t s.iss.core with threads := (coreAt s s.iss.core).threads } = coreAt s s.iss.core ∧
        ∀ j < 2, { thrAt t s.iss.core (s.iss.slot + j) with v := (thrAt s s.iss.core (s.iss.slot + j)).v } = thrAt s s.iss.core (s.iss.slot + j) ∧
          ∀ n, tget 0 (thrAt t s.iss.core (s.iss.slot + j)).v n =
            if n = r.toNat then (v >>> (128 * j)).setWidth 128 else tget 0 (thrAt s s.iss.core (s.iss.slot + j)).v n) ∧
      (16 ≤ r.toNat → r.toNat < 28 →
        let k := coreAt s s.iss.core
        let k' := coreAt t s.iss.core
        onlyCore s.iss.core s t ∧ { k' with y := k.y, wrote := k.wrote } = k ∧
        k'.wrote = k.wrote ++ [(16 + r.toNat, s.iss.slot, bytes)] ∧ (∀ n, n + 16 ≠ r.toNat → tget 0 k'.y n = tget 0 k.y n) ∧
        ∀ i < 128, (tget 0 k'.y (r.toNat - 16)).getLsbD i =
          if bytes.testBit (i / 8) = true ∧ ∀ w ∈ k.wrote, w.1 = 16 + r.toNat → s.iss.slot < w.2.1 → w.2.2.testBit (i / 8) = false
          then v.getLsbD i else (tget 0 k.y (r.toNat - 16)).getLsbD i) ∧
      (28 ≤ r.toNat → isTwin (me s) = false → t = portPush s s.iss.core s.iss.slot (r.toNat - 28) (v.setWidth 128))) ∧
  (∀ (s : State) (m : MaskNo) (v : BitVec 32), ganged s = false →
      onlyThread s.iss.core s.iss.slot s (writeM s m v) ∧
      { thrAt (writeM s m v) s.iss.core s.iss.slot with m1 := (me s).m1, m2 := (me s).m2, m3 := (me s).m3 } = me s ∧
      (∀ n : MaskNo, maskOfThr (thrAt (writeM s m v) s.iss.core s.iss.slot) n =
        if n = m ∧ m ≠ 0 then v.setWidth 16 else maskOfThr (me s) n) ∧
      maskOfThr (me s) 0 = 0xFFFF) ∧
  (∀ (s : State) (m : MaskNo) (v : BitVec 32), ganged s = true →
      let c := s.iss.core
      let t := writeM s m v
      onlyCore c s t ∧ { coreAt t c with threads := (coreAt s c).threads } = coreAt s c ∧
      (∀ u, u ≠ s.iss.slot → u ≠ s.iss.slot + 1 → thrAt t c u = thrAt s c u) ∧
      ∀ j < 2, let th := thrAt s c (s.iss.slot + j)
        { thrAt t c (s.iss.slot + j) with m1 := th.m1, m2 := th.m2, m3 := th.m3 } = th ∧
        ∀ n : MaskNo, maskOfThr (thrAt t c (s.iss.slot + j)) n = if n = m ∧ m ≠ 0 then (v >>> (16 * j)).setWidth 16 else maskOfThr th n) ∧
  (∀ (s : State) (k : Core), s.iss.latch = some k →
      readX s 16 = 0 ∧
      (∀ r : Reg, r.toNat < 16 → readX s r = tget 0 (thrOf k s.iss.slot).x r.toNat) ∧
      (∀ r : Reg, 16 < r.toNat → r.toNat < 28 → readX s r = tget 0 k.s (r.toNat - 16)) ∧
      (∀ r : Reg, 28 ≤ r.toNat → readX s r = (popped s (r.toNat - 28)).setWidth 64) ∧
      (∀ (d r : Reg) (v : W64), d.toNat < 28 → readX (writeX s d v) r = readX s r) ∧
      (∀ (d r : Reg) (v : W256), d.toNat < 28 → readX (writeV s d v) r = readX s r ∧ readV (writeV s d v) r = readV s r) ∧
      (∀ (d r : Reg) (v : W64), d.toNat < 28 → readV (writeX s d v) r = readV s r))

/-! ## Scalar integers (chapter 5) -/

/-- R107: the results of the ALU instructions, as arithmetic of numbers wrapped to 64 bits.

R107 and R111: the shifts take the low six bits of their count; SAR brings in copies of the sign, ROL brings in what it
shifts out.

R111 and R112: the immediate forms with each immediate read as its row says, the constants, and the words that do nothing
(R79). -/
def Obligations.ScalarIntegerResults : Prop :=
  (∀ (s : State) (rd ra rb rc : Reg),
      exec (.add rd ra rb) s = .next (writeX s rd (BitVec.ofNat 64 (natX s ra + natX s rb))) ∧
      exec (.sub rd ra rb) s = .next (writeX s rd (BitVec.ofInt 64 ((natX s ra : Int) - natX s rb))) ∧
      (∃ v, exec (.and rd ra rb) s = .next (writeX s rd v) ∧
        ∀ i < 64, v.getLsbD i = ((readX s ra).getLsbD i && (readX s rb).getLsbD i)) ∧
      (∃ v, exec (.or rd ra rb) s = .next (writeX s rd v) ∧
        ∀ i < 64, v.getLsbD i = ((readX s ra).getLsbD i || (readX s rb).getLsbD i)) ∧
      (∃ v, exec (.xor rd ra rb) s = .next (writeX s rd v) ∧
        ∀ i < 64, v.getLsbD i = ((readX s ra).getLsbD i != (readX s rb).getLsbD i)) ∧
      exec (.min rd ra rb) s = .next (writeX s rd (BitVec.ofInt 64 (min (intX s ra) (intX s rb)))) ∧
      exec (.max rd ra rb) s = .next (writeX s rd (BitVec.ofInt 64 (max (intX s ra) (intX s rb)))) ∧
      exec (.minu rd ra rb) s = .next (writeX s rd (BitVec.ofNat 64 (min (natX s ra) (natX s rb)))) ∧
      exec (.maxu rd ra rb) s = .next (writeX s rd (BitVec.ofNat 64 (max (natX s ra) (natX s rb)))) ∧
      exec (.slt rd ra rb) s = .next (writeX s rd (if intX s ra < intX s rb then 1 else 0)) ∧
      exec (.sltu rd ra rb) s = .next (writeX s rd (if natX s ra < natX s rb then 1 else 0)) ∧
      exec (.seq rd ra rb) s = .next (writeX s rd (if natX s ra = natX s rb then 1 else 0)) ∧
      exec (.csel rd rc ra rb) s = .next (writeX s rd (if natX s rc = 0 then readX s rb else readX s ra))) ∧
  (∀ (s : State) (rd ra rb : Reg) (n : BitVec 6),
      exec (.shl rd ra rb) s = .next (writeX s rd (BitVec.ofNat 64 (natX s ra * 2 ^ (natX s rb % 64)))) ∧
      exec (.shr rd ra rb) s = .next (writeX s rd (BitVec.ofNat 64 (natX s ra / 2 ^ (natX s rb % 64)))) ∧
      exec (.sar rd ra rb) s = .next (writeX s rd (BitVec.ofInt 64 (intX s ra / 2 ^ (natX s rb % 64)))) ∧
      (∃ v, exec (.rol rd ra rb) s = .next (writeX s rd v) ∧
        ∀ i < 64, v.getLsbD ((i + natX s rb) % 64) = (readX s ra).getLsbD i) ∧
      exec (.shli rd ra n) s = .next (writeX s rd (BitVec.ofNat 64 (natX s ra * 2 ^ n.toNat))) ∧
      exec (.shri rd ra n) s = .next (writeX s rd (BitVec.ofNat 64 (natX s ra / 2 ^ n.toNat))) ∧
      exec (.sari rd ra n) s = .next (writeX s rd (BitVec.ofInt 64 (intX s ra / 2 ^ n.toNat)))) ∧
  (∀ (s : State) (rd ra : Reg) (k : BitVec 16) (h : BitVec 2) (e : BitVec 32),
      exec (.addi rd ra k) s = .next (writeX s rd (BitVec.ofInt 64 (intX s ra + k.toInt))) ∧
      (∃ v, exec (.andi rd ra k) s = .next (writeX s rd v) ∧
        ∀ i < 64, v.getLsbD i = ((readX s ra).getLsbD i && k.getLsbD (min i 15))) ∧
      (∃ v, exec (.ori rd ra k) s = .next (writeX s rd v) ∧
        ∀ i < 64, v.getLsbD i = ((readX s ra).getLsbD i || (decide (i < 16) && k.getLsbD i))) ∧
      (∃ v, exec (.xori rd ra k) s = .next (writeX s rd v) ∧
        ∀ i < 64, v.getLsbD i = ((readX s ra).getLsbD i != (decide (i < 16) && k.getLsbD i))) ∧
      exec (.slti rd ra k) s = .next (writeX s rd (if intX s ra < k.toInt then 1 else 0)) ∧
      exec (.movi rd k) s = .next (writeX s rd (BitVec.ofInt 64 k.toInt)) ∧
      (∃ v, exec (.movhi rd h k) s = .next (writeX s rd v) ∧ ∀ i < 64, v.getLsbD i =
        if i / 16 = h.toNat then k.getLsbD (i % 16) else (readX s rd).getLsbD i) ∧
      exec (.movl rd e) s = .next (writeX s rd (BitVec.ofInt 64 e.toInt)) ∧
      exec (.movlU rd e) s = .next (writeX s rd (BitVec.ofNat 64 e.toNat)) ∧
      exec (.movlH rd e) s = .next (writeX s rd (BitVec.ofNat 64 (e.toNat * 2 ^ 32 + natX s rd % 2 ^ 32))) ∧
      exec .nop s = .next s ∧ exec .anop s = .next s)

/-- R108 and R109: products by their halves; a division by zero traps DIV0 with the dividend in $eaddr; any other division
gives the quotient truncated toward zero or the remainder, which wrap to 64 bits (so -2^63 / -1 gives -2^63 and remainder 0),
and the thread is busy for 24 cycles of its core.

R110: counts of leading and trailing zeros and of ones, the extraction and insertion of a field that pos = f[5:0] and
len = min(f[14:8], 64) give, and the absolute value, which wraps. -/
def Obligations.ProductsDivisionsAndBits : Prop :=
  (∀ (s : State) (rd ra rb : Reg),
      exec (.mul rd ra rb) s = .next (writeX s rd (BitVec.ofNat 64 (natX s ra * natX s rb))) ∧
      exec (.mulh rd ra rb) s = .next (writeX s rd (BitVec.ofInt 64 (intX s ra * intX s rb / 2 ^ 64))) ∧
      exec (.mulhu rd ra rb) s = .next (writeX s rd (BitVec.ofNat 64 (natX s ra * natX s rb / 2 ^ 64))) ∧
      (readX s rb = 0 → ∀ i ∈ [Instr.div rd ra rb, .divu rd ra rb, .rem rd ra rb, .remu rd ra rb],
        exec i s = .next (takeTrap s 1 0x0D (readX s ra))) ∧
      (readX s rb ≠ 0 →
        exec (.div rd ra rb) s = .next (busy (writeX s rd (BitVec.ofInt 64 ((intX s ra).tdiv (intX s rb)))) 24 0) ∧
        exec (.rem rd ra rb) s = .next (busy (writeX s rd (BitVec.ofInt 64 ((intX s ra).tmod (intX s rb)))) 24 0) ∧
        exec (.divu rd ra rb) s = .next (busy (writeX s rd (BitVec.ofNat 64 (natX s ra / natX s rb))) 24 0) ∧
        exec (.remu rd ra rb) s = .next (busy (writeX s rd (BitVec.ofNat 64 (natX s ra % natX s rb))) 24 0))) ∧
  (∀ (s : State) (rd ra rb : Reg),
      (∃ n ≤ 64, exec (.clz rd ra) s = .next (writeX s rd (BitVec.ofNat 64 n)) ∧
        (∀ i < n, (readX s ra).getLsbD (63 - i) = false) ∧ (n < 64 → (readX s ra).getLsbD (63 - n) = true)) ∧
      (∃ n ≤ 64, exec (.ctz rd ra) s = .next (writeX s rd (BitVec.ofNat 64 n)) ∧
        (∀ i < n, (readX s ra).getLsbD i = false) ∧ (n < 64 → (readX s ra).getLsbD n = true)) ∧
      exec (.popc rd ra) s = .next (writeX s rd (BitVec.ofNat 64 ((List.range 64).countP (readX s ra).getLsbD))) ∧
      (∃ v, exec (.ext rd ra rb) s = .next (writeX s rd v) ∧ ∀ i < 64, v.getLsbD i =
        (decide (i < min (natX s rb / 256 % 128) 64) && (readX s ra).getLsbD (natX s rb % 64 + i))) ∧
      (∃ v, exec (.ins rd ra rb) s = .next (writeX s rd v) ∧ ∀ i < 64, v.getLsbD i =
        if natX s rb % 64 ≤ i ∧ i < natX s rb % 64 + min (natX s rb / 256 % 128) 64
        then (readX s ra).getLsbD (i - natX s rb % 64) else (readX s rd).getLsbD i) ∧
      exec (.abs rd ra) s = .next (writeX s rd (BitVec.ofInt 64 (intX s ra).natAbs)))

/-! ## Floating point (chapters 2 and 5) -/

/-- R35 to R37 and R39: every code of every binary8 format, converted to its value and back, is itself, without a flag, whatever
SAT.

R41 to R43: the value of a finite code of FP32, FP16 or BF16, rounded in any mode, is that code, without a flag.

R42 and R43: rounding toward zero never raises the magnitude, RDN never lies above the exact value and RUP never below it; a
result that differs from the exact value has NX, one that does not has no flag. No finite value of the format lies nearer in the mode's
sense: to nearest, none is nearer, and of two that are as near the result is the one whose last bit is 0; toward zero none that does not
exceed the exact magnitude exceeds that of the result; RDN and RUP likewise. The exact value is m × 2^e with its sign, and the result is
finite. -/
def Obligations.RoundingIsExactAndDirected : Prop :=
  (∀ (sgn inf sat : Bool) (p c : Nat), 1 ≤ p → p ≤ 7 → c < 256 →
      b8Encode sgn inf p sat (b8Decode sgn inf p c) = (c, 0)) ∧
  (∀ (f : Ieee) (mode : Mode) (c : Nat) (n : Bool) (m : Nat) (e : Int),
      f ∈ [fp32, fp16, bf16] → c < 2 ^ f.width → f.decode c = .fin n m e → f.round mode n m e = (c, 0)) ∧
  (∀ (f : Ieee) (mode : Mode) (n : Bool) (m : Nat) (e : Int) (n' : Bool) (m' : Nat) (e' : Int),
      f ∈ [fp32, fp16, bf16] → m ≠ 0 → f.decode (f.round mode n m e).1 = .fin n' m' e' →
      n' = n ∧
      (mode = 1 → scaled false m' e' (min e e') ≤ scaled false m e (min e e')) ∧
      (mode = 2 → scaled n' m' e' (min e e') ≤ scaled n m e (min e e')) ∧
      (mode = 3 → scaled n m e (min e e') ≤ scaled n' m' e' (min e e')) ∧
      (scaled n' m' e' (min e e') ≠ scaled n m e (min e e') → (f.round mode n m e).2 &&& fNX = fNX) ∧
      (scaled n' m' e' (min e e') = scaled n m e (min e e') → (f.round mode n m e).2 = 0) ∧
      ∀ (c : Nat) (k : Bool) (p : Nat) (q : Int), c < 2 ^ f.width → f.decode c = .fin k p q →
        let lo := min e (min e' q)
        let x := scaled n m e lo
        let r := scaled n' m' e' lo
        let v := scaled k p q lo
        (mode = 0 → (r - x).natAbs ≤ (v - x).natAbs ∧ ((r - x).natAbs = (v - x).natAbs → v ≠ r → (f.round mode n m e).1 % 2 = 0)) ∧
        (mode = 1 → v.natAbs ≤ x.natAbs → v.natAbs ≤ r.natAbs) ∧ (mode = 2 → v ≤ x → v ≤ r) ∧ (mode = 3 → x ≤ v → r ≤ v))

/-- R113, R114 and R41: FADD, FSUB, FMUL and FFMA write a code of their format, zero-extended. A NaN operand gives the canonical
NaN, with NV when one signals; the sum of infinities of opposite signs, and 0 × ∞, give it with NV; any other infinite product or sum is
the infinity of its sign, without a flag; finite operands give the exact result rounded once in the dynamic mode, and an exact zero sum takes the common sign of two zeros, else + or, under RDN, -.

R114: FMIN and FMAX return an operand, a number rather than a NaN, -0 below +0; the comparisons give 1 or 0, no NaN compares,
FCMPEQ sets NV only for a signalling NaN, the others for any; FSGN gives the magnitude of a with the sign of its kind. -/
def Obligations.ScalarFloatResults : Prop :=
  (∀ (s : State) (rd ra rb rc : Reg) (f : FForm) (sub : Bool),
      let F := formIeee f
      let a := F.decode (natX s ra % 2 ^ F.width)
      let b := F.decode (natX s rb % 2 ^ F.width)
      let c := F.decode (natX s rc % 2 ^ F.width)
      (∃ (v : Nat) (fl : Flags),
        exec (if sub then .fsub rd ra rb f else .fadd rd ra rb f) s = .next (addFlags (writeX s rd (BitVec.ofNat 64 v)) fl) ∧
        (a.isNan ∨ b.isNan → v = F.nan ∧ fl = if a.isSig ∨ b.isSig then fNV else 0) ∧
        (∀ x y, a = .inf x → b = .inf y → if x = (y != sub) then v = F.inf x ∧ fl = 0 else v = F.nan ∧ fl = fNV) ∧
        (∀ x k p q, a = .inf x → b = .fin k p q → v = F.inf x ∧ fl = 0) ∧
        (∀ y n m e, a = .fin n m e → b = .inf y → v = F.inf (y != sub) ∧ fl = 0) ∧
        (∀ n m e k p q, a = .fin n m e → b = .fin k p q →
          let lo := min e q
          let z := scaled n m e lo + scaled (k != sub) p q lo
          if z = 0 then
            v = F.sign (if m = 0 ∧ p = 0 ∧ n = (k != sub) then n else decide ((was s).rm = 2)) ∧ fl = 0
          else (v, fl) = F.round (was s).rm (decide (z < 0)) z.natAbs lo)) ∧
      (∃ (v : Nat) (fl : Flags), exec (.fmul rd ra rb f) s = .next (addFlags (writeX s rd (BitVec.ofNat 64 v)) fl) ∧
        (a.isNan ∨ b.isNan → v = F.nan ∧ fl = if a.isSig ∨ b.isSig then fNV else 0) ∧
        (zeroInf a b → v = F.nan ∧ fl = fNV) ∧
        (∀ x, a = .inf x ∨ b = .inf x → ¬ a.isNan → ¬ b.isNan → ¬ zeroInf a b → v = F.inf (a.neg != b.neg) ∧ fl = 0) ∧
        (∀ n m e k p q, a = .fin n m e → b = .fin k p q → (v, fl) = F.round (was s).rm (n != k) (m * p) (e + q))) ∧
      (∃ (v : Nat) (fl : Flags), exec (.ffma rd ra rb rc f) s = .next (addFlags (writeX s rd (BitVec.ofNat 64 v)) fl) ∧
        (zeroInf a b → v = F.nan ∧ fl = fNV) ∧
        (¬ zeroInf a b → a.isNan ∨ b.isNan ∨ c.isNan → v = F.nan ∧ fl = if a.isSig ∨ b.isSig ∨ c.isSig then fNV else 0) ∧
        (∀ k, (∃ x, a = .inf x ∨ b = .inf x) → ¬ zeroInf a b → ¬ a.isNan → ¬ b.isNan → c = .inf k →
          if k = (a.neg != b.neg) then v = F.inf k ∧ fl = 0 else v = F.nan ∧ fl = fNV) ∧
        (∀ x y w, (∃ x, a = .inf x ∨ b = .inf x) → ¬ zeroInf a b → ¬ a.isNan → ¬ b.isNan → c = .fin x y w → v = F.inf (a.neg != b.neg) ∧ fl = 0) ∧
        (∀ n m e k p q x, a = .fin n m e → b = .fin k p q → c = .inf x → v = F.inf x ∧ fl = 0) ∧
        (∀ n m e k p q x y w, a = .fin n m e → b = .fin k p q → c = .fin x y w →
          let lo := min (e + q) w
          let z := scaled (n != k) (m * p) (e + q) lo + scaled x y w lo
          if z = 0 then
            v = F.sign (if m * p = 0 ∧ y = 0 ∧ (n != k) = x then x else decide ((was s).rm = 2)) ∧ fl = 0
          else (v, fl) = F.round (was s).rm (decide (z < 0)) z.natAbs lo))) ∧
  (∀ (s : State) (rd ra rb : Reg) (f : FForm) (kind : BitVec 2),
      let F := formIeee f
      let x := natX s ra % 2 ^ F.width
      let y := natX s rb % 2 ^ F.width
      let a := F.decode x
      let b := F.decode y
      let nv : Flags := if a.isSig ∨ b.isSig then fNV else 0
      (∃ v, exec (.fmin rd ra rb f) s = .next (addFlags (writeX s rd (BitVec.ofNat 64 v)) nv) ∧ (v = x ∨ v = y ∨ v = F.nan) ∧
        (a.isNan ∧ b.isNan → v = F.nan) ∧ (a.isNan ∧ ¬ b.isNan → v = y) ∧ (¬ a.isNan ∧ b.isNan → v = x) ∧
        (¬ a.isNan → ¬ b.isNan → (a.lt b → v = x) ∧ (b.lt a → v = y)) ∧
        (a.isZero ∧ b.isZero → v = F.sign (a.neg || b.neg))) ∧
      (∃ v, exec (.fmax rd ra rb f) s = .next (addFlags (writeX s rd (BitVec.ofNat 64 v)) nv) ∧ (v = x ∨ v = y ∨ v = F.nan) ∧
        (a.isNan ∧ b.isNan → v = F.nan) ∧ (a.isNan ∧ ¬ b.isNan → v = y) ∧ (¬ a.isNan ∧ b.isNan → v = x) ∧
        (¬ a.isNan → ¬ b.isNan → (a.lt b → v = y) ∧ (b.lt a → v = x)) ∧
        (a.isZero ∧ b.isZero → v = F.sign (a.neg && b.neg))) ∧
      (exec (.fcmpeq rd ra rb f) s = .next (addFlags (writeX s rd (if a.eq b then 1 else 0)) nv)) ∧
      (a.isNan ∨ b.isNan → a.eq b = false ∧
        exec (.fcmplt rd ra rb f) s = .next (addFlags (writeX s rd 0) fNV) ∧
        exec (.fcmple rd ra rb f) s = .next (addFlags (writeX s rd 0) fNV)) ∧
      (¬ a.isNan → ¬ b.isNan →
        exec (.fcmplt rd ra rb f) s = .next (addFlags (writeX s rd (if a.lt b then 1 else 0)) 0) ∧
        exec (.fcmple rd ra rb f) s = .next (addFlags (writeX s rd (if b.lt a then 0 else 1)) 0)) ∧
      (∃ v, exec (.fsgn rd ra rb f kind) s = .next (addFlags (writeX s rd (BitVec.ofNat 64 v)) (if a.isSig then fNV else 0)) ∧
        (a.isNan → v = F.nan) ∧
        (¬ a.isNan → v % 2 ^ (F.width - 1) = x % 2 ^ (F.width - 1) ∧ v / 2 ^ (F.width - 1) =
          match kind.toNat with
          | 0 => y / 2 ^ (F.width - 1)
          | 1 => 1 - y / 2 ^ (F.width - 1)
          | _ => (x / 2 ^ (F.width - 1) + y / 2 ^ (F.width - 1)) % 2)))

/-- R115, R116 and R43: FCVT reads its source at the width of its format. A NaN converts to integer 0 and a value out of range to the
nearest limit, both with NV alone; a value in range to an integer rounds in the dynamic mode and sets NX when inexact; a NaN converts
to the canonical NaN of FP32, FP16 or BF16, with NV when it signals, an infinity to that of its sign, without a flag; a finite value to
such a format is rounded once in the dynamic mode; binary8
destinations follow R39. Integer results are sign-extended for INT formats, others zero-extended. -/
def Obligations.ScalarConversions : Prop :=
  ∀ (s : State) (rd ra : Reg) (d f : Fmt) (sat : Bool),
    let v := fmtValue f (natX s ra % 2 ^ f.width)
    ∃ (c : Nat) (fl : Flags),
      exec (.fcvt rd ra d f sat) s =
        .next (addFlags (writeX s rd (if d.isSInt then (BitVec.ofNat d.width c).signExtend 64 else BitVec.ofNat 64 c)) fl) ∧
      (d.isInt ∨ d = .uint64 → v.isNan → c = 0 ∧ fl = fNV) ∧
      (d.isInt ∨ d = .uint64 → ∀ n, v = .inf n → c = wrapTo d.width (if n then fmtMin d else fmtMax d) ∧ fl = fNV) ∧
      (d.isInt ∨ d = .uint64 → ∀ n m e, v = .fin n m e →
        let i := (toInt (was s).rm n m e).1
        (i < fmtMin d → c = wrapTo d.width (fmtMin d) ∧ fl = fNV) ∧
        (fmtMax d < i → c = wrapTo d.width (fmtMax d) ∧ fl = fNV) ∧
        (fmtMin d ≤ i → i ≤ fmtMax d → c = wrapTo d.width i ∧ fl = if (toInt (was s).rm n m e).2 then fNX else 0)) ∧
      (d ∈ [Fmt.fp32, .fp16, .bf16] → (v.isNan → c = (fmtIeee d).nan ∧ fl = if v.isSig then fNV else 0) ∧
        (∀ n, v = .inf n → c = (fmtIeee d).inf n ∧ fl = 0) ∧
        ∀ n m e, v = .fin n m e → (c, fl) = (fmtIeee d).round (was s).rm n m e) ∧
      (∀ g i p, d = .b8 g i p → (c, fl) = b8Encode g i p.toNat sat v)

/-! ## Vectors (chapter 6) -/

/-- R134 and R137: the integer vector instructions, lane by lane: sums, differences and products wrap to the lane, VMULH gives the
high half, VSADD saturates, VABS of the most negative value is that value. Inactive lanes keep the old value (zero in a port,
R135), and no flag is raised.

R134 and R138: the logical and shift instructions, lane by lane; a lane shift takes the low bits of its own lane's count. -/
def Obligations.VectorIntegerAndLogicLanes : Prop :=
  (∀ (s : State) (vd va vb : Reg) (m : MaskNo) (fmt : Fmt), fmt.isInt →
      let w := fmt.width
      let a := fun k => laneInt fmt (lane (readV s va) w k)
      let b := fun k => laneInt fmt (lane (readV s vb) w k)
      writesLanes (.vadd vd va vb m fmt) s vd m w (fun k => wrapTo w (a k + b k)) ∧
      writesLanes (.vsub vd va vb m fmt) s vd m w (fun k => wrapTo w (a k - b k)) ∧
      writesLanes (.vmul vd va vb m fmt) s vd m w (fun k => wrapTo w (a k * b k)) ∧
      writesLanes (.vmulh vd va vb m fmt) s vd m w (fun k => wrapTo w (a k * b k / 2 ^ w)) ∧
      writesLanes (.vmin vd va vb m fmt) s vd m w (fun k => wrapTo w (min (a k) (b k))) ∧
      writesLanes (.vmax vd va vb m fmt) s vd m w (fun k => wrapTo w (max (a k) (b k))) ∧
      writesLanes (.vsadd vd va vb m fmt) s vd m w (fun k => wrapTo w (max (fmtMin fmt) (min (fmtMax fmt) (a k + b k)))) ∧
      (fmt.isSInt → writesLanes (.vabs vd va m fmt) s vd m w (fun k => wrapTo w ((a k).natAbs : Int)))) ∧
  (∀ (s : State) (vd va vb : Reg) (m : MaskNo) (fmt : Fmt), fmt.isInt →
      let w := fmt.width
      let a := fun k => lane (readV s va) w k
      let b := fun k => lane (readV s vb) w k
      writesLanes (.vand vd va vb m fmt) s vd m w (fun k => a k &&& b k) ∧
      writesLanes (.vor vd va vb m fmt) s vd m w (fun k => a k ||| b k) ∧
      writesLanes (.vxor vd va vb m fmt) s vd m w (fun k => a k ^^^ b k) ∧
      writesLanes (.vandn vd va vb m fmt) s vd m w (fun k => a k - (a k &&& b k)) ∧
      writesLanes (.vnot vd va m fmt) s vd m w (fun k => 2 ^ w - 1 - a k) ∧
      writesLanes (.vshl vd va vb m fmt) s vd m w (fun k => a k * 2 ^ (b k % w) % 2 ^ w) ∧
      writesLanes (.vshr vd va vb m fmt) s vd m w (fun k => a k / 2 ^ (b k % w)) ∧
      writesLanes (.vsar vd va vb m fmt) s vd m w (fun k => wrapTo w (intOf true w (a k) / 2 ^ (b k % w))))

/-- R136 and R139: the floating vector instructions: each lane is the scalar operation on that lane in the dynamic mode, and the
flags are those of the active lanes.

R140: a comparison writes a mask: bits of lanes are the result where the mask selects the lane, else zero; bits above the lanes
stay. Signed comparisons read signed lanes, .U ones unsigned, and the floating ones are those of R114. -/
def Obligations.VectorFloatLanesAndComparisons : Prop :=
  (∀ (s : State) (vd va vb : Reg) (m : MaskNo) (fmt : Fmt), fmt.isFloat →
      let F := fmtIeee fmt
      let w := fmt.width
      let a := fun k => lane (readV s va) w k
      let b := fun k => lane (readV s vb) w k
      let d := fun k => lane (readV s vd) w k
      writesLanesF (.vfadd vd va vb m fmt) s vd m w (fun k => fadd F (was s).rm (a k) (b k)) ∧
      writesLanesF (.vfsub vd va vb m fmt) s vd m w (fun k => fsub F (was s).rm (a k) (b k)) ∧
      writesLanesF (.vfmul vd va vb m fmt) s vd m w (fun k => fmul F (was s).rm (a k) (b k)) ∧
      writesLanesF (.vfma vd va vb m fmt) s vd m w (fun k => ffma F (was s).rm (a k) (b k) (d k)) ∧
      writesLanesF (.vfmin vd va vb m fmt) s vd m w (fun k => minMax F false (a k) (b k)) ∧
      writesLanesF (.vfmax vd va vb m fmt) s vd m w (fun k => minMax F true (a k) (b k)) ∧
      writesLanesF (.vfabs vd va m fmt) s vd m w (fun k => if (F.decode (a k)).isNan
        then (F.nan, if (F.decode (a k)).isSig then fNV else 0) else (a k % 2 ^ (w - 1), 0)) ∧
      writesLanesF (.vfneg vd va m fmt) s vd m w (fun k => if (F.decode (a k)).isNan
        then (F.nan, if (F.decode (a k)).isSig then fNV else 0) else ((a k + 2 ^ (w - 1)) % 2 ^ w, 0))) ∧
  (∀ (s : State) (md : MaskNo) (va vb : Reg) (m : MaskNo) (fmt : Fmt),
      let F := fmtIeee fmt
      let w := fmt.width
      let a := fun k => lane (readV s va) w k
      let b := fun k => lane (readV s vb) w k
      (fmt.isInt →
        writesMask (.vcmpEq md va vb m fmt) s md m w (fun k => (decide (a k = b k), 0)) ∧
        writesMask (.vcmpNe md va vb m fmt) s md m w (fun k => (decide (a k ≠ b k), 0)) ∧
        writesMask (.vcmpLtu md va vb m fmt) s md m w (fun k => (decide (a k < b k), 0)) ∧
        writesMask (.vcmpLeu md va vb m fmt) s md m w (fun k => (decide (a k ≤ b k), 0))) ∧
      (fmt.isSInt →
        writesMask (.vcmpLt md va vb m fmt) s md m w (fun k => (decide (laneInt fmt (a k) < laneInt fmt (b k)), 0)) ∧
        writesMask (.vcmpLe md va vb m fmt) s md m w (fun k => (decide (laneInt fmt (a k) ≤ laneInt fmt (b k)), 0))) ∧
      (fmt.isFloat →
        writesMask (.vcmpEq md va vb m fmt) s md m w (fun k => fcmpEq F (a k) (b k)) ∧
        writesMask (.vcmpNe md va vb m fmt) s md m w (fun k => (!(fcmpEq F (a k) (b k)).1, (fcmpEq F (a k) (b k)).2)) ∧
        writesMask (.vcmpFlt md va vb m fmt) s md m w (fun k => fcmpLess F false (a k) (b k)) ∧
        writesMask (.vcmpFle md va vb m fmt) s md m w (fun k => fcmpLess F true (a k) (b k))))

/-- R141 and R148: where each lane of a permutation comes from. VSEL, VCOMP and VEXPD write every lane; the others write the active
lanes.

R144 to R146: VCVT converts lane by lane. At equal widths and when widening, the source lanes are those of part q; when narrowing,
the destination lanes are those of part q and the others stay. Integers convert exactly, then wrap, or clamp under SAT; every
other conversion is that of R116. -/
def Obligations.VectorConversionsAndPermutations : Prop :=
  (∀ (s : State) (vd va vb : Reg) (xa : Reg) (m : MaskNo) (fmt : Fmt) (j : BitVec 5),
      let w := fmt.width
      let n := laneCount s w
      let a := fun k => lane (readV s va) w k
      let b := fun k => lane (readV s vb) w k
      (∃ v, exec (.vsel vd va vb m fmt) s = .next (writeV s vd v) ∧
        ∀ k < n, lane v w k = if on (readM s m) k then a k else b k) ∧
      writesLanes (.vsplat vd xa m fmt) s vd m w (fun _ => natX s xa % 2 ^ w) ∧
      writesLanes (.vperm vd va vb m fmt) s vd m w (fun k => if b k < n then a (b k) else 0) ∧
      (∃ v, exec (.vcomp vd va m fmt) s = .next (writeV s vd v) ∧
        (∀ k < n, on (readM s m) k → lane v w ((List.range k).countP (on (readM s m))) = a k) ∧
        (∀ k < n, (List.range n).countP (on (readM s m)) ≤ k → lane v w k = 0)) ∧
      (∃ v, exec (.vexpd vd va m fmt) s = .next (writeV s vd v) ∧
        ∀ k < n, lane v w k = if on (readM s m) k then a ((List.range k).countP (on (readM s m))) else 0) ∧
      writesLanes (.vshuf vd va vb m fmt) s vd m w (fun k => if k % 2 = 0 then a (k / 2) else b (k / 2)) ∧
      writesLanes (.vrot vd va xa m fmt) s vd m w (fun k => a ((k + (n - natX s xa % n)) % n)) ∧
      writesLanes (.vrev vd va m fmt) s vd m w (fun k => a (n - 1 - k)) ∧
      exec (.vgetl xa va j fmt) s = .next (writeX s xa (if fmt.isSInt then (BitVec.ofNat w (a j.toNat)).signExtend 64
        else BitVec.ofNat 64 (a j.toNat))) ∧
      (j.toNat < n → ∃ v, exec (.vsetl vd xa j fmt) s = .next (writeV s vd v (laneBytes w (1 <<< j.toNat))) ∧
        ∀ k < n, lane v w k = if k = j.toNat then natX s xa % 2 ^ w else lane (oldV s vd) w k)) ∧
  (∀ (s : State) (vd va : Reg) (sat : Bool) (p : Fmt) (m : MaskNo) (fmt : Fmt) (isSrc : Bool) (q : BitVec 2),
      let src := if isSrc then fmt else p
      let dst := if isSrc then p else fmt
      let a := fun k => lane (readV s va) src.width k
      let cv := fun k => if dst.isInt && src.isInt
        then (wrapTo dst.width (if sat then max (fmtMin dst) (min (fmtMax dst) (laneInt src (a k))) else laneInt src (a k)), (0 : Flags))
        else convert (was s).rm sat dst src (a k)
      ∃ (v : W256) (fl : Flags) (act : BitVec 32),
        exec (.vcvt vd va sat p m fmt isSrc q) s = .next (addFlags (writeV s vd v (laneBytes dst.width act)) fl) ∧
        (∀ k < 32, act.getLsbD k = (decide (k < laneCount s dst.width) && on (readM s m) k &&
          (decide (src.width ≤ dst.width) || decide (k / laneCount s src.width = q.toNat)))) ∧
        (src.width ≤ dst.width → ∀ k < laneCount s dst.width, lane v dst.width k =
          if on (readM s m) k then (cv (q.toNat * laneCount s dst.width + k)).1 % 2 ^ dst.width else lane (oldV s vd) dst.width k) ∧
        (dst.width < src.width → ∀ k < laneCount s dst.width, lane v dst.width k =
          if on (readM s m) k ∧ k / laneCount s src.width = q.toNat
          then (cv (k % laneCount s src.width)).1 % 2 ^ dst.width else lane (oldV s vd) dst.width k) ∧
        ∀ b < 5, fl.getLsbD b = (List.range (laneCount s dst.width)).any (fun k => on (readM s m) k &&
          (if src.width ≤ dst.width then (cv (q.toNat * laneCount s dst.width + k)).2.getLsbD b
          else decide (k / laneCount s src.width = q.toNat) && (cv (k % laneCount s src.width)).2.getLsbD b)))

/-- R142 and R143: a reduction writes its result to lane 0 and zeros elsewhere. Integer sums wrap; maxima and minima are those of the
active lanes, and the limit of the format when none is active; a floating reduction of one active lane gives that lane, and the
four FP32 lanes of a thread that is not ganged add as (0 + 1) + (2 + 3). A floating reduction of any lanes, of either width and in a gang, is
that of the tree, with the flags of its combinations; with no active lane it gives +0, -∞ or +∞.

R147: VDOT4 adds four products to each 32-bit lane; VDOTA adds the products of the selected byte lanes to lane 0 and leaves the
other lanes. Integer sums wrap; binary8 sums round once. -/
def Obligations.VectorReductionsAndDotProducts : Prop :=
  (∀ (s : State) (vd va : Reg) (m : MaskNo) (fmt : Fmt),
      let w := fmt.width
      let act := (List.range (laneCount s w)).filter (on (readM s m))
      let a := fun k => lane (readV s va) w k
      (fmt.isInt →
        exec (.vredadd vd va m fmt) s = .next (addFlags (writeV s vd (BitVec.ofNat 256
          (wrapTo w ((act.map (fun k => (a k : Int))).sum)))) 0) ∧
        exec (.vredmax vd va m fmt) s = .next (addFlags (writeV s vd (BitVec.ofNat 256
          (wrapTo w ((act.map (fun k => laneInt fmt (a k))).foldl max (fmtMin fmt))))) 0) ∧
        exec (.vredmin vd va m fmt) s = .next (addFlags (writeV s vd (BitVec.ofNat 256
          (wrapTo w ((act.map (fun k => laneInt fmt (a k))).foldl min (fmtMax fmt))))) 0) ∧
        exec (.vredand vd va m fmt) s = .next (addFlags (writeV s vd (BitVec.ofNat 256
          ((act.map a).foldl (· &&& ·) (2 ^ w - 1)))) 0) ∧
        exec (.vredor vd va m fmt) s = .next (addFlags (writeV s vd (BitVec.ofNat 256 ((act.map a).foldl (· ||| ·) 0))) 0)) ∧
      (fmt.isFloat → ∀ k, act = [k] → ∀ i ∈ [Instr.vredadd vd va m fmt, .vredmax vd va m fmt, .vredmin vd va m fmt],
        exec i s = .next (addFlags (writeV s vd (BitVec.ofNat 256 (a k))) 0)) ∧
      (fmt = .fp32 → act = [0, 1, 2, 3] → laneCount s w = 4 →
        let f := fadd fp32 (was s).rm
        exec (.vredadd vd va m fmt) s = .next (addFlags (writeV s vd (BitVec.ofNat 256 (f (f (a 0) (a 1)).1 (f (a 2) (a 3)).1).1))
          ((f (a 0) (a 1)).2 ||| (f (a 2) (a 3)).2 ||| (f (f (a 0) (a 1)).1 (f (a 2) (a 3)).1).2))) ∧
      (fmt.isFloat →
        let F := fmtIeee fmt
        let T := fun k => if k < laneCount s w ∧ on (readM s m) k = true then some (a k) else none
        ∀ p ∈ [(Instr.vredadd vd va m fmt, fadd F (was s).rm, 0), (.vredmax vd va m fmt, minMax F true, F.inf true),
            (.vredmin vd va m fmt, minMax F false, F.inf false)],
          exec p.1 s = .next (addFlags (writeV s vd (BitVec.ofNat 256 ((treeNode p.2.1 T 5 0).1.getD p.2.2))) (treeNode p.2.1 T 5 0).2))) ∧
  (∀ (s : State) (vd va vb : Reg) (m : MaskNo) (fmt : Fmt),
      let p := fun k => laneInt fmt (lane (readV s va) 8 k) * laneInt fmt (lane (readV s vb) 8 k)
      let d := fun k => (lane (readV s vd) 32 k : Int)
      let sel := (List.range (laneCount s 8)).filter (on (readM s m))
      (fmt ∈ [Fmt.int8, .uint8] →
        writesLanes (.vdot4 vd va vb m fmt) s vd m 32 (fun k => wrapTo 32 (d k + (p (4 * k) + p (4 * k + 1) + p (4 * k + 2) + p (4 * k + 3)))) ∧
        ∃ v, exec (.vdota vd va vb m fmt) s = .next (writeV s vd v 0xF) ∧ lane v 32 0 = wrapTo 32 (d 0 + (sel.map p).sum) ∧
          ∀ k, 0 < k → k < 8 → lane v 32 k = lane (oldV s vd) 32 k) ∧
      (∀ g i e, fmt = .b8 g i e →
        let q := fun k => (b8Decode g i e.toNat (lane (readV s va) 8 k), b8Decode g i e.toNat (lane (readV s vb) 8 k))
        writesLanesF (.vdot4 vd va vb m fmt) s vd m 32 (fun k =>
          dotVal (was s).rm (fp32.decode (lane (readV s vd) 32 k)) [q (4 * k), q (4 * k + 1), q (4 * k + 2), q (4 * k + 3)]) ∧
        ∃ v fl, exec (.vdota vd va vb m fmt) s = .next (addFlags (writeV s vd v 0xF) fl) ∧
          (lane v 32 0, fl) = dotVal (was s).rm (fp32.decode (lane (readV s vd) 32 0)) (sel.map q)))

/-- R149 and R150: the mask instructions. -/
def Obligations.MaskInstructions : Prop :=
  ∀ (s : State) (md ma mb : MaskNo) (x : Reg) (w : BitVec 2),
    let n := (if ganged s then 2 else 1) * (16 / 2 ^ w.toNat)
    (∃ k, exec (.mand md ma mb) s = .next (writeM s md k) ∧ ∀ i < 32, k.getLsbD i = ((readM s ma).getLsbD i && (readM s mb).getLsbD i)) ∧
    (∃ k, exec (.mor md ma mb) s = .next (writeM s md k) ∧ ∀ i < 32, k.getLsbD i = ((readM s ma).getLsbD i || (readM s mb).getLsbD i)) ∧
    (∃ k, exec (.mnot md ma) s = .next (writeM s md k) ∧ ∀ i < 32, k.getLsbD i = !(readM s ma).getLsbD i) ∧
    exec (.mpopc x ma w) s = .next (writeX s x (BitVec.ofNat 64 ((List.range n).countP (on (readM s ma))))) ∧
    (∃ k ≤ n, exec (.mfirst x ma w) s = .next (writeX s x (BitVec.ofNat 64 k)) ∧
      (∀ i < k, on (readM s ma) i = false) ∧ (k < n → on (readM s ma) k = true)) ∧
    exec (.mset md x) s = .next (writeM s md (BitVec.ofNat 32 (natX s x))) ∧
    exec (.mget x ma) s = .next (writeX s x (BitVec.ofNat 64 (readM s ma).toNat))

/-- R50, R51 and R207 to R210: a BSALIGN into an empty pair takes the arrival; into a pair of the same exponent it adds, when the
sum stays within 63 bits; of two exponents the integer of the smaller is first rounded down to the larger, to the nearest and in a tie to
the even integer, with NX when it changes, and a sum beyond 63 bits is the limit of its sign, with OF and NX. SCACC adds I × 2^E × scale to its FP32 lanes, and BSNORM writes I × 2^E, each rounded once, into the
lanes that its form and the mask name; of a shared register those lanes' bytes are written (R135). The statement is of one thread, not a
gang. -/
def Obligations.BlockSums : Prop :=
  ∀ (s : State) (vd va vb : Reg) (m : MaskNo), ganged s = false →
    let d := oldV s vd
    let a := readV s va
    let ia := (BitVec.ofNat 64 (lane a 64 0)).toInt
    let ea := (BitVec.ofNat 16 (lane a 64 1)).toInt
    let sc := fun (half_ : Nat) (k : Nat) => if k / 2 = half_ ∧ on (readM s m) k
      then (scaccLane (was s).rm (lane a 64 (k % 2)) (lane (readV s vb) 32 k) (lane d 32 k)).1 % 2 ^ 32 else lane d 32 k
    let nm := fun (half_ : Nat) (k : Nat) => if k / 2 = half_ ∧ on (readM s m) k
      then (fp32.round (was s).rm (decide (bsI (lane a 64 (k % 2)) < 0)) (bsI (lane a 64 (k % 2))).natAbs (bsE (lane a 64 (k % 2)))).1 % 2 ^ 32
      else lane d 32 k
    (∃ v fl, exec (.bsalign vd va) s = .next (addFlags (writeV s vd v) fl) ∧
      (lane d 64 1 = 2 ^ 63 → lane v 64 0 = lane a 64 0 ∧ lane v 64 1 = wrapTo 64 ea ∧ fl = 0) ∧
      (lane d 64 1 ≠ 2 ^ 63 → (BitVec.ofNat 16 (lane d 64 1)).toInt = ea →
        ((BitVec.ofNat 64 (lane d 64 0)).toInt + ia).natAbs < 2 ^ 63 →
        lane v 64 0 = wrapTo 64 ((BitVec.ofNat 64 (lane d 64 0)).toInt + ia) ∧ lane v 64 1 = wrapTo 64 ea ∧ fl = 0) ∧
      (lane d 64 1 ≠ 2 ^ 63 →
        let ir := (BitVec.ofNat 64 (lane d 64 0)).toInt
        let er := (BitVec.ofNat 16 (lane d 64 1)).toInt
        let low := if ea < er then ia else ir
        let w : Int := 2 ^ (ea - er).natAbs
        ∃ q : Int, 2 * (low - q * w).natAbs ≤ w.natAbs ∧ (2 * (low - q * w).natAbs = w.natAbs → q % 2 = 0) ∧
          let t := q + (if ea < er then ir else ia)
          lane v 64 0 = wrapTo 64 (max (-(2 ^ 63 - 1)) (min (2 ^ 63 - 1) t)) ∧ lane v 64 1 = wrapTo 64 (max ea er) ∧
          fl = (if q * w = low then 0 else fNX) ||| (if t.natAbs < 2 ^ 63 then 0 else fOF ||| fNX))) ∧
    (∃ v fl, exec (.scaccL vd va vb m) s = .next (addFlags (writeV s vd v (laneBytes 32 (readM s m &&& 0x33))) fl) ∧ ∀ k < 4, lane v 32 k = sc 0 k) ∧
    (∃ v fl, exec (.scaccH vd va vb m) s = .next (addFlags (writeV s vd v (laneBytes 32 (readM s m &&& 0xCC))) fl) ∧ ∀ k < 4, lane v 32 k = sc 1 k) ∧
    (∃ v fl, exec (.bsnormL vd va m) s = .next (addFlags (writeV s vd v (laneBytes 32 (readM s m &&& 0x33))) fl) ∧ ∀ k < 4, lane v 32 k = nm 0 k) ∧
    (∃ v fl, exec (.bsnormH vd va m) s = .next (addFlags (writeV s vd v (laneBytes 32 (readM s m &&& 0xCC))) fl) ∧ ∀ k < 4, lane v 32 k = nm 1 k) ∧
    (∃ v fl, exec (.bsnormR vd va m) s = .next (addFlags (writeV s vd v (laneBytes 32 (readM s m &&& 0x11))) fl) ∧
      (∀ k, 0 < k → k < 4 → lane v 32 k = lane d 32 k) ∧
      (on (readM s m) 0 = true → lane a 64 1 = 2 ^ 63 → lane v 32 0 = 0 ∧ fl = 0) ∧
      (on (readM s m) 0 = true → lane a 64 1 ≠ 2 ^ 63 → (lane v 32 0, fl) = fp32.round (was s).rm (decide (ia < 0)) ia.natAbs ea) ∧
      (on (readM s m) 0 = false → lane v 32 0 = lane d 32 0))

/-! ## The special-function and product-polynomial units -/

/-- R86, R151 and R152: a special-function bundle that finds fewer than four requests in its core's queue adds its own, with its
operand as read and the rounding mode of its issue (log 83, DESIGN CHOICE), and marks its destination; it changes nothing else.

R213 to R215: an operation of the product-polynomial unit, of a thread in no twin, that finds fewer than four requests in its
core's queue enters it with its operands as read and its cycle, and marks its destination, if it has one; it changes nothing else.

R86, R151, R153 and R214: the head of a unit's queue. Before its end it stays; then its result is written to its thread's destination, which is no longer marked, and the next begins. Each active lane of
a special function takes its value by one more free choice of the part, an inactive lane stays, and its flags join $fflags (with none of them enabled). The polynomial unit changes its
accumulators; PPEXP gives exponent, flags, limit and degree, PPRD the coefficients of its lanes. (Of the results: the destination is private,
and the thread is not ganged.) -/
def Obligations.UnitsTakeRequestsInOrder : Prop :=
  (∀ (s : State) (rd ra : Reg) (f : FForm) (m : MaskNo) (fmt : Fmt),
      (coreAt s s.iss.core).sfu.length < 4 →
      (∀ p ∈ [(Instr.fexp2 rd ra f, 0), (.flog2 rd ra f, 1), (.frcp rd ra f, 2), (.frsq rd ra f, 3), (.fsqrt rd ra f, 4),
          (.ftanh rd ra f, 5), (.fsin rd ra f, 6), (.fcos rd ra f, 7)],
        ∃ t, exec p.1 s = .next t ∧ onlyCore s.iss.core s t ∧ sameOtherThreads s.iss.core s.iss.slot s t ∧ onlySfu s.iss.core s t ∧
          (coreAt t s.iss.core).sfu = (coreAt s s.iss.core).sfu ++ [⟨s.iss.slot, (was s).uid, s.iss.pc, p.2, formFmt f, false, false, 1,
            (readX s ra).setWidth 256, rd, (was s).rm⟩] ∧
          { thrAt t s.iss.core s.iss.slot with marksX := (me s).marksX } = me s ∧
          (thrAt t s.iss.core s.iss.slot).marksX = (me s).marksX ||| markBit rd) ∧
      (∀ p ∈ [(Instr.vfexp2 rd ra m fmt, 0), (.vflog2 rd ra m fmt, 1), (.vfrcp rd ra m fmt, 2), (.vfrsq rd ra m fmt, 3),
          (.vfsqrt rd ra m fmt, 4), (.vftanh rd ra m fmt, 5), (.vfsin rd ra m fmt, 6), (.vfcos rd ra m fmt, 7)],
        ∃ t, exec p.1 s = .next t ∧ onlyCore s.iss.core s t ∧ sameOtherThreads s.iss.core s.iss.slot s t ∧ onlySfu s.iss.core s t ∧
          (coreAt t s.iss.core).sfu = (coreAt s s.iss.core).sfu ++ [⟨s.iss.slot, (was s).uid, s.iss.pc, p.2, fmt, true, ganged s, readM s m,
            readV s ra, rd, (was s).rm⟩] ∧
          { thrAt t s.iss.core s.iss.slot with marksV := (me s).marksV } = me s ∧
          (thrAt t s.iss.core s.iss.slot).marksV = (me s).marksV ||| markBit rd)) ∧
  (∀ (s : State) (pd pa pb : PaNo) (x y : Reg) (g : BitVec 5) (m : MaskNo),
      (coreAt s s.iss.core).ppa.length < 4 → isTwin (me s) = false →
      let lo := fun (r : Reg) => (readX s r).setWidth 32
      let l32 := fun (r : Reg) (k : Nat) => BitVec.ofNat 32 (lane (readV s r) 32 k)
      let act := (List.range (laneCount s 32)).filter (on (readM s m))
      ∀ p ∈ [(Instr.ppinit pd x, PpaOp.init pd (min (natX s x % 64) (was s).pdeg.toNat)), (.ppmul pd x y, .mul pd [(lo x, lo y)]),
          (.ppmulv pd x y m, .mul pd (act.map (fun k => (l32 x k, l32 y k)))), (.ppdiv pd x y, .div pd (lo x) (lo y)),
          (.ppmerge pd pa pb, .merge pd pa pb), (.pprd x pa g m, .read pa g.toNat ((readM s m).setWidth 8) x (ganged s)),
          (.ppld pd x g m, .load pd g.toNat ((readM s m).setWidth 8) ((List.range (laneCount s 32)).map (l32 x))),
          (.ppexp x pa, .exp pa x), (.ppnorm pd, .norm pd)],
        ∃ t, exec p.1 s = .next t ∧ onlyCore s.iss.core s t ∧ sameOtherThreads s.iss.core s.iss.slot s t ∧
          onlyPpa s.iss.core s t ∧
          (coreAt t s.iss.core).ppa = (coreAt s s.iss.core).ppa ++ [⟨s.iss.slot, (me s).uid, p.2, (coreAt s s.iss.core).time, ppaSeq (coreAt s s.iss.core)⟩] ∧
          { thrAt t s.iss.core s.iss.slot with marksX := (me s).marksX, marksV := (me s).marksV } = me s ∧
          (thrAt t s.iss.core s.iss.slot).marksX = (match p.2 with
            | .exp _ d => (me s).marksX ||| markBit d
            | _ => (me s).marksX) ∧
          (thrAt t s.iss.core s.iss.slot).marksV = (match p.2 with
            | .read _ _ _ d _ => (me s).marksV ||| markBit d
            | _ => (me s).marksV)) ∧
  ((∀ (s : State) (c : Nat) (q : SfuReq) (r : List SfuReq), (coreAt s c).sfu = q :: r →
      let k := coreAt s c
      let i := Instr.sfuResult c
      let n := if q.vec then (if q.fmt = .fp32 then 4 else 8) * (if q.gang then 2 else 1) else 1
      let w := q.fmt.width
      let L := [12, 12, 10, 10, 14, 16, 18, 18][q.op]?.getD 18
      let due := k.sfuStart + n + L - 1
      let th := thrAt s c q.slot
      let free := fun (j : Nat) => s.free + ((List.range j).filter (on q.mask)).length
      let f := fun (j : Nat) => sfuFn q.op (fmtForm q.fmt) q.rm (Config.freeValue (free j)) (lane q.arg w j)
      (k.time < due → exec i s = .next s) ∧
      (due ≤ k.time → isThread s c q.slot q.uid = false → ∃ t, exec i s = .next t ∧ (coreAt t c).sfu = r ∧ (coreAt t c).sfuStart = k.time + 1 ∧ onlyCore c s t) ∧
      (due ≤ k.time → isThread s c q.slot q.uid = true → q.dest.toNat < 16 → q.gang = false → q.fmt = .fp32 ∨ q.fmt = .fp16 ∨ q.fmt = .bf16 →
        (∀ j < n, on q.mask j = true → (f j).2 &&& th.fen = 0) → ∃ t fl, exec i s = .next t ∧ (coreAt t c).sfu = r ∧ (coreAt t c).sfuStart = k.time + 1 ∧ t.free = free n ∧
          (∀ b < 5, fl.getLsbD b = (List.range n).any (fun j => on q.mask j && (f j).2.getLsbD b)) ∧ (thrAt t c q.slot).fflags = th.fflags ||| fl ∧
          (q.vec = false → on q.mask 0 = true → (thrAt t c q.slot).x = tput th.x q.dest.toNat (BitVec.ofNat 64 ((f 0).1 % 2 ^ w)) ∧
            (thrAt t c q.slot).v = th.v ∧ (thrAt t c q.slot).marksX = th.marksX &&& ~~~markBit q.dest ∧ (thrAt t c q.slot).marksV = th.marksV) ∧
          (q.vec = true → (thrAt t c q.slot).x = th.x ∧ (thrAt t c q.slot).marksV = th.marksV &&& ~~~markBit q.dest ∧ (thrAt t c q.slot).marksX = th.marksX ∧
            (∀ v, v ≠ q.dest.toNat → tget 0 (thrAt t c q.slot).v v = tget 0 th.v v) ∧
            ∀ j < n, lane ((tget 0 (thrAt t c q.slot).v q.dest.toNat).setWidth 256) w j =
              if on q.mask j then (f j).1 % 2 ^ w else lane ((tget 0 th.v q.dest.toNat).setWidth 256) w j))) ∧
    ∀ (s : State) (c : Nat) (q : PpaReq) (r : List PpaReq), (coreAt s c).ppa = q :: r →
      let k := coreAt s c
      let i := Instr.ppaOpComplete c
      let due := k.ppaStart + ppaCycles k q.op
      let th := thrAt s c q.slot
      let p := fun (n : PaNo) => tget {} k.pa n.toNat
      (k.time < due → exec i s = .next s) ∧
      (due ≤ k.time → ∃ t, exec i s = .next t ∧ (coreAt t c).ppa = r ∧ (coreAt t c).ppaStart = (match r with
          | n :: _ => max k.time (n.since + 1)
          | [] => k.time) ∧ sameMem s t ∧
        (∀ n : PaNo, tget {} (coreAt t c).pa n.toNat = match q.op with
          | .init pd lim => if n = pd then paInit lim else p n
          | .mul pd l => if n = pd then l.foldl (fun x f => paMul x f.1 f.2) (p pd) else p n
          | .div pd a b => if n = pd then paDiv (p pd) a b else p n
          | .merge pd a b => if n = pd then paMerge (p pd) (p a) (p b) else p n
          | .load pd g m v => if n = pd then paLoad (p pd) g m v else p n
          | .norm pd => if n = pd then paNorm (p pd) else p n
          | _ => p n) ∧
        (isThread s c q.slot q.uid = true → isTwin th = false →
          (∀ n d, q.op = .exp n d → d.toNat < 16 →
            (thrAt t c q.slot).x = tput th.x d.toNat (BitVec.ofInt 64 ((p n).x * 2 ^ 48 + (if (p n).z then 2 ^ 43 else 0) + (if (p n).o then 2 ^ 42 else 0) +
              (if (p n).cnd then 2 ^ 41 else 0) + (if (p n).t then 2 ^ 40 else 0) + (p n).lim * 2 ^ 8 + (p n).deg)) ∧
            (thrAt t c q.slot).v = th.v ∧ (thrAt t c q.slot).marksX = th.marksX &&& ~~~markBit d) ∧
          (∀ n g m d, q.op = .read n g m d false → d.toNat < 16 → (thrAt t c q.slot).x = th.x ∧ (thrAt t c q.slot).marksV = th.marksV &&& ~~~markBit d ∧
            (∀ v, v ≠ d.toNat → tget 0 (thrAt t c q.slot).v v = tget 0 th.v v) ∧
            ∀ j < 4, lane ((tget 0 (thrAt t c q.slot).v d.toNat).setWidth 256) 32 j =
              if m.getLsbD j then coef (p n) (4 * g + j) else lane ((tget 0 th.v d.toNat).setWidth 256) 32 j))))

/-- R45 and R46: the special cases of the special functions, and what their results depend on: FRCP and FSQRT on the dynamic mode
and on no choice of the part, the other six on no mode.

R52 to R54: PPINIT leaves the polynomial 1 with degree 0, exponent 0 and no flag; a factor a + b·z applied to it, with
coefficients whose magnitudes need no rescaling and a limit of at least 1, leaves a + b·z, degree 1.

R53: a factor applied to any accumulator: each coefficient is the exact sum of its terms, rounded once, a term beyond the limit sets T, and the
result is rescaled as R54 says. A sum of finite products that is not zero is rounded to nearest, whatever its length.

R55: a factor removed: with a = 0 only Z changes; else each quotient coefficient is the difference rounded once, divided and rounded; the last
one is dropped unless T is set. A quotient of finite numbers is a nearest one.

R56, R57 and R213: a merge, a normalisation (log 81, DESIGN CHOICE, where no finite coefficient but zeros remains) and a load of coefficients (log
82, DESIGN CHOICE, for a lane of -0). -/
def Obligations.SpecialFunctionsAndPolynomials : Prop :=
  ((∀ (op : Nat) (mode : Mode) (free : Bool) (c : Nat), op < 8 → c < 2 ^ 32 →
      ((fp32.decode c).isNan → sfu32 op mode free c = (0x7FC00000, if (fp32.decode c).isSig then fNV else 0)) ∧
      (op = 2 ∨ op = 4 → ∀ free', sfu32 op mode free c = sfu32 op mode free' c) ∧
      (op ≠ 2 → op ≠ 4 → ∀ mode', sfu32 op mode free c = sfu32 op mode' free c)) ∧
    (∀ (mode : Mode) (free : Bool),
      sfu32 0 mode free 0 = (0x3F800000, 0) ∧ sfu32 0 mode free 0xFF800000 = (0, 0) ∧ sfu32 0 mode free 0x7F800000 = (0x7F800000, 0) ∧
      sfu32 1 mode free 0x80000000 = (0xFF800000, fDZ) ∧ sfu32 1 mode free 0x3F800000 = (0, 0) ∧ sfu32 1 mode free 0xBF800000 = (0x7FC00000, fNV) ∧
      sfu32 2 mode free 0x80000000 = (0xFF800000, fDZ) ∧ sfu32 2 mode free 0x7F800000 = (0, 0) ∧ sfu32 2 mode free 0x40000000 = (0x3F000000, 0) ∧
      sfu32 3 mode free 0 = (0x7F800000, fDZ) ∧ sfu32 3 mode free 0x40800000 = (0x3F000000, 0) ∧ sfu32 3 mode free 0xFF800000 = (0x7FC00000, fNV) ∧
      sfu32 4 mode free 0x80000000 = (0x80000000, 0) ∧ sfu32 4 mode free 0x40800000 = (0x40000000, 0) ∧ sfu32 4 mode free 0xBF800000 = (0x7FC00000, fNV) ∧
      sfu32 5 mode free 0xFF800000 = (0xBF800000, 0) ∧ sfu32 5 mode free 0x41100000 = (0x3F800000, fNX) ∧
      sfu32 6 mode free 0x80000000 = (0x80000000, 0) ∧ sfu32 6 mode free 0x7F800000 = (0x7FC00000, fNV) ∧
      sfu32 7 mode free 0x80000000 = (0x3F800000, 0) ∧ sfu32 7 mode free 0xFF800000 = (0x7FC00000, fNV))) ∧
  (∀ (lim : Nat) (a b : BitVec 32), 1 ≤ lim → lim < 64 →
      (∀ k < 64, coef (paInit lim) k = if k = 0 then 0x3F800000 else 0) ∧ (paInit lim).deg = 0 ∧ (paInit lim).x = 0 ∧
      ((0x1F800000 ≤ a.toNat % 2 ^ 31 ∧ a.toNat % 2 ^ 31 < 0x5F800000 ∧ b.toNat % 2 ^ 31 < 0x5F800000) →
        (∀ k < 64, coef (paMul (paInit lim) a b) k = if k = 0 then a.toNat else if k = 1 then b.toNat else 0) ∧
        (paMul (paInit lim) a b).deg = 1 ∧ (paMul (paInit lim) a b).x = 0 ∧ (paMul (paInit lim) a b).lim = lim ∧
        (paMul (paInit lim) a b).t = false ∧ (paMul (paInit lim) a b).o = false ∧ (paMul (paInit lim) a b).z = false)) ∧
  ((∀ p, rescales p (rescale p)) ∧
    (∀ l : List (FVal × FVal), (∀ p ∈ l, ∃ n m e k q g, p = (.fin n m e, .fin k q g)) →
      ∃ lo : Int, (∀ n m e k q g, (FVal.fin n m e, FVal.fin k q g) ∈ l → lo ≤ e + g) ∧
        let z := (l.map (productAt lo)).sum
        (z ≠ 0 → sumProducts l = (fp32.round 0 (decide (z < 0)) z.natAbs lo).1)) ∧
    (∀ (n k n' k' : Bool) (m p m' p' : Nat) (e q e' q' : Int) (c : Nat), m < 2 ^ 24 → p < 2 ^ 24 → p ≠ 0 → c < 2 ^ 32 →
      fp32.decode (div32 (.fin n m e) (.fin k p q)) = .fin n' m' e' → fp32.decode c = .fin k' p' q' →
      let lo := min e (min (e' + q) (q' + q))
      let x := scaled n m e lo
      (scaled (n' != k) (m' * p) (e' + q) lo - x).natAbs ≤ (scaled (k' != k) (p' * p) (q' + q) lo - x).natAbs)) ∧
  (∀ (p d r : Pa) (a b : BitVec 32), p.deg ≤ p.lim → p.lim < 64 → d.deg ≤ d.lim → d.lim < 64 → r.lim < 64 →
      let va := val32 a.toNat
      let vb := val32 b.toNat
      let c := fun k => val32 (coef p k)
      let special := fun (m : Pa) => (List.range 64).any (fun k => special32 (coef m k))
      (∃ m, paMul p a b = rescale m ∧ { m with c := p.c } = { p with
          deg := min (p.deg + 1) p.lim, t := p.t || (decide (p.deg = p.lim) && productNonzero vb (c p.lim)), o := p.o || special m } ∧
        ∀ k < 64, coef m k = if m.deg < k then coef p k else
          sumProducts ((if k ≤ p.deg then [(va, c k)] else []) ++ (if k = 0 then [] else [(vb, c (k - 1))]))) ∧
      (va.isZero = true → paDiv p a b = { p with z := true }) ∧
      (va.isZero = false → ∃ (m : Pa) (q : Nat → Nat),
        let drop := !p.t && decide (0 < p.deg)
        paDiv p a b = rescale m ∧ { m with c := p.c } = { p with
          deg := if drop then p.deg - 1 else p.deg, o := p.o || special m
          cnd := p.cnd || (!va.isNan && !vb.isNan && decide (a.toNat % 2 ^ 31 < b.toNat % 2 ^ 31)) } ∧
        q 0 = div32 (c 0) va ∧
        (∀ k < p.deg, q (k + 1) = div32 (val32 (sumProducts [(.fin false 1 0, c (k + 1)), (vb.flip, val32 (q k))])) va) ∧
        ∀ k < 64, coef m k = if p.deg < k then coef p k else if k = p.deg ∧ drop = true then 0 else q k) ∧
      (∃ m, paMerge r p d = rescale m ∧ { m with c := r.c } = { r with
          deg := min (p.deg + d.deg) r.lim, x := max (-32768) (min 32767 (p.x + d.x))
          t := p.t || d.t || (List.range (p.deg + 1)).any (fun i => (List.range (d.deg + 1)).any (fun j => decide (r.lim < i + j) && productNonzero (c i) (val32 (coef d j))))
          cnd := p.cnd || d.cnd, z := p.z || d.z, o := p.o || d.o || decide (p.x + d.x < -32768 ∨ 32767 < p.x + d.x) || special m } ∧
        ∀ k < 64, coef m k = if m.deg < k then 0 else
          sumProducts (((List.range (p.deg + 1)).filter (fun i => decide (i ≤ k ∧ k - i ≤ d.deg))).map (fun i => (c i, val32 (coef d (k - i)))))) ∧
      ((∀ k < 64, special32 (coef p k) = true ∨ coef p k % 2 ^ 31 = 0) → paNorm p = p) ∧
      (∀ (n : Bool) (g : Nat) (e f : Int) (k : Nat), k < 64 → c k = .fin n g e → g ≠ 0 →
        (∀ j < 64, special32 (coef p j) = false → coef p j % 2 ^ 31 ≤ coef p k % 2 ^ 31) →
        scaled false 1 f (min e f) ≤ scaled false g e (min e f) → scaled false g e (min e f) < 2 * scaled false 1 f (min e f) →
        (p.x + f < -32768 ∨ 32767 < p.x + f → paNorm p = { p with o := true }) ∧
        (-32768 ≤ p.x + f → p.x + f ≤ 32767 → { paNorm p with c := p.c } = { p with x := p.x + f, o := p.o || special p } ∧
          ∀ j < 64, coef (paNorm p) j = scale32 (coef p j) (-f)))) ∧
  (∀ (p : Pa) (g : Nat) (mask : BitVec 8) (v : List (BitVec 32)), p.lim < 64 →
      let q := paLoad p g mask v
      let at_ := fun i => (v[i]?.getD 0).toNat
      { q with c := p.c, deg := p.deg } = { p with
        t := p.t || (List.range v.length).any (fun i => mask.getLsbD i && decide (p.lim < 4 * g + i) && decide (at_ i % 2 ^ 31 ≠ 0))
        o := p.o || (List.range 64).any (fun k => special32 (coef q k)) } ∧
      (∀ k < 64, coef q k =
        if k ≤ p.lim ∧ 4 * g ≤ k ∧ k - 4 * g < v.length ∧ mask.getLsbD (k - 4 * g) = true then at_ (k - 4 * g) else coef p k) ∧
      q.deg ≤ p.lim ∧ (q.deg = 0 ∨ coef q q.deg % 2 ^ 31 ≠ 0) ∧ ∀ k, q.deg < k → k ≤ p.lim → coef q k % 2 ^ 31 = 0)

/-! ## Control flow, traps and system words -/

/-- R117 to R119, R83 and R79: where control passes. A branch not taken leaves the pc, which is already the next bundle's; CALL and CALLR
write x8; a misaligned target of JR or CALLR traps MISALIGNED with the target and writes no link. Nothing else changes. -/
def Obligations.BranchesTakeTheirTargets : Prop :=
  ∀ (s : State) (ra rb : Reg) (off : BitVec 14) (far : BitVec 23) (ext : Ext),
    let th := me s
    let near := BitVec.ofInt 64 ((s.iss.pc.toNat : Int) + 8 * off.toInt)
    let away := BitVec.ofInt 64 ((s.iss.pc.toNat : Int) + 8 * (match ext with
      | some e => e.toInt
      | none => far.toInt))
    let linked := fun (pc : W64) => { th with x := tput th.x 8 (s.iss.pc + 8), pc := pc }
    (∀ p ∈ [(Instr.beq ra rb off, decide (natX s ra = natX s rb)), (.bne ra rb off, decide (natX s ra ≠ natX s rb)),
        (.blt ra rb off, decide (intX s ra < intX s rb)), (.bge ra rb off, decide (intX s rb ≤ intX s ra)),
        (.bltu ra rb off, decide (natX s ra < natX s rb)), (.bgeu ra rb off, decide (natX s rb ≤ natX s ra))],
      becomes p.1 s { th with pc := if p.2 then near else th.pc }) ∧
    becomes (.br far ext) s { th with pc := away } ∧
    becomes (.call far ext) s (linked away) ∧
    (natX s ra % 8 = 0 → becomes (.jr ra) s { th with pc := readX s ra } ∧ becomes (.callr ra) s (linked (readX s ra))) ∧
    (natX s ra % 8 ≠ 0 → ∀ i ∈ [Instr.jr ra, .callr ra], exec i s = .next (takeTrap s 0 0x04 (readX s ra)))

/-- R245, R154: a trap of a thread in no twin below level 2 whose cause is not referred saves the pc, the cause and word, the address
value and the masks with the mode and the loose count in the registers of the new level, leaves the gang, and passes control to
$hbase + 64 × cause. The registers, masks, marks, accesses and the lease stay. What the bundle had popped while it waited in its effect
stands in its queues again (R82). An asynchronous trap names the bundle about to issue (R244). -/
def Obligations.TrapsEnterTheirHandler : Prop :=
  ∀ (s : State) (word cause : Nat) (e : W64) (c u : Nat),
    (trapsItself s s.iss.core s.iss.slot cause →
      (takeTrap s word cause e).iss = { s.iss with phase := .trapped } ∧
      entersHandler (unpop s s.iss.core s.iss.slot) { takeTrap s word cause e with iss := s.iss } s.iss.core s.iss.slot word cause e s.iss.pc) ∧
    (trapsItself s c u cause → entersHandler (unpop s c u) (trapOutside s c u cause e) c u 0 cause e (thrAt s c u).pc)

/-- R245 to R248: a referred trap enters the new level and parks SUPERVISOR, its pc still that of the bundle, and its message is held while the
supervisor's core has no mailbox for it; a trap at level 2 kills the context (FREE at once when it holds no core). Its kill record holds the
stamp, the thread word with LEVEL 2 and the cause, the pc and address value of the trap, $epc1, $epc2 and the causes of the two levels: eight
words at KILLREC, or held while the page of KILLREC is moving or wakes (log 53, DEDUCED). In a context that is not LIVE the kill has no
effect (R240) and the thread stays at its bundle (log 51, DEDUCED). -/
def Obligations.ReferredTrapsParkAndThirdTrapsKill : Prop :=
  ∀ (s : State) (word cause : Nat) (e : W64),
    let c := s.iss.core
    let u := s.iss.slot
    let th := me s
    let x := ctxAt s th.ctx
    let t := takeTrap s word cause e
    isTwin th = false → th.resv = [] → t.iss.phase = .trapped ∧
      (th.tl < 2 → referred s th.ctx cause = true → mboxById s x.supcore 0 = none →
        (thrAt t c u).slot = .parked ∧ (thrAt t c u).park = some ⟨.supervisor, (coreAt s c).time, 0, 0⟩ ∧ (thrAt t c u).tl = th.tl + 1 ∧
        (thrAt t c u).pc = s.iss.pc ∧ levelOf (thrAt t c u) (th.tl + 1) = levelWritten th word cause e s.iss.pc ∧
        ∃ m, t.sups = s.sups ++ [{ ctx := th.ctx, core := x.supcore, words := [m, BitVec.ofNat 64
          ((th.tl + 1) * 2 ^ 38 + 2 ^ 37 + cause * 2 ^ 29 + u * 2 ^ 25 + c * 2 ^ 12 + th.ctx), s.iss.pc, e] }]) ∧
      (2 ≤ th.tl → x.st = .live → ((ctxAt t th.ctx).st = .killed ∨ (ctxAt t th.ctx).st = .free) ∧
        let record := [(stampCore s c).1, BitVec.ofNat 64 (2 * 2 ^ 38 + cause * 2 ^ 29 + u * 2 ^ 25 + c * 2 ^ 12 + th.ctx), s.iss.pc, e, th.l1.epc,
          th.l2.epc, BitVec.ofNat 64 (bits th.l2.ecause 0 8 * 2 ^ 8 + bits th.l1.ecause 0 8), 0]
        (∀ loc, recordPlace s (rootOf x) = .at loc → stillDevice s → ∀ i < 8, readBytes t (loc + 8 * i) 8 = (record[i]?.getD 0).toNat) ∧
        (∀ k, recordPlace s (rootOf x) = .wait k → ∃ m ∈ t.sups, m.ctx = th.ctx ∧ m.record = record)) ∧
      (2 ≤ th.tl → x.st ≠ .live → t.ctxs = s.ctxs ∧
        thrAt t c u = { th with slot := readySlot th, park := none, reply := none, inside := none, keep := none, pc := s.iss.pc })

/-- R122 and R123: TRAP traps SOFTWARE with its code; RETT at level 0 traps ILLEGAL, and at level n restores the masks of $estat[n],
the level below and the pc of $epc[n].

R125, R126, R127, R184, R29: TSTAMP, WAITEV, YIELD and the tag instructions of a thread in no twin. -/
def Obligations.SystemWords : Prop :=
  (∀ (s : State) (code : BitVec 15),
      exec (.trap code) s = .next (takeTrap s 0 0x13 (BitVec.ofNat 64 code.toNat)) ∧
      ((me s).tl = 0 → exec .rett s = .next (takeTrap s 0 0x01 0)) ∧
      ((me s).tl ≠ 0 →
        let l := if (me s).tl = 1 then (me s).l1 else (me s).l2
        becomes .rett s { me s with
          m1 := l.estat.extractLsb' 0 16, m2 := l.estat.extractLsb' 16 16, m3 := l.estat.extractLsb' 32 16, tl := (me s).tl - 1, pc := l.epc })) ∧
  (∀ (s : State) (rd ra : Reg), isTwin (me s) = false → isTrail (me s) = false →
      let c := s.iss.core
      let k := coreAt s c
      let th := me s
      let m := readX s ra
      let phys := (dieAt s (dieOfCore c)).ns % 2 ^ 48
      let stamp : W64 := if phys > k.clock.toNat / 2 ^ 16 then BitVec.ofNat 64 (phys * 2 ^ 16) else k.clock + 1
      let ev := th.events &&& m.extractLsb' 0 4
      (∃ t, exec (.tstamp rd) s = .next (writeX t rd stamp) ∧ onlyCore c s t ∧ coreAt t c = { k with clock := stamp }) ∧
      (k.clock.toNat < 2 ^ 64 - 1 → k.clock.toNat < stamp.toNat) ∧
      (th.reply = none → ev ≠ 0 → exec (.waitev rd ra) s = .next (writeX s rd (ev.zeroExtend 64))) ∧
      (th.reply = none → ev = 0 → holds (.waitev rd ra) s .event (BitVec.ofNat 64 (m.toNat % 16)) 0) ∧
      (∀ v, th.reply = some v → exec (.waitev rd ra) s = .next (writeX s rd v)) ∧
      becomes .yield s { th with slot := .parked, park := some ⟨.busy, k.time, 0, 1⟩, busyTil := max th.busyTil (k.time + 16) } ∧
      (m ≠ 0 → th.tags &&& m = 0 → holds (.cpwaitany rd ra) s .engine m 1) ∧
      (m = 0 ∨ th.tags &&& m ≠ 0 → exec (.cpwaitany rd ra) s = .next (writeX s rd (th.tags &&& m))) ∧
      (th.tags &&& m ≠ m → holds (.cpwaitall ra) s .engine m 2) ∧
      (th.tags &&& m = m → exec (.cpwaitall ra) s = .next s) ∧
      (∃ n ≤ 64, exec (.cpfirst rd ra) s = .next (writeX s rd (BitVec.ofNat 64 n)) ∧
        (∀ i < n, (th.tags &&& m).getLsbD i = false) ∧ (n < 64 → (th.tags &&& m).getLsbD n = true)) ∧
      becomes (.cpclr ra) s { th with tags := th.tags &&& ~~~m, tagerr := th.tagerr &&& ~~~m })

/-- R124 and R130, R61, R345: what GETS gives for each state register, to a thread in no twin; $lease gives 0 to a thread that does not hold the
lease (log 33, DEDUCED).

R5, R6, R124 and R130: what SETS writes. Reserved bits stay zero, W1C bits are cleared by ones, a read-only register keeps its value,
and $hbase is written at privileged level and traps PRIV at user privilege. -/
def Obligations.StateRegisters : Prop :=
  (∀ (s : State) (rd : Reg), isTwin (me s) = false →
      let c := s.iss.core
      let k := coreAt s c
      let th := was s
      let x := ctxAt s th.ctx
      let a := (cluAt s (clusterOf c)).arr
      let d := dieAt s (seatDie th.seat)
      let used := fun (u : BankUnit) => decide (u.st = .inService ∨ u.st = .spare)
      ∀ p ∈ [(SReg.seat, th.seat), (.ctx, BitVec.ofNat 64 (x.supcore * 2 ^ 16 + (if x.priv then 2 ^ 12 else 0) + th.ctx)),
          (.tid, BitVec.ofNat 64 (c * 16 + s.iss.slot)), (.time, BitVec.ofNat 64 k.time), (.mode, th.mode.zeroExtend 64),
          (.tags, th.tags), (.tagerr, th.tagerr), (.events, th.events.zeroExtend 64), (.fewait, th.fewait.zeroExtend 64),
          (.qwatch, (latched s).qwatch.zeroExtend 64),
          (.lease, if a.holder = some (c * 16 + s.iss.slot) then BitVec.ofNat 64 (a.cycles * 2 ^ 16 + a.cmds * 2 ^ 8 + 1) else 0),
          (.fflags, th.fflags.zeroExtend 64), (.fenab, BitVec.ofNat 64 (th.rm.toNat * 2 ^ 8 + th.fen.toNat)), (.pdeg, th.pdeg.zeroExtend 64),
          (.tl, BitVec.ofNat 64 th.tl), (.epc1, th.l1.epc), (.epc2, th.l2.epc), (.ecause1, th.l1.ecause), (.ecause2, th.l2.ecause),
          (.eaddr1, th.l1.eaddr), (.eaddr2, th.l2.eaddr), (.estat1, th.l1.estat), (.estat2, th.l2.estat), (.hbase, th.hbase),
          (.part, k.part.zeroExtend 64), (.cappool, BitVec.ofNat 64 ((List.range 20).countP (fun b => used (poolBank k b)))),
          (.capslice, BitVec.ofNat 64 ((List.range 32).countP (fun b => used (sliceBank (cluAt s (clusterOf c)) b)))),
          (.caphbm, if d.domain then BitVec.ofNat 64 (147456 * 2 ^ 32 + (List.range 192).countP (fun b => used (pseudoUnit d b))) else 0)],
        exec (.gets rd p.1) s = .next (writeX s rd p.2)) ∧
  (∀ (s : State) (rs : Reg),
      let th := me s
      let v := readX s rs
      let low48 : W64 := 0x0000FFFFFFFFFFFF
      (∀ p ∈ [(SReg.tagerr, { th with tagerr := th.tagerr &&& ~~~v }), (.events, { th with events := th.events &&& ~~~(v.extractLsb' 0 4) }),
          (.fewait, { th with fewait := v.extractLsb' 0 32 }), (.fflags, { th with fflags := v.extractLsb' 0 5 }),
          (.fenab, { th with rm := v.extractLsb' 8 2, fen := v.extractLsb' 0 5 }), (.pdeg, { th with pdeg := v.extractLsb' 0 6 }),
          (.epc1, { th with l1 := { th.l1 with epc := BitVec.ofNat 64 (v.toNat / 8 * 8) } }),
          (.epc2, { th with l2 := { th.l2 with epc := BitVec.ofNat 64 (v.toNat / 8 * 8) } }),
          (.estat1, { th with l1 := { th.l1 with estat := (th.l1.estat &&& ~~~low48) ||| (v &&& low48) } }),
          (.estat2, { th with l2 := { th.l2 with estat := (th.l2.estat &&& ~~~low48) ||| (v &&& low48) } })],
        becomes (.sets p.1 rs) s p.2) ∧
      (∀ r ∈ [SReg.seat, .ctx, .tid, .time, .mode, .tags, .lease, .tl, .ecause1, .ecause2, .eaddr1, .eaddr2, .part, .cappool, .capslice, .caphbm],
        becomes (.sets r rs) s th) ∧
      (∃ t, exec (.sets .qwatch rs) s = .next t ∧ onlyCore s.iss.core s t ∧
        coreAt t s.iss.core = { coreAt s s.iss.core with qwatch := v.extractLsb' 0 32 }) ∧
      (privileged s (was s) = true → becomes (.sets .hbase rs) s { th with hbase := BitVec.ofNat 64 (v.toNat / 4096 * 4096) }) ∧
      (privileged s (was s) = false → exec (.sets .hbase rs) s = .next (takeTrap s 0 0x02 0)))

/-- R109, R127, R126 and R184: counts that end a wait. DIVIDER_DONE and YIELD_EXPIRY free a thread whose count has run out and that has no
late flags or switch marker pending; EVENT_TIMEOUT answers a WAITEV with 0; CPW_TIMEOUT traps FE_TIMEOUT with the mask. Before the
count has run out, nothing happens. -/
def Obligations.CountsEndWaits : Prop :=
  ∀ (s : State) (c u : Nat) (q : Park),
    let th := thrAt s c u
    let now := (coreAt s c).time
    th.slot = .parked → th.park = some q →
    (q.reason = .busy → q.aux.toNat < 2 →
      let i := if q.aux = 0 then Instr.dividerDone c u else .yieldExpiry c u
      (now < th.busyTil → exec i s = .next s) ∧
      (th.busyTil ≤ now → th.late = [] → th.marker = false → makes i s c u { th with slot := readySlot th, park := none })) ∧
    (q.reason = .event →
      (th.fewait = 0 ∨ now < q.since + th.fewait.toNat → exec (.eventTimeout c u) s = .next s) ∧
      (th.fewait ≠ 0 → q.since + th.fewait.toNat ≤ now →
        makes (.eventTimeout c u) s c u { th with reply := some 0, slot := readySlot th, park := none })) ∧
    (q.reason = .engine → q.aux = 1 ∨ q.aux = 2 →
      (th.fewait = 0 ∨ now ≤ q.since + th.fewait.toNat → exec (.cpwTimeout c u) s = .next s) ∧
      (th.fewait ≠ 0 → q.since + th.fewait.toNat < now → trapsItself s c u 0x0E →
        ∃ t, exec (.cpwTimeout c u) s = .next t ∧ entersHandler (unpop s c u) t c u 0 0x0E q.obj th.pc))

/-- R12 and R124: every instruction of the PRIV major traps PRIV as a C-word at user privilege, whatever its operands. -/
def Obligations.PrivilegedInstructionsTrapForUsers : Prop :=
  ∀ (s : State) (rd ra rb : Reg), privileged s (was s) = false →
    ∀ i ∈ [Instr.killThread rd ra rb, .killContext rd ra rb, .wake rd ra, .resumeRetry rd ra rb, .resumeSkip rd ra rb,
        .resumeHandler rd ra rb, .preempt rd ra, .mapset rd ra rb, .mapinvUnmap rd ra rb, .mapinvRetire rd ra rb, .pghotRead rd ra rb,
        .pghotHalve rd ra rb, .pghotClear rd ra rb, .pghotPromote rd ra rb, .tlbflPage rd ra rb, .tlbflGlobal rd ra rb,
        .tlbflPrivate rd ra rb, .tlbflContext rd ra rb, .tlbflDevice rd ra rb, .bankret rd ra, .bankretDomain rd ra, .bankq rd ra,
        .lkctlEnable rd ra rb, .lkctlDisable rd ra rb, .lkctlRetrain rd ra rb, .lkctlWriteRoute rd ra rb, .lkctlClearLoss rd ra rb,
        .lkctlRevive rd ra rb, .lkqStatus rd ra, .lkqCap rd ra, .lkqLoss rd ra, .lkqRoute rd ra, .lkqWindow rd ra,
        .namerouteWriteRoute rd ra rb, .namerouteReadRoute rd ra rb, .namerouteSetTarn rd ra rb, .namerouteReadDrops rd ra rb],
      exec i s = .next (takeTrap s 0 0x02 0)

/-! ## The device: reset, memory, bundles -/

/-- R130, R301, R302, R344, R375, R376, R240, R241, R414: the device right after a cold reset: every slot FREE and its registers at the values of the
field maps, every core IDLE, every context FREE, ports DISABLED, routes ABSENT, every bank and slice in service and backing the bank of its own
number, no name swapped, and memory in its canonical form with every word full. (A register that no field map names is zero, log 7, DESIGN CHOICE.) -/
def Obligations.ResetState : Prop :=
  (∀ c u, (thrAt State.reset c u).slot = .free ∧ (thrAt State.reset c u).fewait = 0x01000000 ∧ (thrAt State.reset c u).pdeg = 0x3F ∧
    (thrAt State.reset c u).fflags = 0 ∧ (thrAt State.reset c u).tags = 0 ∧ (thrAt State.reset c u).mode = 0 ∧ (thrAt State.reset c u).tl = 0 ∧
    (thrAt State.reset c u).rm = 0 ∧ (thrAt State.reset c u).events = 0 ∧ (thrAt State.reset c u).fen = 0 ∧ (thrAt State.reset c u).tagerr = 0 ∧
    ∀ l ∈ [(thrAt State.reset c u).l1, (thrAt State.reset c u).l2], l.epc = 0 ∧ l.ecause = 0 ∧ l.eaddr = 0 ∧ l.estat = 0) ∧
  (∀ c, (coreAt State.reset c).group = .idle ∧ (coreAt State.reset c).time = 0 ∧ (coreAt State.reset c).qwatch = 0x00100000 ∧
    cappool (coreAt State.reset c) = 20 ∧ ∀ b, (poolBank (coreAt State.reset c) b).logical = some b ∧ (poolBank (coreAt State.reset c) b).st = .inService) ∧
  (∀ k, capslice (cluAt State.reset k) = 32 ∧ ∀ b, (sliceBank (cluAt State.reset k) b).logical = some b ∧ (sliceBank (cluAt State.reset k) b).st = .inService) ∧
  (∀ n, (ctxAt State.reset n).st = .free) ∧ (∀ p, (ueAt State.reset p).st = .disabled ∧ (cxlAt State.reset p).st = .disabled) ∧
  (∀ d, routeState State.reset d = 0) ∧ (∀ d, caphbm (dieAt State.reset d) = BitVec.ofNat 64 (147456 * 2 ^ 32 + 192)) ∧
  State.reset.remap = [] ∧ State.reset.dierdy = 0 ∧ State.reset.stage = 0 ∧
  Memory.wf State.reset ∧ ∀ w, isEmpty State.reset w = false

/-- R4, R160 and R167: bytes written are read back, least significant first, bytes elsewhere stay, and the canonical form is kept; an ordinary store
to a word that nothing waits at does the same and leaves the words it touches full, the others as they were. -/
def Obligations.MemoryHoldsWhatIsWritten : Prop :=
  ∀ (s : State) (loc n v : Nat) (by_ : Option Nat),
    readBytes (writeBytes s loc n v) loc n = v % 256 ^ n ∧
    sameMemOutside loc n s (writeBytes s loc n v) ∧ { writeBytes s loc n v with mem := s.mem } = s ∧
    (Memory.wf s → Memory.wf (writeBytes s loc n v) ∧ Memory.wf (wipe s loc n) ∧ Memory.wf (storeAt by_ s loc n v)) ∧
    (s.feWait = [] →
      readBytes (storeAt by_ s loc n v) loc n = v % 256 ^ n ∧ sameMemOutside loc n s (storeAt by_ s loc n v) ∧
      (∀ w, isEmpty (storeAt by_ s loc n v) w = (isEmpty s w && decide (w * 8 + 8 ≤ loc ∨ loc + n ≤ w * 8 ∨ n = 0))) ∧
      { storeAt by_ s loc n v with mem := s.mem, empties := s.empties, relrec := s.relrec } = s)

/-- Every step keeps memory in its canonical form, from every state that has it. -/
def Obligations.EveryStepKeepsMemoryCanonical : Prop :=
  ∀ s t : State, Memory.wf s → step s = .next t → Memory.wf t

/-- R78 to R81, R94 and R102: every bundle that stands for an encoding decodes from its encoding to itself, up to the rows that share one
encoding (log 11, DEDUCED), and every 64 bits that decode are the encoding of what they decode to. -/
def Obligations.EncodingAndDecodingAgree : Prop :=
  (∀ (gang : Bool) (b : Bundle), bundleOk gang b = true →
    ∃ w, encodeBundle b = some w ∧ decodeBundle gang w = .ok { b with c := canonical b.c, a := canonical b.a }) ∧
  (∀ (gang : Bool) (w : W64) (b : Bundle), decodeBundle gang w = .ok b → bundleOk gang b = true ∧ encodeBundle b = some w)

/-- Words written out from the encoding tables of chapters 4, 5 and 7: the worked example of chapter 4 (LDW beside ADDI), LDW in its long form, the word of
zeros, ADD, BEQ and TRAP; and words that are refused: a reserved C-major and A-major and a reserved field (R102), with the word that R428
names, a double write of one register (R81) and RETT beside an A-word (R123). -/
def Obligations.WordsDecodeAsTheTablesSay : Prop :=
  decodeBundle false 0x10A500014E224002 = .ok ⟨true, .ldw 4 9 (.short 2) .plain, .addi 5 5 1⟩ ∧
  decodeBundle false 0x000100008E224000 = .ok ⟨false, .ldw 4 9 (.long 0x10000) .plain, .anop⟩ ∧
  decodeBundle false 0x0000000000000000 = .ok ⟨false, .nop, .anop⟩ ∧
  decodeBundle false (0b000001_00011_00001_00010_00000000000#32 ++ 0b0_1_000000_000000000000000000000000#32) = .ok ⟨true, .nop, .add 3 1 2⟩ ∧
  decodeBundle false (0x00000000#32 ++ 0b0_0_000010_00001_00010_11111111111111#32) = .ok ⟨false, .beq 1 2 0x3FFF, .anop⟩ ∧
  decodeBundle false (0x00000000#32 ++ 0b0_0_000001_000000000000101_000000000#32) = .ok ⟨false, .trap 5, .anop⟩ ∧
  (∀ s : Bool, decodeBundle false (0xFC000000#32 ++ (if s then 0x40000000#32 else 0)) = .error ⟨1, .reservedMajor⟩) ∧
  decodeBundle false (0x00000000#32 ++ 0x3F000000#32) = .error ⟨0, .reservedMajor⟩ ∧
  decodeBundle false (0x00000000#32 ++ 0x00000001#32) = .error ⟨0, .reservedField⟩ ∧
  (decodeBundle false (0b000001_00100_00001_00010_00000000000#32 ++ 0x0E224002#32)).toBool = false ∧
  (decodeBundle false (0b000001_00011_00001_00010_00000000000#32 ++ 0x01000001#32)).toBool = false

/-- R16, R79 and R82: a cycle in which its owner thread has a decoded bundle to issue runs the two words of it: both meanings are asked in the state that
the bundle sees, and when neither parks, waits nor traps, the C-word's effect and then the A-word's are made (log 21, DEDUCED), the bundle retires, the cycle counts as the
thread's issue, and the cycle ends: the results of units that are due are written, and the core's count goes up by one. -/
def Obligations.AStepRunsTheDecodedBundle : Prop :=
  ∀ (s s1 : State) (c u : Nat) (w : W64) (b : Bundle) (ta tc t : State),
    let th := thrAt s c u
    let x := issued s1 c u w
    let i := resolve x b.c
    s.agenda = [] → quietCycle s c u → idleThread th → fetch s c u = (.word w, s1) → thrAt s1 c u = th →
    decodeBundle (isGang th) w = .ok b → (bits w 24 6 ≠ 0x2A ∨ privileged s1 th = true) → portUses b = [] →
    actsLast i = false → exec b.a x = .next ta → ta.iss.phase = .going → exec i x = .next tc → tc.iss.phase = .going →
    exec b.a tc = .next t → t.iss.phase ≠ .parked → (retire t).iss.phase ≠ .parked →
    let y := { markIssue (retire t) c u th with iss := {} }
    step { s with agenda := [.turn c] } = endCycle exec sfuEnd ppaEnd c y ∧
    (dueAfter y c sfuEnd ppaEnd = [] → step { s with agenda := [.turn c] } = .next (modCore y c (fun k => { k with time := k.time + 1 })))

/-- R12, R82, R87 and R428: a bundle of the PRIV major at user privilege traps PRIV before it is decoded; one that does not decode traps ILLEGAL with the word
that is to blame; one that uses an unsettled register traps UNSETTLED with the word and the register (bit 5 set for a vector register): the registers that the C-word's
fields name, then those that it uses beside them (x0 to x3 of SPAWN and AMSEND, of FORK those that it writes or reads, R285, R288, R296), then those of the A-word's
fields. None has another effect. -/
def Obligations.BundlesTrapBeforeTheyIssue : Prop :=
  ∀ (s : State) (c u : Nat) (w : W64),
    let th := thrAt s c u
    let x := beginIssue s c u w (bits w 30 1 == 1)
    let uses := fun (b : Bundle) => (regUses b.c).map (fun r => (0, r)) ++
      (impliedRegs x c u b.c).map (fun n => (0, (⟨.scalar, BitVec.ofNat 5 n, true, false, false⟩ : RegUse))) ++ (regUses b.a).map (fun r => (1, r))
    (∀ rd ra rb ext, impliedRegs x c u (.spawn rd ra rb ext) = [0, 1, 2, 3] ∧ ∀ tag, impliedRegs x c u (.amsend ra rb tag ext) = [0, 1, 2, 3]) ∧
    (bits w 24 6 = 0x2A → privileged s th = false → issueWord exec s c u w = .next (takeTrap x 0 0x02 0)) ∧
    (bits w 24 6 ≠ 0x2A ∨ privileged s th = true →
      (∀ e, decodeBundle (isGang th) w = .error e → issueWord exec s c u w = .next (takeTrap x e.word 0x01 0)) ∧
      (∀ b, decodeBundle (isGang th) w = .ok b →
        th.keep = none →
        (∀ n r, (∃ l k, uses b = l ++ (n, r) :: k ∧ (∀ q ∈ l, markOf th q.2 = none)) → r.cls = .scalar →
          th.marksX.getLsbD r.num.toNat = true → issueWord exec s c u w = .next (takeTrap x n 0x03 (BitVec.ofNat 64 r.num.toNat))) ∧
        (∀ n r, (∃ l k, uses b = l ++ (n, r) :: k ∧ (∀ q ∈ l, markOf th q.2 = none)) → r.cls = .vector →
          th.marksV.getLsbD r.num.toNat = true → issueWord exec s c u w = .next (takeTrap x n 0x03 (BitVec.ofNat 64 (32 + r.num.toNat))))))

/-- R129 and R259: what the leading thread of a twin reads itself enters the load-value queue, 32 entries at most, and the trailing thread takes the oldest entry
instead of reading; without one it waits TWIN. TSTAMP takes one stamp, of which both have the value, and WAITEV one event word.

R129, R160, R259: a load of a twin: the leading thread issues the access, and an entry of the load-value queue awaits its value; the trailing thread takes the oldest
value and issues none. The value enters the queue as the access is performed. The ports of a bundle are popped by the leading thread, and the trailing thread
has the entries from the queue. (A trailing thread checks its address as the leading one does: log 17, DEDUCED.)

R172 and R259: a store of the leading thread waits at the comparator, and while it does, it is not performed; when the trailing thread issues the same one, the entry
leaves, and memory is still as it was: the one access of the pair then goes. A store that differs kills the pair, and SDC is sent with the stored address. -/
def Obligations.TwinsShareWhatTheyRead : Prop :=
  (∀ (s : State) (rd : Reg),
    let c := s.iss.core
    let u := s.iss.slot
    let th := me s
    isTwin th = true → rd.toNat < 16 → (∀ v, parkedFor (thrAt s c v) .twin = false) →
    ∀ r ∈ [SReg.seat, .tid, .time, .tags, .tagerr, .events, .lease, .part, .cappool, .capslice, .caphbm],
      (isTrail th = false → th.lvq.length < 32 →
        becomes (.gets rd r) s { th with
          x := tput th.x rd.toNat (readSReg s r), lvq := th.lvq ++ [(0, some ((readSReg s r).zeroExtend 256))] }) ∧
      (isTrail th = false → 32 ≤ th.lvq.length → holds (.gets rd r) s .twin 0 0) ∧
      (isTrail th = true → 0 < u → (thrAt s c (u - 1)).lvq = [] → holds (.gets rd r) s .twin 0 0) ∧
      (∀ n v l, isTrail th = true → 0 < u → (thrAt s c (u - 1)).lvq = (n, some v) :: l →
        ∃ t, exec (.gets rd r) s = .next t ∧ thrAt t c u = { th with x := tput th.x rd.toNat (v.truncate 64) } ∧
          thrAt t c (u - 1) = { thrAt s c (u - 1) with lvq := l } ∧ onlyCore c s t)) ∧
  (∀ (s : State) (rd ra : Reg),
    let c := s.iss.core
    let u := s.iss.slot
    let th := me s
    let stamp := (stampCore s c).1
    let ev := th.events &&& (readX s ra).extractLsb' 0 4
    isTwin th = true → rd.toNat < 16 → (∀ v, parkedFor (thrAt s c v) .twin = false) →
      (isTrail th = false → th.lvq.length < 32 →
        (∃ t, exec (.tstamp rd) s = .next t ∧ onlyCore c s t ∧ (coreAt t c).clock = stamp ∧
          thrAt t c u = { th with x := tput th.x rd.toNat stamp, lvq := th.lvq ++ [(0, some (stamp.zeroExtend 256))] }) ∧
        (th.reply = none → ev ≠ 0 → becomes (.waitev rd ra) s { th with
          x := tput th.x rd.toNat (ev.zeroExtend 64), lvq := th.lvq ++ [(0, some ((ev.zeroExtend 64 : W64).zeroExtend 256))] })) ∧
      (∀ n v l, isTrail th = true → 0 < u → (thrAt s c (u - 1)).lvq = (n, some v) :: l → ∀ i ∈ [Instr.tstamp rd, .waitev rd ra],
        ∃ t, exec i s = .next t ∧ thrAt t c u = { th with x := tput th.x rd.toNat (v.truncate 64) } ∧
          thrAt t c (u - 1) = { thrAt s c (u - 1) with lvq := l } ∧ onlyCore c s t ∧ (coreAt t c).clock = (coreAt s c).clock)) ∧
  (∀ (s : State) (rd ra : Reg) (off : Off) (ord : Order),
    let c := s.iss.core
    let u := s.iss.slot
    isTwin (me s) = true → rd.toNat < 16 → accessReady s ord = true → (∀ v, parkedFor (thrAt s c v) .twin = false) →
    ∀ p ∈ [(Instr.ldb rd ra off ord, 1, true), (.ldbu rd ra off ord, 1, false), (.ldh rd ra off ord, 2, true), (.ldhu rd ra off ord, 2, false),
        (.ldw rd ra off ord, 4, true), (.ldwu rd ra off ord, 4, false), (.ldd rd ra off ord, 8, false)],
      let a := cmAddress s ra off p.2.1
      (isTrail (me s) = false → 32 ≤ (me s).lvq.length → parks p.1 s .twin 0 0) ∧
      (isTrail (me s) = false → (me s).lvq.length < 32 → checked p.1 s (.load p.2.2) ord { r := true } p.2.1 [(0, a, 0)] (fun id ls ks s1 =>
        let m := (stampCore s1 c).1
        let s2 := forceOverlap (stampCore s1 c).2 c u (.load p.2.2) p.2.1 ls
        follows p.1 s s2 (.load p.2.2) false p.2.1 ls (∃ t, exec p.1 s = .next t ∧ onlyThread c u s2 t ∧ thrAt t c u = { me s2 with
          accs := (me s2).accs ++ [accessOf s2 id m (.load p.2.2) ord a p.2.1 (.scalar rd) ls ks], marksX := (me s2).marksX ||| markBit rd
          lvq := (me s2).lvq ++ [(id, none)] }))) ∧
      (isTrail (me s) = true → 0 < u → checked p.1 s (.load p.2.2) ord { r := true } p.2.1 [(0, a, 0)] (fun _ _ _ s1 =>
        ((∀ n v l, (thrAt s c (u - 1)).lvq ≠ (n, some v) :: l) → exec p.1 s = .next (holdMe s1 .twin)) ∧
        (∀ n v l, (thrAt s c (u - 1)).lvq = (n, some v) :: l → ∃ t, exec p.1 s = .next t ∧ onlyCore c s1 t ∧
          thrAt t c (u - 1) = { thrAt s1 c (u - 1) with lvq := l } ∧ thrAt t c u = { me s1 with
            x := tput (me s).x rd.toNat (if p.2.2 then (BitVec.ofNat (8 * p.2.1) v.toNat).signExtend 64 else v.setWidth 64) })))) ∧
  (∀ (s : State) (c u : Nat) (a : Access), accOf (thrAt s c u) a.id = some a → a.result = none → heldAcc (thrAt s c u) a.id = true →
      perform s c u a.id = s) ∧
  (∀ (th : Thread) (n : Nat) (v : W256) (l : List (Nat × Option W256)), th.lvq = (n, none) :: l → (∀ q ∈ l, q.1 ≠ n) →
      lvqFill th n v = { th with lvq := (n, some v) :: l }) ∧
  (∀ (s : State) (c u : Nat) (b : Bundle), isTwin (thrAt s c u) = true → popPorts b ≠ [] → (thrAt s c u).keep = none →
      let vs := popAll s c (popPorts b)
      let n := (popPorts b).length
      (isTrail (thrAt s c u) = false → (thrAt s c u).lvq.length + n ≤ 32 → popsOf s c u b = some (vs, modThr s c u (fun th => { th with
        lvq := th.lvq ++ vs.map (fun q => (0, some (q.2.setWidth 256))) }))) ∧
      (isTrail (thrAt s c u) = false → 32 < (thrAt s c u).lvq.length + n → popsOf s c u b = none) ∧
      (∀ (l : List W256) r, isTrail (thrAt s c u) = true → (thrAt s c (u - 1)).lvq = l.map (fun v => (0, some v)) ++ r → l.length = n →
        popsOf s c u b = some (List.zip (popPorts b) (l.map (fun v => v.setWidth 128)), modThr s c (u - 1) (fun th => { th with lvq := r })))) ∧
  (∀ (s : State) (rs ra : Reg) (off : Off),
    let c := s.iss.core
    let u := s.iss.slot
    let i := Instr.std rs ra off .plain
    let a := cmAddress s ra off 8
    let items := [(0, a, natX s rs % 256 ^ 8)]
    let entry := fun (id : Nat) (ls : List Lane) => (⟨s.iss.word.toNat, a, 8, 0, itemsCode items, some id, false, ls, 8⟩ : CmpEntry)
    isTwin (me s) = true → (∀ v, parkedFor (thrAt s c v) .twin = false) →
      (isTrail (me s) = false → accessReady s .plain = true → (me s).cmp.length < 16 → checked i s .store .plain { w := true } 8 items (fun id ls ks s1 =>
        let m := (stampCore s1 c).1
        let s2 := forceOverlap (stampCore s1 c).2 c u .store 8 ls
        follows i s s2 .store false 8 ls (∃ t, exec i s = .next t ∧ onlyThread c u s2 t ∧ thrAt t c u = { me s2 with
          accs := (me s2).accs ++ [accessOf s2 id m .store .plain a 8 .none ls ks], cmp := (me s2).cmp ++ [entry id ls] }))) ∧
      (isTrail (me s) = true → 0 < u → (me s).accs = [] → checked i s .store .plain { w := true } 8 items (fun id ls ks s1 =>
        let s2 := (stampCore s1 c).2
        (∀ f r, (thrAt s c (u - 1)).cmp = f :: r → sameEffect f (entry id ls) = true → ∃ t, exec i s = .next t ∧ onlyCore c s2 t ∧ thrAt t c u = me s2 ∧
          (thrAt t c (u - 1)).cmp = r ∧ (thrAt t c (u - 1)).accs = (thrAt s c (u - 1)).accs.map (fun b => if b.id = f.acc.getD 0 then { b with lanes := ls, leafs := ks } else b)) ∧
        (((thrAt s c (u - 1)).cmp = [] ∨ ∃ f r, (thrAt s c (u - 1)).cmp = f :: r ∧ sameEffect f (entry id ls) = false) → exec i s = .next (mismatch s2 a))))) ∧
  (∀ (s : State) (e : W64),
    let c := s.iss.core
    let u := s.iss.slot
    let th := me s
    isTrail th = true → th.slot = .trailing → u % 2 = 1 → (thrAt s c (u - 1)).slot = .ready ∨ (thrAt s c (u - 1)).slot = .parked →
      mboxById s (ctxAt s (thrAt s c (u - 1)).ctx).supcore 0 = none →
      (mismatch s e).iss.phase = .ended ∧ (thrAt (mismatch s e) c (u - 1)).slot = .killed ∧ (thrAt (mismatch s e) c u).slot = .killed ∧
      ({ ctx := (thrAt s c (u - 1)).ctx, core := (ctxAt s (thrAt s c (u - 1)).ctx).supcore, words := [(stampCore s c).1, BitVec.ofNat 64
        ((thrAt s c (u - 1)).tl * 2 ^ 38 + 0x41 * 2 ^ 29 + (u - 1) * 2 ^ 25 + c * 2 ^ 12 + (thrAt s c (u - 1)).ctx), s.iss.pc, e] } : SupMsg) ∈ (mismatch s e).sups)

/-! ## Memory instructions (chapter 7) -/

/-- R58, R59, R66, R68, R69, R70 and R74: which traps a translation gives before a table is read, and the places of scratchpad windows and of another
device's prefix.

R324 to R327 and R337: a global address whose page no cache holds is translated by the table of its context: a SHARED resident leaf with the rights the access
needs gives the frame and offset, one without them PROTECTION, a moving page a wait, no leaf TRANSLATION, a malformed entry PROTECTION.

R70, R71, R329 and R331: a page with a mask index is reached by the seats of the clusters in its mask, others trap GROUP_MASK; a PRIVATE page has one instance for each group
of its level, that of the prefix or of the seat, which must meet the mask, and a prefix finer than the level traps VP_INVALID; a REPLICA page has one for each die, and
traps REPLICA_STORE for a write. An instance without V traps TRANSLATION, a malformed one PROTECTION.

R67 and R328: the private window is translated by the tree of the context and the private identity alone. -/
def Obligations.AddressesTranslate : Prop :=
  (∀ (s : State) (w : Who) (rt : Rights) (a : W64) (n : Nat),
      let r := translate s w rt a n
      let ok := !straddles a n && prefixOk s (seatDevice w.seat) a
      let o := a.toNat % 2 ^ 31
      let q := a.toNat % 2 ^ 20
      let k := clusterOf w.core * 32 + a.toNat / 2 ^ 20 % 32
      (straddles a n = true → r = (.trap 0x05, s)) ∧
      (straddles a n = false → prefixOk s (seatDevice w.seat) a = false → r = (.trap 0x08, s)) ∧
      (ok = true → 0xD ≤ winOf a → a.toNat / 2 ^ 48 ≠ 0 → r = (.trap 0x08, s)) ∧
      (ok = true → winOf a = 0xC → r = (.trap 0x09, s)) ∧
      (ok = true → winOf a = 0xE → a.toNat / 2 ^ 48 = 0 → rt.x = false →
        (a.toNat / 2 ^ 31 % 2 ^ 13 ≠ w.core → r = (.trap 0x06, s)) ∧
        (a.toNat / 2 ^ 31 % 2 ^ 13 = w.core → liveFor s w.core w.ctx = false → r = (.trap 0x07, s)) ∧
        (a.toNat / 2 ^ 31 % 2 ^ 13 = w.core → liveFor s w.core w.ctx = true → shareBytes (coreAt s w.core) ≤ o → r = (.trap 0x0A, s)) ∧
        (a.toNat / 2 ^ 31 % 2 ^ 13 = w.core → liveFor s w.core w.ctx = true → o < shareBytes (coreAt s w.core) →
          r = (.reaches (.here (scratchLoc w.core o)) [], s))) ∧
      (ok = true → winOf a = 0xD → a.toNat / 2 ^ 48 = 0 → rt.x = false →
        (a.toNat / 2 ^ 25 % 2 ^ 19 ≠ 0 → r = (.trap 0x0A, s)) ∧
        (a.toNat / 2 ^ 25 % 2 ^ 19 = 0 →
          (liveFor s k w.ctx = false → r = (.trap 0x07, s)) ∧
          (liveFor s k w.ctx = true → shareBytes (coreAt s k) ≤ q → r = (.trap 0x0A, s)) ∧
          (liveFor s k w.ctx = true → q < shareBytes (coreAt s k) → r = (.reaches (.here (scratchLoc k q)) [], s)))) ∧
      (ok = true → winOf a ≤ 0xB → vLevel a = 4 → vIndex a ≠ seatDevice w.seat →
        r = (if routeState s (vIndex a) = 2 then .trap 0x07 else .reaches (.peer (vIndex a) a) [], s))) ∧
  (∀ (s : State) (w : Who) (rt : Rights) (a : W64) (n : Nat),
      let va := a.toNat % 2 ^ 48
      let r := (translate s w rt a n).1
      straddles a n = false → prefixOk s (seatDevice w.seat) a = true → winOf a ≤ 0xB → vLevel a < 4 → seatCluster w.seat < 160 →
      (tlbOf s w).all (fun e => !covers e.key w.ctx none va) = true →
      (leafGlobal s w.ctx va = .absent → r = .trap 0x09) ∧
      (leafGlobal s w.ctx va = .bad → r = .trap 0x0A) ∧
      (∀ k, leafGlobal s w.ctx va = .wait k → r = .wait k ∧ (translate s w rt a n).2 = startExit s k) ∧
      (∀ e word comp b, leafGlobal s w.ctx va = .leaf e word comp b →
        let frame := nbits word 6 37 * 64
        let rights := (!rt.r || word.testBit 2) && (!rt.w || word.testBit 3) && (!rt.x || word.testBit 4) &&
          (!word.testBit 5 || (ctxAt s w.ctx).priv)
        (nbits word 46 2 = 1 → r = .wait none) ∧
        (nbits word 46 2 = 0 → nbits comp 0 2 = 0 → nbits comp 40 8 = 0 → (rights = false → r = .trap 0x0A) ∧
          (rights = true → (answerOf s (frame + va % 2 ^ b) = .now → r = .reaches (.here (frame + va % 2 ^ b)) [⟨w.ctx, none, va / 2 ^ b * 2 ^ b, b⟩]) ∧
            (∀ k, answerOf s (frame + va % 2 ^ b) = .wait k → r = .wait k) ∧ (answerOf s (frame + va % 2 ^ b) = .unbacked → r = .trap 0x0A))) ∧
        (∀ mask : Nat, nbits word 46 2 = 0 →
          (nbits comp 40 8 = 0 ∧ mask = 2 ^ 160 - 1 ∨ nbits comp 40 8 ≠ 0 ∧
            let m := (ctxAt s w.ctx).groot.toNat + 16 * 0x180
            let l := nbits (readBytes s m 8) 13 30 * 8192 + 32 * nbits comp 40 8
            answerOf s m = .now ∧ nbits (readBytes s m 8) 0 1 = 1 ∧ answerOf s l = .now ∧ mask = readBytes s l 32) →
          (2 ^ 160 ≤ mask → r = .trap 0x0A) ∧
          (mask < 2 ^ 160 → mask.testBit (seatCluster w.seat) = false → r = .trap 0x0B) ∧
          (mask < 2 ^ 160 → mask.testBit (seatCluster w.seat) = true →
            let lands := fun (f : Nat) => (rights = false → r = .trap 0x0A) ∧ (rights = true →
              (answerOf s (f + va % 2 ^ b) = .now → r = .reaches (.here (f + va % 2 ^ b)) [⟨w.ctx, none, va / 2 ^ b * 2 ^ b, b⟩]) ∧
              (∀ k, answerOf s (f + va % 2 ^ b) = .wait k → r = .wait k) ∧ (answerOf s (f + va % 2 ^ b) = .unbacked → r = .trap 0x0A))
            let instance_ := fun (g : Nat) =>
              let v := readBytes s (frame + 8 * g) 8
              let f := nbits v 16 27 * 65536
              answerOf s (frame + 8 * g) = .now →
                (nbits v 0 1 = 0 → r = .trap 0x09) ∧ (nbits v 0 1 = 1 → nbits v 43 21 ≠ 0 ∨ nbits v 1 15 ≠ 0 ∨ f % 2 ^ b ≠ 0 → r = .trap 0x0A) ∧
                (nbits v 0 1 = 1 → nbits v 43 21 = 0 → nbits v 1 15 = 0 → f % 2 ^ b = 0 → lands f)
            (nbits comp 0 2 = 0 → lands frame) ∧
            (nbits comp 0 2 = 1 →
              let l := nbits comp 8 2
              let g := if vLevel a = 0 then seatGroup w.seat l else up (vLevel a) (vIndex a) l
              let met := (List.range 160).any (fun k => mask.testBit k && decide ((if l = 1 then clusterOf g = k else if l = 2 then g = k else dieOf k = g)))
              (l < vLevel a → r = .trap 0x08) ∧ (vLevel a ≤ l → 1 ≤ l → met = false → r = .trap 0x0B) ∧ (vLevel a ≤ l → 1 ≤ l → met = true → instance_ g)) ∧
            (nbits comp 0 2 = 2 → (rt.w = true → r = .trap 0x0C) ∧
              (rt.w = false → instance_ (if vLevel a = 0 then seatDie w.seat else up (vLevel a) (vIndex a) 3))))))) ∧
  (∀ (s : State) (w : Who) (rt : Rights) (a : W64) (n : Nat),
      let va := a.toNat % 2 ^ 44
      let r := (translate s w rt a n).1
      straddles a n = false → a.toNat / 2 ^ 48 = 0 → winOf a = 0xF →
      (tlbOf s w).all (fun e => !covers e.key w.ctx (some w.privid) va) = true →
      (leafPrivate s w.ctx w.privid va = .absent → r = .trap 0x09) ∧ (leafPrivate s w.ctx w.privid va = .bad → r = .trap 0x0A) ∧
      (∀ k, leafPrivate s w.ctx w.privid va = .wait k → r = .wait k) ∧
      (∀ e word comp b, leafPrivate s w.ctx w.privid va = .leaf e word comp b →
        let f := nbits word 6 37 * 64 + va % 2 ^ b
        let rights := (!rt.r || word.testBit 2) && (!rt.w || word.testBit 3) && (!rt.x || word.testBit 4) &&
          (!word.testBit 5 || (ctxAt s w.ctx).priv)
        (nbits word 46 2 = 1 → r = .wait none) ∧
        (nbits word 46 2 ≠ 1 → (rights = false → r = .trap 0x0A) ∧ (rights = true →
          (answerOf s f = .now → r = .reaches (.here f) [⟨w.ctx, some w.privid, va / 2 ^ b * 2 ^ b, b⟩]) ∧
          (∀ k, answerOf s f = .wait k → r = .wait k) ∧ (answerOf s f = .unbacked → r = .trap 0x0A)))) ∧
      ∀ id, leafPrivate s w.ctx id va = (
        let e := (ctxAt s w.ctx).proot.toNat + 8 * id
        let root := readBytes s e 8
        match answerOf s e with
        | .unbacked => .unbacked
        | .wait k => .wait k
        | .now => if root = 0 then .absent else match walkFrom s va 4 (nbits root 13 30 * 8192) with
          | .leaf e x c b => if nbits c 0 2 = 0 ∧ nbits c 8 2 = 0 ∧ nbits c 40 8 = 0 then .leaf e x c b else .bad
          | o => o))

/-- R155, R159, R160, R176 and R177: the loads and the gather issue their accesses with the addresses, sizes and destinations of their rows.

R155, R161, R165, R167, R170, R176 and R177: the stores, the scatter, STx.X, FEMPTY and the AMOs issue their writes with the addresses, sizes and data of their rows;
a loose store or scatter goes to the loose buffer. The destination of an AMO receives the old value. -/
def Obligations.LoadsStoresAndAtomicsIssueTheirAccesses : Prop :=
  (∀ (s : State) (rd ra rb : Reg) (off : Off) (ord : Order) (sz : BitVec 2) (m : MaskNo) (ext : Ext),
      isTwin (me s) = false → isTrail (me s) = false →
      let rt : Rights := { r := true }
      let halves_ := fun (ls : List Lane) => if ganged s then ls.flatMap splitHalves else ls
      (∀ p ∈ [(Instr.ldb rd ra off ord, 1, true), (.ldbu rd ra off ord, 1, false), (.ldh rd ra off ord, 2, true), (.ldhu rd ra off ord, 2, false),
          (.ldw rd ra off ord, 4, true), (.ldwu rd ra off ord, 4, false), (.ldd rd ra off ord, 8, false)],
        issuesRead p.1 s (.load p.2.2) ord rt p.2.1 (cmAddress s ra off p.2.1) [(0, cmAddress s ra off p.2.1, 0)] (.scalar rd) id p.2.1) ∧
      (let n := if ganged s then 32 else 16
       issuesRead (.ldv rd ra off ord) s .loadV ord rt n (cmAddress s ra off n) [(0, cmAddress s ra off n, 0)] (.vector rd) halves_ 16) ∧
      (let w := 8 * 2 ^ sz.toNat
       issuesRead (.vgath rd ra rb ord sz m ext) s .gather ord rt (w / 8) (crAddress s ra ext)
        (((List.range (laneCount s w)).filter (on (readM s m))).map (fun k => (k * (w / 8),
          crAddress s ra ext + BitVec.ofInt 64 (intOf true w (lane (readV s rb) w k) * (w / 8 : Nat)), 0))) (.vector rd) id (w / 8))) ∧
  (∀ (s : State) (rd ra rb : Reg) (off : Off) (ord : Order) (w4 : Bool) (sz : BitVec 2) (m : MaskNo) (ext : Ext),
      isTwin (me s) = false → isTrail (me s) = false →
      let n := if w4 then 4 else 8
      let x := crAddress s ra ext
      let vn := if ganged s then 32 else 16
      let w := 8 * 2 ^ sz.toNat
      let halves_ := fun (ls : List Lane) => if ganged s then ls.flatMap splitHalves else ls
      let vitem := [(0, cmAddress s ra off vn, (readV s rd).toNat % 256 ^ vn)]
      let lanes := ((List.range (laneCount s w)).filter (on (readM s m))).map (fun k => (k * (w / 8),
        x + BitVec.ofInt 64 (intOf true w (lane (readV s rb) w k) * (w / 8 : Nat)), lane (readV s rd) w k))
      (∀ p ∈ [(Instr.stb rd ra off ord, 1), (.sth rd ra off ord, 2), (.stw rd ra off ord, 4), (.std rd ra off ord, 8)],
        let a := cmAddress s ra off p.2
        (ord ≠ .loose → issuesWrite p.1 s .store ord p.2 a [(0, a, natX s rd % 256 ^ p.2)] .none id p.2) ∧
        (ord = .loose → issuesLoose p.1 s .store p.2 a [(0, a, natX s rd % 256 ^ p.2)] id p.2)) ∧
      (ord ≠ .loose → issuesWrite (.stv rd ra off ord) s .store ord vn (cmAddress s ra off vn) vitem .none halves_ 16) ∧
      (ord = .loose → issuesLoose (.stv rd ra off ord) s .store vn (cmAddress s ra off vn) vitem halves_ 16) ∧
      (ord ≠ .loose → issuesWrite (.vscat rd ra rb ord sz m ext) s .scatter ord (w / 8) x lanes .none id (w / 8)) ∧
      (ord = .loose → issuesLoose (.vscat rd ra rb ord sz m ext) s .scatter (w / 8) x lanes id (w / 8)) ∧
      (ord ≠ .loose →
        issuesWrite (.stwX rd ra ord ext) s (.feStore true) ord 4 x [(0, x, natX s rd % 2 ^ 32)] .none id 4 ∧
        issuesWrite (.stdX rd ra ord ext) s (.feStore true) ord 8 x [(0, x, natX s rd % 2 ^ 64)] .none id 8 ∧
        issuesWrite (.fempty ra ord ext) s .feEmpty ord 8 x [(0, x, 0)] .none id 8) ∧
      (∀ p ∈ [(Instr.amoadd rd ra rb ord w4 ext, 0), (.amoand rd ra rb ord w4 ext, 1), (.amoor rd ra rb ord w4 ext, 2),
          (.amoxor rd ra rb ord w4 ext, 3), (.amomin rd ra rb ord w4 ext, 4), (.amomax rd ra rb ord w4 ext, 5),
          (.amominu rd ra rb ord w4 ext, 6), (.amomaxu rd ra rb ord w4 ext, 7), (.amoswap rd ra rb ord w4 ext, 8),
          (.amocas rd ra rb ord w4 ext, 9)],
        let c := if p.2 = 9 then natX s rd % 256 ^ n else 0
        issuesWrite p.1 s (.amo p.2 c) ord n x [(c, x, natX s rb % 256 ^ n)] (.scalar rd) (fun ls => ls.map (fun l => { l with off := 0 })) n))

/-- R160, R161, R167 and R170: a piece of an access of a core whose loose buffer is empty, at a location of this device: what it reads, what it writes, and what an
atomic writes back. A write with a core-scope release records its core with every word of its bytes. The stamp of an access reaches its target (R29). -/
def Obligations.AccessesActOnTheirBytes : Prop :=
  ∀ (s : State) (c u : Nat) (a : Access) (l : Lane) (loc : Nat),
    (coreAt s c).loose = [] → l.place = .here loc →
    let n := a.size
    let v := readBytes s loc n
    let x := BitVec.ofNat (8 * n) v
    let y := BitVec.ofNat (8 * n) l.data
    (∀ sgn, a.op ∈ [AccOp.load sgn, .loadV, .gather] → ∃ t, performLane s c u a l = (v, t) ∧ clocked s t) ∧
    (a.op ∈ [AccOp.store, .scatter] → s.feWait = [] → ∃ t, performLane s c u a l = (0, t) ∧ readBytes t loc n = l.data % 256 ^ n ∧
      sameMemOutside loc n s t ∧ clocked s { t with mem := s.mem, empties := s.empties, relrec := s.relrec } ∧
      (a.order = .rel .core → ∀ i < n, recordOf t (wordNo (loc + i)) = some c)) ∧
    (∀ op k, a.op = .amo op k → op < 10 → s.feWait = [] → ∃ t, performLane s c u a l = (v, t) ∧ sameMemOutside loc n s t ∧
      clocked s { t with mem := s.mem, empties := s.empties, relrec := s.relrec } ∧
      readBytes t loc n = (match op with
        | 0 => (v + l.data) % 256 ^ n
        | 1 => (x &&& y).toNat
        | 2 => (x ||| y).toNat
        | 3 => (x ^^^ y).toNat
        | 4 => if x.toInt < y.toInt then v else l.data % 256 ^ n
        | 5 => if x.toInt < y.toInt then l.data % 256 ^ n else v
        | 6 => min v (l.data % 256 ^ n)
        | 7 => max v (l.data % 256 ^ n)
        | 8 => l.data % 256 ^ n
        | _ => if v = k % 256 ^ n then l.data % 256 ^ n else v))

/-- R86, R89, R160, R170, R171 and R257: the result of the one plain access of a thread arrives: ACCESS_COMPLETE performs it if it is not performed yet, writes the result to
its destination, clears the mark, and the access is gone; a store has reached memory. RESULT_ARRIVAL does the same for a loose load by its index. A thread whose access has
read a poisoned line is killed instead (log 96, DESIGN CHOICE).

R161, R162, R18, R171, R173 and R381: the other events of accesses. LOOSE_BUFFER_DRAIN writes the head entry to memory, or leaves it there while its place is out of reach (a cluster in VIGIL then leaves it, R355), or, its scratchpad gone, drops it
and raises PEER_GONE in its thread (log 3, DESIGN CHOICE); DRAIN_REQUEST lets a promoting acquire go
on; AMO_COMBINE performs both AMOADDs, one after the other; REQUEST_REISSUE counts a reissue 20 µs after the last, two for a load and nine for a store or AMO, and restarts
the hold of the identity of one that was applied; REQUEST_FAIL kills the thread after the last reissue; neither counts a request held at a comparator, or one that was
answered "moving" or "waking"; IDENTITY_EXPIRY forgets an identity 200 µs old. -/
def Obligations.AccessesArriveAndWait : Prop :=
  (∀ (s : State) (c u : Nat) (a : Access) (loc d : Nat),
      let th := thrAt s c u
      th.accs = [a] → a.lanes = [⟨0, .here loc, d⟩] → a.result = none → a.drain = [] → th.cmp = [] → th.lvq = [] → isTwin th = false → isTrail th = false →
      blockedAt s loc = false → lineHeld s loc = false → (coreAt s c).loose = [] → th.slot ≠ .parked → th.marker = false → a.order = .plain ∨ a.order = .loose →
      let i := if a.order = .loose then Instr.resultArrival c u 0 else .accessComplete c u
      (poisonedAt s loc a.size = true → (∃ sgn, a.op = .load sgn) ∨ a.op = .loadV ∨ a.op = .gather ∨ (∃ o k, a.op = .amo o k) →
        exec i s = .next (ueKill (perform s c u a.id) c u)) ∧
      (poisonedAt s loc a.size = false ∨ a.op = .store →
      let v := readBytes s loc a.size
      (∀ sgn r, a.op = .load sgn → a.dest = .scalar r → r.toNat < 16 →
        makesClocked i s c u { th with
          accs := [], marksX := th.marksX &&& ~~~markBit r
          x := tput th.x r.toNat (if sgn then (BitVec.ofNat (8 * a.size) v).signExtend 64 else BitVec.ofNat 64 v) }) ∧
      (∀ r, a.op = .loadV → a.dest = .vector r → a.size = 16 → r.toNat < 16 →
        makesClocked i s c u { th with accs := [], marksV := th.marksV &&& ~~~markBit r, v := tput th.v r.toNat (BitVec.ofNat 128 v) }) ∧
      (a.op = .store → a.dest = .none → a.order = .plain → s.feWait = [] → nextClocked i s (fun t => thrAt t c u = { th with accs := [] } ∧
        readBytes t loc a.size = d % 256 ^ a.size ∧ sameMemOutside loc a.size s t ∧ (∃ e ∈ t.idents, sameIdentity s.number c u a.stamp e = true) ∧
        onlyThread c u s { t with mem := s.mem, empties := s.empties, relrec := s.relrec, idents := s.idents })) ∧
      (∀ op k r, a.op = .amo op k → a.dest = .scalar r → r.toNat < 16 → s.feWait = [] → nextClocked i s (fun t =>
        thrAt t c u = { th with
          accs := [], marksX := th.marksX &&& ~~~markBit r, x := tput th.x r.toNat ((BitVec.ofNat (8 * a.size) v).signExtend 64) } ∧
        onlyThread c u s { t with mem := s.mem, empties := s.empties, relrec := s.relrec, idents := s.idents } ∧
        sameMemOutside loc a.size s t ∧ ∃ e ∈ t.idents, sameIdentity s.number c u a.stamp e = true ∧ e.value = v)))) ∧
  (∀ (s : State) (c u : Nat),
      let th := thrAt s c u
      (∀ e l loc, (coreAt s c).loose = e :: l → e.place = .here loc → s.feWait = [] → (∀ v, parkedFor (thrAt s c v) .access = false) →
        let live := isScratch loc = false ∨ liveFor s (scratchCore loc) e.ctx = true
        (blockedAt s loc = true ∨ lineHeld s loc = true → exec (.looseBufferDrain c) s = .next (reachPlace s e.place)) ∧
        (blockedAt s loc = false → lineHeld s loc = false → live → nextClocked (.looseBufferDrain c) s (fun t =>
          readBytes t loc e.size = e.data % 256 ^ e.size ∧ sameMemOutside loc e.size s t ∧
          onlyCore c s { t with mem := s.mem, empties := s.empties, relrec := s.relrec, idents := s.idents } ∧
          coreAt t c = { coreAt s c with loose := l } ∧ ∃ q ∈ t.idents, sameIdentity s.number c e.slot e.stamp q = true)) ∧
        (blockedAt s loc = false → lineHeld s loc = false → ¬ live → isThread s c e.slot e.uid = true →
          ∃ t, exec (.looseBufferDrain c) s = .next t ∧ onlyCore c s t ∧ (coreAt t c).loose = l ∧
            thrAt t c e.slot = { thrAt s c e.slot with traps := (thrAt s c e.slot).traps ++ [⟨0x07, e.addr⟩] })) ∧
      (∀ a k, th.accs = [a] → a.drain = [k] → (coreAt s k).loose = [] →
        ((cluAt s (clusterOf k)).stopped = false → makesClocked (.drainRequest c u) s c u { th with accs := [{ a with drain := [] }] }) ∧
        ((cluAt s (clusterOf k)).stopped = true → exec (.drainRequest c u) s = .next s)) ∧
      (∀ d v a b, th.accs = [a] → (thrAt s d v).accs = [b] → (c, u) ≠ (d, v) → a.order = .plain → b.order = .plain → a.op = .amo 0 0 → b.op = .amo 0 0 →
        a.result = none → b.result = none → a.id ≠ b.id → a.size = b.size → a.lanes.map (·.place) = b.lanes.map (·.place) →
        exec (.amoCombine c u d v) s = .next (perform (perform s c u a.id) d v b.id)) ∧
      (∀ a, th.accs = [a] → (peerOf a.lanes).isNone → a.stage = .travel → a.since + 20000 ≤ (dieAt s (dieOfCore c)).ns →
        let lim := if onlyReads a = true ∨ a.op = .feLoad true then 2 else 9
        let held := heldAcc th a.id = true ∨ (a.result = none ∧ ∃ l ∈ a.lanes, answeredLater s l.place = true)
        (held → exec (.requestReissue c u 0) s = .next s ∧ exec (.requestFail c u 0) s = .next s) ∧
        (¬ held → a.tries < lim → ∃ t, exec (.requestReissue c u 0) s = .next t ∧ (thrAt t c u).accs = [{ a with
            tries := a.tries + 1, since := (dieAt s (dieOfCore c)).ns }] ∧ onlyThread c u s { t with idents := s.idents } ∧
          (∀ e ∈ s.idents, sameIdentity s.number c u a.stamp e = false → e ∈ t.idents) ∧
          ∀ v l loc d x, isWriting a = true → a.result = some (v :: l) → ⟨d, .here loc, x⟩ ∈ a.lanes →
            (⟨s.number, c, u, a.stamp, v, dieOfLoc loc, (dieAt s (dieOfLoc loc)).ns⟩ : Identity) ∈ t.idents) ∧
        (¬ held → lim ≤ a.tries → exec (.requestFail c u 0) s = .next (ueKill s c u))) ∧
      (∀ n q, s.idents[n]? = some q → q.since + 200000 ≤ (dieAt s q.die).ns →
        exec (.identityExpiry n) s = .next { s with idents := s.idents.eraseIdx n }))

/-- R164 to R166, R168: the full/empty instructions of a thread in no twin. One that holds its thread issues its request and waits ACCESS, and with the reply writes it and goes on;
a loose load of them issues like a load. -/
def Obligations.FullEmptyInstructionsWaitForTheirReply : Prop :=
  ∀ (s : State) (rd ra : Reg) (ord : Order) (ext : Ext),
    isTwin (me s) = false → isTrail (me s) = false →
    let x := crAddress s ra ext
    let th := me s
    let d := natX s rd
    ∀ p ∈ [(Instr.ldwF rd ra ord ext, AccOp.feLoad false, 4), (.lddF rd ra ord ext, .feLoad false, 8), (.ldwT rd ra ord ext, .feLoad true, 4),
        (.lddT rd ra ord ext, .feLoad true, 8), (.fstat rd ra ord ext, .feStat, 8), (.stwE rd ra ord ext, .feStore false, 4),
        (.stdE rd ra ord ext, .feStore false, 8)],
      let st := decide (p.2.1 = .feStore false)
      let rt : Rights := { r := !st, w := st || decide (p.2.1 = .feLoad true) }
      (ord = .loose → p.2.1 = .feLoad false ∨ p.2.1 = .feLoad true →
        issuesRead p.1 s p.2.1 ord rt p.2.2 x [(0, x, 0)] (.scalar rd) id p.2.2) ∧
      (ord ≠ .loose →
        (∀ v, th.reply = some v → s.drainReq = [] → exec p.1 s = .next
          (if st then modMe s (fun th => { th with reply := none }) else writeX (modMe s (fun th => { th with reply := none })) rd v)) ∧
        (th.reply = none → th.accs = [] → checked p.1 s p.2.1 ord rt p.2.2 [(0, x, if st then d % 256 ^ p.2.2 else 0)] (fun n ls ks s1 =>
          let m := (stampCore s1 s.iss.core).1
          let s2 := releaseSide (forceOverlap (stampCore s1 s.iss.core).2 s.iss.core s.iss.slot p.2.1 p.2.2 ls) ord
          follows p.1 s s2 p.2.1 (drainLeft s2 ord) p.2.2 ls (exec p.1 s = .next (holdMe (modMe s2 (fun th => { th with
            accs := th.accs ++ [accessOf s2 n m p.2.1 ord x p.2.2 .none ls ks] })) .access x)))))

/-- R163 to R168: a full/empty request at its word. A load of a full word is answered with its value, and one that takes leaves the word empty; a store of an
empty word fills it; a request that finds the word otherwise waits there, or is refused for want of room and sent again after 64 cycles. A wait longer than $fewait is cancelled, and
the thread traps FE_TIMEOUT.

R168: a full/empty wait that has lasted longer than $fewait is cancelled, and then the thread traps FE_TIMEOUT with the address and the request leaves its word.

R165 and R167: STx.X fills its word whether it was full or empty, a 4-byte one with zeros in the other half, and FEMPTY empties it. A fill of an empty word serves the loads that wait there
in the order of their arrival, up to the first that takes: that one leaves the word empty, and those behind it go on waiting. An emptied word is filled by the oldest store that waits there. A load
that reads a poisoned line is not answered: its thread is killed (R257; log 96, DESIGN CHOICE). -/
def Obligations.FullEmptyRequestsAndTheirTimeouts : Prop :=
  (∀ (s : State) (c u : Nat) (a : Access) (loc d : Nat),
      let th := thrAt s c u
      let w := wordNo loc
      let now := (coreAt s c).time
      let free := fun (v : W64) => { th with accs := [], reply := some v, slot := readySlot th, park := none }
      th.accs = [a] → a.lanes = [⟨0, .here loc, d⟩] → a.order = .plain → a.dest = .none → th.slot = .parked → th.inside.isSome = true →
      (∃ q, th.park = some q ∧ q.reason = .access) →
      (coreAt s c).loose = [] → s.feWait = [] → recordOf s w = none → blockedAt s loc = false → lineHeld s loc = false → (a.stage = .travel ∨ a.stage = .refused ∧ a.since + 64 ≤ now) →
      let i := if a.stage = .travel then Instr.feRequestArrival c u 0 else .feResend c u 0
      (∀ take, a.op = .feLoad take → isEmpty s w = false → poisonedAt s loc a.size = true →
        ∃ s1, clocked s s1 ∧ exec i s = .next (ueKill s1 c u)) ∧
      let waits := fun (reader : Bool) => ∃ t, exec i s = .next t ∧ sameMem s t ∧ (thrAt t c u).slot = .parked ∧
        (waitRoom s th.ctx loc reader = true → (thrAt t c u).accs = [{ a with stage := .waiting, since := now }] ∧
          (∃ q, (thrAt t c u).park = some q ∧ q.reason = .feWait) ∧ t.feWait = [⟨c, u, th.uid, a.id, loc, a.size, a.op, if reader then 0 else d, th.ctx⟩]) ∧
        (waitRoom s th.ctx loc reader = false → (thrAt t c u).accs = [{ a with stage := .refused, since := now }] ∧ t.feWait = [])
      (∀ take, a.op = .feLoad take → isEmpty s w = false → poisonedAt s loc a.size = false → ∃ t, exec i s = .next t ∧
        thrAt t c u = free ((BitVec.ofNat (8 * a.size) (readBytes s loc a.size)).signExtend 64) ∧
        (take = false → sameMem s t) ∧ (take = true → isEmpty t w = true ∧ readBytes t (w * 8) 8 = 0 ∧ sameMemOutside (w * 8) 8 s t)) ∧
      (∀ take, a.op = .feLoad take → isEmpty s w = true → waits true) ∧
      (a.op = .feStore false → isEmpty s w = true → a.size = 8 → loc % 8 = 0 → ∃ t, exec i s = .next t ∧ thrAt t c u = free 0 ∧ isEmpty t w = false ∧
        readBytes t loc 8 = d % 2 ^ 64 ∧ sameMemOutside loc 8 s t) ∧
      (a.op = .feStore false → isEmpty s w = false → waits false) ∧
      (a.op = .feStat → ∃ t, exec i s = .next t ∧ thrAt t c u = free (if isEmpty s w then 0 else 1) ∧ sameMem s t)) ∧
  (∀ (s : State) (c u : Nat) (a : Access),
      let th := thrAt s c u
      th.accs = [a] → a.stage = .waiting →
      (th.fewait = 0 ∨ (coreAt s c).time ≤ a.since + th.fewait.toNat → exec (.feTimeout c u 0) s = .next s) ∧
      (th.fewait ≠ 0 → a.since + th.fewait.toNat < (coreAt s c).time → makes (.feTimeout c u 0) s c u { th with accs := [{ a with cancel := true }] }) ∧
      (a.cancel = false → exec (.feCancel c u 0) s = .next s) ∧
      (a.cancel = true → a.order ≠ .loose → trapsItself s c u 0x0E → ∃ t, exec (.feCancel c u 0) s = .next t ∧
        (thrAt t c u).accs = [] ∧ (thrAt t c u).tl = th.tl + 1 ∧ (thrAt t c u).pc = th.hbase + BitVec.ofNat 64 (64 * 0x0E) ∧
        (levelOf (thrAt t c u) (th.tl + 1)).eaddr = a.addr ∧ (levelOf (thrAt t c u) (th.tl + 1)).epc = th.pc ∧
        ∀ q ∈ t.feWait, ¬ (q.id = a.id ∧ q.uid = th.uid))) ∧
  (∀ (s : State) (c u : Nat) (a : Access) (l : Lane) (loc : Nat), (coreAt s c).loose = [] → l.place = .here loc → s.feWait = [] →
      let w := wordNo loc
      (a.op = .feStore true → a.size = 4 ∨ a.size = 8 → loc % a.size = 0 → ∃ t, performLane s c u a l = (0, t) ∧ isEmpty t w = false ∧
        sameMemOutside (w * 8) 8 s t ∧ readBytes t (w * 8) 8 = l.data % 256 ^ a.size * 256 ^ (loc % 8)) ∧
      (a.op = .feEmpty → ∃ t, performLane s c u a l = (0, t) ∧ isEmpty t w = true ∧ sameMemOutside (w * 8) 8 s t ∧
        (isEmpty s w = false → readBytes t (w * 8) 8 = 0))) ∧
  (∀ (s : State) (c loc v : Nat) (rel : Bool) (l1 l2 : List FeWaiter) (r : FeWaiter),
      let w := wordNo loc
      let t := fill s c loc 8 v rel
      let answered := fun (q : FeWaiter) => ∀ a, isThread s q.core q.slot q.uid = true → (thrAt s q.core q.slot).accs = [a] → a.id = q.id → a.order = .plain → a.dest = .none →
        a.op = q.op → (thrAt t q.core q.slot).accs = [] ∧
          (thrAt t q.core q.slot).reply = some ((BitVec.ofNat (8 * q.size) (v / 256 ^ (q.loc - loc) % 256 ^ q.size)).signExtend 64)
      loc % 8 = 0 → isEmpty s w = true → (∀ q ∈ s.feWait, loc ≤ q.loc ∧ q.loc + q.size ≤ loc + 8 ∧ 0 < q.size ∧ isReader q = true) →
      s.feWait.Pairwise (fun p q => ¬ (p.id = q.id ∧ p.uid = q.uid) ∧ (p.core, p.slot) ≠ (q.core, q.slot)) →
      (s.feWait = l1 ++ r :: l2 → (∀ q ∈ l1, q.op = .feLoad false) → r.op = .feLoad true →
        t.feWait = l2 ∧ isEmpty t w = true ∧ readBytes t loc 8 = 0 ∧ sameMemOutside loc 8 s t ∧ ∀ q ∈ l1 ++ [r], answered q) ∧
      ((∀ q ∈ s.feWait, q.op = .feLoad false) →
        t.feWait = [] ∧ isEmpty t w = false ∧ readBytes t loc 8 = v % 2 ^ 64 ∧ sameMemOutside loc 8 s t ∧ ∀ q ∈ s.feWait, answered q)) ∧
  (∀ (s : State) (c w : Nat) (q : FeWaiter) (l : List FeWaiter),
      let t := emptyWord s c w
      s.feWait = q :: l → (∀ p ∈ l, isReader p = false ∧ ¬ (p.id = q.id ∧ p.uid = q.uid)) → isReader q = false → q.loc = w * 8 → q.size = 8 →
        t.feWait = l ∧ isEmpty t w = false ∧ readBytes t (w * 8) 8 = q.data % 2 ^ 64 ∧ sameMemOutside (w * 8) 8 s t ∧
        ∀ a, isThread s q.core q.slot q.uid = true → (thrAt s q.core q.slot).accs = [a] → a.id = q.id → a.order = .plain → a.op = .feStore false → a.dest = .none →
          (thrAt t q.core q.slot).accs = [] ∧ (thrAt t q.core q.slot).reply = some 0)

/-- R174, R175, R161, R77 and R178: fences and pointer functions. A fence performs the thread's earlier accesses and waits until none is outstanding (a status word
of QSTAT apart); with scope 1 or wider the loose buffer drains, and the fence waits while it cannot. A thread with nothing outstanding, whose core's buffer can drain, passes. The leading thread of
a twin waits while a loose store of it stands at the comparator (R172).

XFENCE, by the classes of R33 that it names: C, the thread's copies; M, its array commands and its copies into the FIFOs; N, its WANTs; S, its scans; L, nothing, since no
link agent writes for a thread's command (log 35, DEDUCED). While one of a named class is under way the thread waits ENGINE; when it has none of them itself, whatever other
threads have, it passes. -/
def Obligations.FencesAndPointerFunctions : Prop :=
  ∀ (s : State) (rd ra : Reg) (sc : Scope) (frm tgt : BitVec 5) (lvl : BitVec 3),
    let c := s.iss.core
    let a := readX s ra
    let seat := (was s).seat
    let ok := prefixOk s (seatDevice seat) a && (decide (winOf a < 0xD) || decide (a.toNat / 2 ^ 48 = 0)) && decide (winOf a ≠ 0xC)
    let core := a.toNat / 2 ^ 31 % 2 ^ 13
    let k := clusterOf c
    let uid := (me s).uid
    let copies := fun (p : CopyCmd → Prop) => ∃ j ∈ s.clusters, ∃ ch ∈ j.2.chans, ∃ q ∈ ch.2, q.uid = uid ∧ p q
    let commands := ∃ j ∈ s.clusters, (∃ q ∈ j.2.arr.cmdq, q.uid = uid) ∨ (∃ q, j.2.arr.cur = some q ∧ q.1.uid = uid) ∨
      ∃ d, j.2.arr.drain = some d ∧ d.cmd.uid = uid
    let wants := ∃ j ∈ s.clusters, ∃ q, Consumer.want q ∈ j.2.agent.cons ∧ q.uid = uid
    let pending := (frm.getLsbD 0 = true ∧ copies (fun _ => True)) ∨ (frm.getLsbD 1 = true ∧ (commands ∨ copies (fun q => q.dk = 1 ∨ q.dk = 2))) ∨
      (frm.getLsbD 2 = true ∧ wants) ∨ (frm.getLsbD 3 = true ∧ ∃ q ∈ s.scans, q.uid = uid)
    ((∀ q ∈ (me s).accs, q.drain = [] ∧ ∃ p, q.op = .qstat p) → storePending (me s) = false →
      (sc = .core → exec (.fence sc) s = .next s) ∧
      (sc ≠ .core → (cluAt s (clusterOf c)).stopped = false → (∀ e ∈ (coreAt s c).loose, outOfReach s e.place = false ∧ heldWrite s e.place = false) →
        exec (.fence sc) s = .next (drainAll s c) ∧ (coreAt (drainAll s c) c).loose = []) ∧
      (sc ≠ .core → (coreAt (drainAll s c) c).loose ≠ [] → exec (.fence sc) s = .next (holdMe (drainAll s c) .access))) ∧
    (storePending (me (forceThread s c s.iss.slot)) = true → exec (.fence sc) s = .next (holdMe (forceThread s c s.iss.slot) .twin)) ∧
    ((∃ q ∈ (me (forceThread s c s.iss.slot)).accs, ∀ p, q.op ≠ .qstat p) → storePending (me (forceThread s c s.iss.slot)) = false →
      exec (.fence sc) s = .next (holdMe (forceThread s c s.iss.slot) .access)) ∧
    (¬ pending → exec (.xfence frm tgt sc) s = .next s) ∧
    (pending → holds (.xfence frm tgt sc) s .engine (BitVec.ofNat 64 tgt.toNat) 0) ∧
    exec (.sptst rd ra) s = .next (writeX s rd (if ok then (if winOf a ≤ 0xB then 0 else BitVec.ofNat 64 (winOf a - 0xC)) else 4)) ∧
    exec (.spcast rd ra) s = .next (writeX s rd
      (if ok ∧ winOf a = 0xE ∧ core / 32 = k ∧ a.toNat % 2 ^ 31 < 2 ^ 20 then BitVec.ofNat 64 (0xD * 2 ^ 44 + core % 32 * 2 ^ 20 + a.toNat % 2 ^ 31)
      else if ok ∧ winOf a = 0xD ∧ a.toNat / 2 ^ 25 % 2 ^ 19 = 0 then
        BitVec.ofNat 64 (0xE * 2 ^ 44 + (k * 32 + a.toNat / 2 ^ 20 % 32) * 2 ^ 31 + a.toNat % 2 ^ 20)
      else 0)) ∧
    exec (.vpin rd ra lvl) s = .next (writeX s rd
      (if ok ∧ winOf a ≤ 0xB then BitVec.ofNat 64 (a.toNat % 2 ^ 48 + (if lvl = 0 then 0 else lvl.toNat * 2 ^ 61 + seatGroup seat lvl.toNat * 2 ^ 48)) else a))

/-! ## Queues and rings (chapter 11) -/

/-- R263, R265 and R271: PORT of a thread in no twin. The status is 5 without a scratchpad for the kinds that use the queue area, 2 for a bad word, 4 for a mailbox in use, 1
for another's exclusive port, 3 for a target core that is not live, 2 for a set with an entry that is not valid; else the port takes the binding with the thread as owner, or MBDEF defines its
mailbox, and the status is 0. (No thread waits at a port or holds a reservation in the clause on binding.) -/
def Obligations.PortsTakeTheirBindings : Prop :=
  ∀ (s : State) (rd ra rb : Reg) (q : BitVec 2), isTwin (me s) = false →
    let c := s.iss.core
    let u := s.iss.slot
    let s0 := commitPops s
    let w := readX s ra
    let k := w.toNat / 2 ^ 60
    let arg := w.toNat % 2 ^ 16
    let core := w.toNat / 2 ^ 16 % 2 ^ 13
    let n := natX s rb / 2 ^ 20 % 2 ^ 12
    let base := natX s rb % 2 ^ 20
    let e := w.toNat / 2 ^ 56 % 16
    let noArea := scratch (coreAt s0 c).part = 0
    let needsArea := k = 1 ∨ k = 2 ∨ k = 3 ∨ k = 6
    let bad := w.toNat / 2 ^ 48 % 64 ≠ 0 ∨ w.toNat / 2 ^ 29 % 2 ^ 18 ≠ 0 ∨ 7 ≤ k ∨ (k ≠ 6 ∧ w.toNat / 2 ^ 54 % 64 ≠ 0) ∨ (k = 6 ∧ w.toNat / 2 ^ 47 % 2 ≠ 0) ∨
      (k ≠ 3 ∧ core ≠ 0) ∨ ((k = 0 ∨ k = 4 ∨ k = 5) ∧ arg ≠ 0) ∨ (k = 1 ∧ 1 < arg)
    let fits := n = 0 ∨ base % 16 = 0 ∧ base + 16 * n ≤ scratch (coreAt s0 c).part * 8192 - 1024
    let inUse := (mbox s0 c e).count ≠ 0 ∨ mboxResvs s0 c e ≠ 0 ∨ ∃ j < 16, j ≠ e ∧ (mbox s0 c j).valid = true ∧ (mbox s0 c j).id = arg
    let b := portAt s0 c q.toNat
    let taken := bKind b.word ≠ 0 ∧ bExcl b.word = true ∧ b.owner ≠ u
    let gone := k = 3 ∧ liveFor s0 core (thrAt s0 c u).ctx = false
    let unset := k = 2 ∧ ∃ j < 16, arg.testBit j = true ∧ (mbox s0 c j).valid = false
    ∀ i ∈ [Instr.portUnbind rd q ra rb, .portNeighbour rd q ra rb, .portMbrecv rd q ra rb, .portMbsend rd q ra rb, .portArraycmd rd q ra rb,
        .portArrayres rd q ra rb, .portMbdef rd q ra rb],
      (noArea ∧ needsArea → exec i s = .next (writeX s0 rd 5)) ∧
      (¬ (noArea ∧ needsArea) → bad → exec i s = .next (writeX s0 rd 2)) ∧
      (¬ (noArea ∧ needsArea) → ¬ bad → k = 6 →
        (q ≠ 0 ∨ ¬ fits → exec i s = .next (writeX s0 rd 2)) ∧
        (q = 0 → fits → inUse → exec i s = .next (writeX s0 rd 4)) ∧
        (q = 0 → fits → ¬ inUse → n ≠ 0 → ∃ t, exec i s = .next (writeX t rd 0) ∧
          mbox t c e = ⟨base, n, true, w.toNat / 2 ^ 54 % 4, arg, 0, 0⟩ ∧ sameMemOutside (areaLoc s0 c + 0x200 + 16 * e) 16 s0 t ∧
          { t with mem := s0.mem } = s0)) ∧
      (¬ (noArea ∧ needsArea) → ¬ bad → k ≠ 6 →
        (taken → exec i s = .next (writeX s0 rd 1)) ∧
        (¬ taken → gone → exec i s = .next (writeX s0 rd 3)) ∧
        (¬ taken → unset → exec i s = .next (writeX s0 rd 2)) ∧
        (¬ taken → ¬ gone → ¬ unset → rd.toNat < 16 → (∀ v, (thrAt s0 c v).resv = [] ∧ parkedFor (thrAt s0 c v) .port = false) →
          ∃ t, exec i s = .next t ∧ onlyCore c s0 t ∧ sameOtherThreads c u s0 t ∧ thrAt t c u = { me s0 with x := tput (me s0).x rd.toNat 0 } ∧
            (∀ p, portAt t c p = if p = q.toNat then { word := w, owner := u } else portAt s0 c p) ∧
            { coreAt t c with threads := (coreAt s0 c).threads, ports := (coreAt s0 c).ports } = coreAt s0 c))

/-- R262, R267, R268, R270, R272 and R277: queues. A neighbour push carries its core's stamp, is due 8 cycles later in the target's queue and then enters it at the tail, after those made before it, latching $events.QUEUE of the owners of the
ports that pop it; the pop of a mailbox set serves the highest priority, in table order from the entry last popped; a reservation is accepted, refused as full, or faults the port; QSTAT
delivers the status word; a thread that waits $qwatch cycles at an empty neighbour queue sends a probe, which passes on through the awaited feeders, ends at any other core and after 32 hops, and at its
origin, when that is the lowest core of the set, reports each set once: QUEUE_CYCLE with the cluster and the cores.

R267, R270 and R272: a pop takes the head of the own neighbour queue, of the mailbox that the set chooses, or of the array's result queue, and what a bundle takes is what its port showed. The status word
holds kind, state, owner, exclusiveness, capacity (modulo 4,096: log 87, DESIGN CHOICE) and the entries of the queues pushed into and popped. -/
def Obligations.QueuesMoveTheirEntries : Prop :=
  ∀ (s : State) (c u : Nat) (rd : Reg) (q : BitVec 2),
    let th := thrAt s c u
    let k := coreAt s c
    let now := k.time
    (∀ p e, bKind (portAt s c p).word = 1 →
      let dir := bArg (portAt s c p).word % 2
      let d := clusterOf c * 32 + (c % 32 + (if dir = 0 then 1 else 31)) % 32
      let m := (stampCore s c).1
      let s1 := (stampCore s c).2
      onlyCore d s1 (portPush s c u p e) ∧ coreAt (portPush s c u p e) d = { coreAt s1 d with nb := (coreAt s1 d).nb ++ [⟨dir == 1, e, (coreAt s1 d).time + 8, m⟩] }) ∧
    (∀ n p, k.nb[n]? = some p → p.due < now → (∀ q ∈ k.nb.take n, q.up ≠ p.up) → areaHeld s c = false → nbCount s c p.up < 8 → ∃ t, exec (.neighbourArrival c n) s = .next t ∧
      (coreAt t c).nb = k.nb.eraseIdx n ∧ nbCount t c p.up = nbCount s c p.up + 1 ∧ nbHead t c p.up = nbHead s c p.up ∧
      readBytes t (nbSlot s c p.up (nbHead s c p.up + nbCount s c p.up)) 16 = p.entry.toNat ∧
      ∀ j < 4, popsNb p.up (portAt s c j).word = true → occupied (thrAt s c (portAt s c j).owner) = true →
        (thrAt t c (portAt s c j).owner).events.getLsbD 1 = true) ∧
    (∀ n p, k.nb[n]? = some p → (now ≤ p.due ∨ (∃ q ∈ k.nb.take n, q.up = p.up) ∨ areaHeld s c = true) → exec (.neighbourArrival c n) s = .next s) ∧
    (∀ set last i, mbChoice s c set last = some i → last < 16 →
      i < 16 ∧ set.testBit i = true ∧ (mbox s c i).valid = true ∧ 0 < (mbox s c i).count ∧
      ∀ j < 16, set.testBit j = true → (mbox s c j).valid = true → 0 < (mbox s c j).count →
        (mbox s c j).prio ≤ (mbox s c i).prio ∧ ((mbox s c j).prio = (mbox s c i).prio → (i + 15 - last) % 16 ≤ (j + 15 - last) % 16)) ∧
    (∀ p, th.slot = .parked → th.park = some p → p.reason = .port → p.obj.toNat < 4 → th.resv = [] → (p.aux = 1 ∨ p.aux = 3 ∧ p.since + 64 ≤ now) →
      let w := (portAt s c p.obj.toNat).word
      let d := w.toNat / 2 ^ 16 % 2 ^ 13
      let i := if p.aux = 1 then Instr.mbReservation c u else .mbReservationResend c u
      let faults := fun (cause : W64) => ∃ t, exec i s = .next t ∧ (portAt t c p.obj.toNat).faulted = true ∧
        thrAt t c u = { th with reply := some cause, slot := readySlot th, park := none }
      w.toNat / 2 ^ 60 = 3 → ((cluAt s (clusterOf d)).stopped = true → exec i s = .next s) ∧ ((cluAt s (clusterOf d)).stopped = false →
        (liveFor s d th.ctx = false → faults 0x07) ∧
        (liveFor s d th.ctx = true → mboxById s d (w.toNat % 2 ^ 16) = none → faults 0x0A) ∧
        (∀ n, liveFor s d th.ctx = true → mboxById s d (w.toNat % 2 ^ 16) = some n →
          (mboxFree s d n = 0 → makes i s c u { th with park := some { p with aux := 3, since := now } }) ∧
          (mboxFree s d n ≠ 0 → ∃ t, exec i s = .next t ∧
            thrAt t c u = { th with resv := [(p.obj.toNat, n)], slot := readySlot th, park := none } ∧
            (coreAt t d).resvs = (coreAt s d).resvs ++ [⟨n, c, u, th.uid, p.obj.toNat, none⟩])))) ∧
    (isTwin (me s) = false → isTrail (me s) = false → ∃ t, exec (.qstat rd q) s = .next t ∧
      onlyThread s.iss.core s.iss.slot { s with fresh := s.fresh + 1 } t ∧
      thrAt t s.iss.core s.iss.slot = setMark { me s with
        accs := (me s).accs ++ [accessOf s (s.fresh + 1) 0 (.qstat q.toNat) .loose 0 8 (.scalar rd) [] []] } (.scalar rd)) ∧
    (∀ a p, th.accs = [a] → a.op = .qstat p → a.size = 8 → a.dest = .scalar rd → rd.toNat < 16 → th.lvq = [] → th.slot ≠ .parked → th.marker = false →
      makes (.resultArrival c u 0) s c u { th with
        accs := [], marksX := th.marksX &&& ~~~markBit rd, x := tput th.x rd.toNat (qstatWord s c p) } ∧
      (bKind (portAt s c p).word = 0 → qstatWord s c p = 0)) ∧
    (∀ p, th.slot = .parked → th.park = some p → p.reason = .port → p.aux = 0 → p.obj.toNat < 4 → bKind (portAt s c p.obj.toNat).word = 1 →
      (k.qwatch = 0 ∨ now < p.since + k.qwatch.toNat → exec (.qwatchExpiry c u) s = .next s) ∧
      (k.qwatch ≠ 0 → p.since + k.qwatch.toNat ≤ now → ∃ t, exec (.qwatchExpiry c u) s = .next t ∧
        t.probes = s.probes ++ [⟨c, u, nbTarget c (bArg (portAt s c p.obj.toNat).word % 2), [c], 0⟩] ∧
        thrAt t c u = { th with park := some { p with since := now } })) ∧
    (∀ p, s.probes = [p] →
      (p.at_ = p.origin → awaitedFeeder s p.origin p.slot = none → exec (.queueProbe 0) s = .next { s with probes := [] }) ∧
      (p.at_ = p.origin → (∃ x ∈ p.seen, x < p.origin) ∨ p.seen ∈ (thrAt s p.origin p.slot).probed → exec (.queueProbe 0) s = .next { s with probes := [] }) ∧
      (∀ f, p.at_ = p.origin → awaitedFeeder s p.origin p.slot = some f → (∀ x ∈ p.seen, p.origin ≤ x) → p.seen ∉ (thrAt s p.origin p.slot).probed →
        noSupervisor s (thrAt s p.origin p.slot).ctx →
        let o := thrAt s p.origin p.slot
        ∃ t, exec (.queueProbe 0) s = .next t ∧ t.probes = [] ∧ thrAt t p.origin p.slot = { o with probed := o.probed ++ [p.seen] } ∧
          t.sups = s.sups ++ [{ ctx := o.ctx, core := (ctxAt s o.ctx).supcore, words := [(stampCore s p.origin).1, threadWord o.tl false 0x44 p.slot p.origin o.ctx, o.pc,
            BitVec.ofNat 64 (clusterOf p.origin * 2 ^ 32 + (p.seen.map (fun x => 2 ^ (x % 32))).sum)] }]) ∧
      (p.at_ ≠ p.origin → 31 ≤ p.hops ∨ (∃ v < 16, occupied (thrAt s p.at_ v) = true ∧ isUpper (thrAt s p.at_ v) = false ∧
          (thrAt s p.at_ v).ctx = (thrAt s p.origin p.slot).ctx ∧ awaitedFeeder s p.at_ v = none) → exec (.queueProbe 0) s = .next { s with probes := [] }) ∧
      (p.at_ ≠ p.origin → p.hops < 31 → (∀ v < 16, (thrAt s p.at_ v).slot ≠ .free → isUpper (thrAt s p.at_ v) = false → (thrAt s p.at_ v).ctx = (thrAt s p.origin p.slot).ctx →
          ∃ f, awaitedFeeder s p.at_ v = some f) →
        ∃ t, exec (.queueProbe 0) s = .next t ∧ { t with probes := s.probes } = s ∧
          ∀ f, (∃ v < 16, (thrAt s p.at_ v).slot ≠ .free ∧ isUpper (thrAt s p.at_ v) = false ∧ (thrAt s p.at_ v).ctx = (thrAt s p.origin p.slot).ctx ∧ awaitedFeeder s p.at_ v = some f) →
            { p with at_ := f, seen := insertRising p.at_ p.seen, hops := p.hops + 1 } ∈ t.probes)) ∧
    (∀ p, (∀ e, popSource s c p = some e → portFront s c p = some e.entry ∧ takeEntry s c e = portPop s c p) ∧
      (portFront s c p = none → popSource s c p = none) ∧
      let w := (portAt s c p).word
      (bKind w = 1 →
        let up := decide (bArg w % 2 = 0)
        (areaHeld s c = true ∨ nbCount s c up = 0 → portFront s c p = none) ∧
        (areaHeld s c = false → 0 < nbCount s c up → portFront s c p = some (BitVec.ofNat 128 (readBytes s (nbSlot s c up (nbHead s c up)) 16)) ∧
          nbCount (portPop s c p) c up = nbCount s c up - 1 ∧ nbHead (portPop s c p) c up = (nbHead s c up + 1) % 8 ∧
          nbCount (portPop s c p) c (!up) = nbCount s c (!up) ∧ sameMemOutside (areaLoc s c + 0x100) 16 s (portPop s c p))) ∧
      (bKind w = 2 → areaHeld s c = false → ∀ i, mbChoice s c (bArg w) (portAt s c p).last = some i →
        let m := mbox s c i
        portFront s c p = some (BitVec.ofNat 128 (readBytes s (scratchLoc c (m.base + 16 * m.head)) 16)) ∧ (portAt (portPop s c p) c p).last = i ∧
          (m.slots ≤ 4095 → m.count ≤ 8191 → 0 < m.slots → m.head < m.slots →
            mbox (portPop s c p) c i = { m with head := (m.head + 1) % m.slots, count := m.count - 1 }) ∧
          sameMemOutside (areaLoc s c + 0x200 + 16 * i) 16 s (portPop s c p)) ∧
      (bKind w = 5 → portFront s c p = (cluAt s (clusterOf c)).arr.resq.head? ∧
        (cluAt (portPop s c p) (clusterOf c)).arr.resq = (cluAt s (clusterOf c)).arr.resq.tail)) ∧
    (∀ p (cap out in_ : Nat),
      let b := portAt s c p
      let n := bKind b.word
      let a := (cluAt s (clusterOf c)).arr
      let v := (qstatWord s c p).toNat
      let set := (List.range 16).filter (fun i => (bArg b.word).testBit i && (mbox s c i).valid)
      let dir := bArg b.word % 2
      b.owner < 16 →
      (n = 1 ∧ cap = 8 ∧ out = (if liveFor s (nbTarget c dir) (coreAt s c).ctx then nbLoad s (nbTarget c dir) (dir == 1) else 0) ∧ in_ = nbCount s c (dir == 0)) ∨
        (n = 2 ∧ cap = (set.map (fun i => (mbox s c i).slots)).sum ∧ out = 0 ∧ in_ = (set.map (fun i => (mbox s c i).count)).sum) ∨
        (∃ i, n = 3 ∧ liveFor s (bCore b.word) (coreAt s c).ctx = true ∧ mboxById s (bCore b.word) (bArg b.word) = some i ∧
          cap = (mbox s (bCore b.word) i).slots ∧ out = (mbox s (bCore b.word) i).count ∧ in_ = 0) ∨
        (n = 4 ∧ cap = 16 ∧ out = a.cmdq.length * 2 + a.half.length ∧ in_ = 0) ∨ (n = 5 ∧ cap = 8 ∧ out = 0 ∧ in_ = a.resq.length) →
      let e := if n = 3 ∨ n = 4 then out else in_
      v / 2 ^ 60 = n ∧ v / 2 ^ 57 % 8 = (if b.faulted then 4 else if e = 0 then 1 else if cap ≤ e then 3 else 2) ∧ v / 2 ^ 48 % 16 = b.owner ∧
        v / 2 ^ 47 % 2 = (if bExcl b.word then 1 else 0) ∧ v / 2 ^ 32 % 4096 = cap % 4096 ∧ v / 2 ^ 16 % 2 ^ 16 = out % 2 ^ 16 ∧ v % 2 ^ 16 = in_ % 2 ^ 16)

/-- R274 to R276: the ring instructions of a thread in no twin with nothing outstanding, when nothing waits at the words they touch. The block lies at l. RACQ takes the slot at HEAD and counts it, or
parks PORT and is sent again after 64 cycles; RPEEK asks for the publish word of the slot at TAIL; RREL empties it and counts TAIL; RINIT writes the block, waits ENGINE, and empties every slot; RCOMMIT is
STD.E as a release. (The block and the slots are in reach: no mark, no port that is down, no line under copy.) -/
def Obligations.RingInstructions : Prop :=
  ∀ (s s1 : State) (rd ra rb : Reg) (sc : Scope) (l : Nat) (ks : List LeafKey),
    let c := s.iss.core
    let a := readX s ra
    let r := ringAt s1 l
    let g := natX s rd
    let geo : Ring := ⟨readX s rb, g / 2 ^ 32, g % 2 ^ 32, 0, 0⟩
    let slot := fun (r : Ring) (n : W64) => r.base + BitVec.ofNat 64 (n.toNat % r.count * r.size)
    let block := fun (w : Bool) (ord : Order) => placeOne s .feEmpty ord { r := true, w := w } 32 a = (.reaches (.here l) ks, s1)
    let reached := fun (s : State) (p : Nat) => blockedAt s p = false ∧ lineHeld s p = false
    isTwin (me s) = false → isTrail (me s) = false → (me s).accs = [] → (me s).cmp = [] → s.feWait = [] → (coreAt s c).loose = [] → reached s1 l →
    (∀ v, (me s).reply = some v → s.drainReq = [] → exec (.rcommit rd ra sc) s = .next (modMe s (fun th => { th with reply := none }))) ∧
    ((me s).reply = none → checked (.rcommit rd ra sc) s (.feStore false) (.rel sc) { w := true } 8 [(0, a, g)] (fun n ls ks s1 =>
      let m := (stampCore s1 c).1
      let s2 := releaseSide (forceOverlap (stampCore s1 c).2 c s.iss.slot (.feStore false) 8 ls) (.rel sc)
      follows (.rcommit rd ra sc) s s2 (.feStore false) (drainLeft s2 (.rel sc)) 8 ls (exec (.rcommit rd ra sc) s = .next (holdMe (modMe s2 (fun th => { th with
        accs := th.accs ++ [accessOf s2 n m (.feStore false) (.rel sc) a 8 .none ls ks] })) .access a)))) ∧
    exec (.rcommit rd ra sc) s = exec (.stdE rd ra (.rel sc) none) s ∧
    (∀ v, (me s).reply = some v → s.drainReq = [] →
      exec (.racq rd ra sc) s = .next (writeX (modMe s (fun th => { th with reply := none })) rd v) ∧
      exec (.rpeek rd ra sc) s = .next (writeX (modMe s (fun th => { th with reply := none })) rd v)) ∧
    (a.toNat % 32 ≠ 0 → exec (.rinit rd ra rb sc) s = .next (takeTrap s 0 0x04 a) ∧ exec (.rrel ra sc) s = .next (takeTrap s 0 0x04 a) ∧
      ((me s).reply = none → ∀ i ∈ [Instr.racq rd ra sc, .rpeek rd ra sc], exec i s = .next (takeTrap s 0 0x04 a))) ∧
    (a.toNat % 32 = 0 → geo.bad = true → exec (.rinit rd ra rb sc) s = .next (takeTrap s 0 0x0A a)) ∧
    ((me s).reply = none → block true (.acq sc) →
      (r.bad = true → exec (.racq rd ra sc) s = .next (takeTrap s1 0 0x0A a)) ∧
      (r.bad = false → (r.head - r.tail).toNat < r.count → ∃ t, exec (.racq rd ra sc) s = .next (writeX t rd (slot r r.head)) ∧
        ringAt t l = { r with head := r.head + 1 } ∧ sameMemOutside (l + 16) 8 s1 t) ∧
      (r.bad = false → r.count ≤ (r.head - r.tail).toNat →
        exec (.racq rd ra sc) s = .next (holdMe s1 .port a (BitVec.ofNat 64 (16 + (coreAt s c).time))))) ∧
    ((me s).reply = none → block false (.acq sc) → r.bad = false → ∀ p k2 s2,
      placeOne s1 (.feLoad false) (.acq sc) { r := true } 8 (slot r r.tail) = (.reaches (.here p) k2, s2) →
      ∃ t, exec (.rpeek rd ra sc) s = .next t ∧ (thrAt t c s.iss.slot).slot = .parked ∧
        (thrAt t c s.iss.slot).accs = [accessOf s (s.fresh + 1) 0 (.feLoad false) (.acq sc) (slot r r.tail) 8 (.scalar rd) [⟨0, .here p, 0⟩] k2]) ∧
    (block true (.rel sc) → r.bad = false → ∀ p k2 s2,
      placeOne s1 .feEmpty (.rel sc) { w := true } 8 (slot r r.tail) = (.reaches (.here p) k2, s2) → p % 8 = 0 → (p + 8 ≤ l ∨ l + 32 ≤ p) → reached s2 p →
      ∃ t, exec (.rrel ra sc) s = .next t ∧ isEmpty t (p / 8) = true ∧ ringAt t l = { r with tail := r.tail + 1 }) ∧
    (a.toNat % 32 = 0 → geo.bad = false → placeOne s .feEmpty (.rel sc) { w := true } 32 a = (.reaches (.here l) ks, s1) → ∀ ls k2 s2,
      placeAll .feEmpty .plain { w := true } 8 s1 ((List.range geo.count).map (fun n => (0, slot geo (BitVec.ofNat 64 n), 0))) = (.ok ls k2, s2) →
      (∀ q ∈ ls, ∃ p, q.place = .here p ∧ p % 8 = 0 ∧ (p + 8 ≤ l ∨ l + 32 ≤ p) ∧ reached s2 p) →
      ((me s).reply = none → ∃ t, exec (.rinit rd ra rb sc) s = .next (holdMe (modMe t (fun th => { th with reply := some 0 })) .engine 0 6) ∧
        ringAt t l = geo ∧ sameMemOutside l 32 s1 t) ∧
      ((me s).reply ≠ none → ∃ t, exec (.rinit rd ra rb sc) s = .next t ∧ t.iss = s.iss ∧ (me t).reply = none ∧ ringAt t l = ringAt s1 l ∧
        ∀ q ∈ ls, ∀ p, q.place = .here p → isEmpty t (p / 8) = true)) ∧
    (∀ d v q, parkedFor (thrAt s d v) .port = true → (thrAt s d v).park = some q → 16 ≤ q.aux.toNat → (coreAt s d).loose = [] →
      let now := (coreAt s d).time
      pastFewait s d v q.since = false → q.aux.toNat + 64 ≤ now + 16 →
      translate s (whoOf s d v) { r := true, w := true } q.obj 32 = (.reaches (.here l) ks, s1) → r.bad = false →
      ((r.head - r.tail).toNat < r.count → ∃ t, exec (.racqResend d v) s = .next t ∧ ringAt t l = { r with head := r.head + 1 } ∧
        thrAt t d v = { thrAt s d v with reply := some (slot r r.head), slot := readySlot (thrAt s d v), park := none }) ∧
      (r.count ≤ (r.head - r.tail).toNat → ∃ t, exec (.racqResend d v) s = .next t ∧
        thrAt t d v = { thrAt s d v with park := some { q with aux := BitVec.ofNat 64 (16 + now) } }))
/-! ## Copies and scans (chapter 7) -/

/-- R179 to R183 and R193: CPY and CPYS of a thread in no twin. They park ENGINE while the tag is busy or the channel holds 16 commands, LEASE while the thread is lapsed; a record address off its
alignment traps MISALIGNED, a FIFO without the lease LEASE. Else the command stands last in channel TAG mod 8 of the cluster, with the thread's seat and identity, and the tag is open. CPYS reads the
record first and raises what is wrong with it. Element k of the stream is what the record and the coordinates say. (In the clause on CPYS no loose store of the core
is buffered and the record is in reach.) -/
def Obligations.CopiesEnterTheirChannel : Prop :=
  (∀ (s : State) (rd ra rb : Reg) (dk : BitVec 2) (tag : BitVec 6), isTwin (me s) = false →
    let c := s.iss.core
    let u := s.iss.slot
    let k := c / 32
    let ch := tag.toNat % 8
    let rc := readX s ra
    let dst := if dk = 0 ∨ dk = 3 then readX s rd else 0
    let fifo := dk = 1 ∨ dk = 2
    let full := (me s).busyTags.getLsbD tag.toNat = true ∨ 16 ≤ (chanOf s k ch).length
    let late := fifo ∧ lapsed s c u = true
    let enters := fun (s1 : State) (i : Instr) (sh : Option Shape) => nextClocked i s (fun t =>
      { t with cores := s1.cores, clusters := s1.clusters, fresh := s1.fresh } = s1 ∧ sameOtherCores c s1 t ∧ sameOtherThreads c u s1 t ∧
      thrAt t c u = tagOpened (me s1) tag.toNat ∧ (∀ j, j ≠ k → cluAt t j = cluAt s1 j) ∧
      { cluAt t k with chans := (cluAt s1 k).chans } = cluAt s1 k ∧
      ∀ h, chanOf t k h = if h = ch then chanOf s k ch ++ [
        { id := s1.fresh + 1, core := c, slot := u, uid := (me s).uid, ctx := (me s).ctx, privid := (me s).privid.toNat, seat := (me s).seat, pc := s.iss.pc,
          recAddr := rc, coords := readX s rb, dst := dst, dk := dk.toNat, tag := tag.toNat, shape := sh }] else chanOf s k h)
    (∀ i ∈ [Instr.cpy rd ra rb dk tag, .cpys rd ra rb dk tag],
      (full → parks i s .engine 0 0) ∧
      (¬ full → late → parks i s .lease 0 0) ∧
      (¬ full → ¬ late → rc.toNat % 64 ≠ 0 → exec i s = .next (takeTrap s 0 0x04 rc)) ∧
      (¬ full → ¬ late → rc.toNat % 64 = 0 → fifo → holdsLease s c u = false → exec i s = .next (takeTrap s 0 0x12 0))) ∧
    (¬ full → ¬ late → rc.toNat % 64 = 0 → (fifo → holdsLease s c u = true) →
      enters s (.cpy rd ra rb dk tag) none ∧
      ∀ l ks s1, (coreAt s c).loose = [] → translate s (whoOf s c u) { r := true } rc 64 = (.reaches (.here l) ks, s1) → blockedAt s1 l = false →
        let r : Shape := ⟨readBytes s1 l 64⟩
        let s2 := { s1 with fresh := s1.fresh + 1 }
        (∀ x e, shapeFault r rc (readX s rb) dst dk.toNat = some (x, e) → exec (.cpys rd ra rb dk tag) s = .next (takeTrap s2 0 x e)) ∧
        (shapeFault r rc (readX s rb) dst dk.toNat = none → enters s2 (.cpys rd ra rb dk tag) (some r)))) ∧
  ∀ (r : Shape) (coords : W64) (k : Nat), shapeFault r 0 coords 0 1 = none →
    let n := r.word / 2 ^ 72 % 8
    let T := fun d => if d < n then r.word / 2 ^ (192 + 16 * d) % 2 ^ 16 else 1
    let S := fun d => if d < n then r.word / 2 ^ (128 + 16 * d) % 2 ^ 16 else 1
    let D := fun d => if d < n then (BitVec.ofNat 64 (r.word / 2 ^ (256 + 64 * d))).toInt else 0
    let co := fun d => coords.toNat / 2 ^ (16 * d) % 2 ^ 16
    let g := fun d => co d * T d + (if d = 0 then k else if d = 1 then k / T 0 else if d = 2 then k / (T 0 * T 1) else k / (T 0 * T 1 * T 2)) % T d
    1 ≤ n ∧ n ≤ 4 ∧ shCount r = T 0 * T 1 * T 2 * T 3 ∧
    srcAddr r coords k = if g 0 < S 0 ∧ g 1 < S 1 ∧ g 2 < S 2 ∧ g 3 < S 3
      then some (BitVec.ofInt 64 ((r.word % 2 ^ 64 : Nat) + (g 0 : Int) * D 0 + (g 1 : Int) * D 1 + (g 2 : Int) * D 2 + (g 3 : Int) * D 3)) else none

/-- R180 to R183, R197, R206 and R305: the command at the head of a channel. A CPY's record is read, and what is wrong with it found, by the engine. The command starts when its pages translate, or ends in error with a message;
a started one moves its tile, once every page of it is in reach (what waits until then starts the exit of clusters in VIGIL, R355): to memory, each element at the next bytes from DST, on every die for a broadcast (no full/empty
request waits, no source byte lies there, and no line of it is being copied), or into a FIFO as that has room and its array is not frozen. It then leaves the channel and completes its tag (log 4, DESIGN CHOICE: it moves in one step).
One that reaches a scratchpad that is not live ends in error with PEER_GONE. (The thread that issued it is still in its slot.) -/
def Obligations.CopiesMoveTheirTile : Prop :=
  ∀ (s : State) (k ch : Nat) (m : CopyCmd) (rest : List CopyCmd), chanOf s k ch = m :: rest → isThread s m.core m.slot m.uid = true →
    let w := copyWho k ch m
    let fails := fun (i : Instr) (s1 : State) (x : Nat) (a : W64) => ∃ t, exec i s = .next t ∧ chanOf t k ch = rest ∧ tagCompletes s t m.core m.slot m.tag true ∧
      (noSupervisor s1 m.ctx → t.sups = s1.sups ++ [engineMsg s1 k m.ctx m.core m.slot x m.pc a])
    let parks := ∃ t, exec (.copyStart k ch) s = .next t ∧ chanOf t k ch = { m with parked := true } :: rest
    let begins := fun (s0 : State) (r : Shape) =>
      let e := shElem r
      let tgt := fun (s : State) (p : W64 × W64) => if m.dk = 3 then pageOfReplica s w e p else pageOf s w { w := true } e p
      let out := if m.dk = 0 ∨ m.dk = 3 then dstPieces r m.dst else []
      let src := pagesOf (fun s p => pageOf s w { r := true } e p) s0 (srcPieces r m.coords)
      (∀ x a s1, src = (.trap x a, s1) → fails (.copyStart k ch) s1 x a) ∧
      (∀ ps ks s1 x a s2, src = (.ok ps ks, s1) → pagesOf tgt s1 out = (.trap x a, s2) → fails (.copyStart k ch) s2 x a) ∧
      (∀ s1, src = (.wait, s1) → parks) ∧
      (∀ ps ks s1 s2, src = (.ok ps ks, s1) → pagesOf tgt s1 out = (.wait, s2) → parks) ∧
      (∀ ps ks s1 qs js s2, src = (.ok ps ks, s1) → pagesOf tgt s1 out = (.ok qs js, s2) → ∃ t, exec (.copyStart k ch) s = .next t ∧ onlyCluster k s2 t ∧
        { cluAt t k with chans := (cluAt s2 k).chans } = cluAt s2 k ∧ (∀ h, h ≠ ch → chanOf t k h = chanOf s2 k h) ∧
        chanOf t k ch = { m with shape := some r, started := true, parked := false, srcs := ps, dsts := qs, leafs := ks ++ js } :: rest)
    let record := translateFar s w { r := true } m.recAddr 64
    (m.started = false → m.shape = none →
      (∀ x s1, record = (.trap x, s1) → fails (.copyStart k ch) s1 x m.recAddr) ∧
      (∀ x s1, record = (.wait x, s1) → parks) ∧
      (∀ l ks s1, record = (.reaches (.here l) ks, s1) → blockedAt s1 l = true → parks) ∧
      (∀ l ks s1, record = (.reaches (.here l) ks, s1) → blockedAt s1 l = false →
        let r : Shape := ⟨readBytes s1 l 64⟩
        (∀ x a, shapeFault r m.recAddr m.coords m.dst m.dk = some (x, a) → fails (.copyStart k ch) s1 x a) ∧
        (shapeFault r m.recAddr m.coords m.dst m.dk = none → begins s1 r))) ∧
    (m.shape = none → exec (.copyComplete k ch) s = .next s) ∧
    (∀ r, m.shape = some r → m.started = false → begins s r) ∧
    ∀ r, m.shape = some r →
    let e := shElem r
    let n := shCount r
    (m.started = true → copyDead s m = true → fails (.copyComplete k ch) s 0x07 m.dst ∧ fails (.engineWriteDrop k ch) s 0x07 m.dst) ∧
    (m.started = true → copyDead s m = false → exec (.engineWriteDrop k ch) s = .next s) ∧
    (m.started = true → copyDead s m = false → pagesBlocked s (m.srcs ++ m.dsts) = true →
      ∃ t, exec (.copyComplete k ch) s = .next t ∧ { t with clusters := s.clusters } = s ∧
        (∀ j, { cluAt t j with vigil := (cluAt s j).vigil } = cluAt s j) ∧
        ∀ j, ((cluAt t j).vigil = (cluAt s j).vigil ∨ (cluAt s j).vigil = 1 ∧ (cluAt t j).vigil = 2) ∧ ((cluAt s j).vigil = 1 → ((cluAt t j).vigil = 2 ↔
          ∃ p ∈ m.srcs ++ m.dsts, ∃ l, Place.here l ∈ p.places ∧ isScratch l = false ∧ wakes s l = some j))) ∧
    (∀ bases : List Nat, m.started = true → copyDead s m = false → pagesBlocked s (m.srcs ++ m.dsts) = false → copyHeld s m r = false → (m.dk = 0 ∨ m.dk = 3) →
      s.feWait = [] → m.dst.toNat % e = 0 → 8 % e = 0 → bases.Pairwise (fun l h => l + n * e ≤ h ∨ h + n * e ≤ l) →
      (∀ j < n, placesAt m.dsts (m.dst + BitVec.ofNat 64 (j * e)) = bases.map (fun l => .here (l + j * e))) →
      (∀ j < n, ∀ a, srcAddr r m.coords j = some a → ∀ x, Place.here x ∈ placesAt m.srcs a → ∀ l ∈ bases, x + e ≤ l ∨ l + n * e ≤ x) →
      ∃ t, exec (.copyComplete k ch) s = .next t ∧ chanOf t k ch = rest ∧ tagCompletes s t m.core m.slot m.tag false ∧
        (∀ a, (∀ l ∈ bases, a < l ∨ l + n * e ≤ a) → readByte t a = readByte s a) ∧
        ∀ l ∈ bases, ∀ j < n, readBytes t (l + j * e) e = copyElem s m r j % 256 ^ e) ∧
    (m.started = true → copyDead s m = false → pagesBlocked s (m.srcs ++ m.dsts) = false → (m.dk = 1 ∨ m.dk = 2) → (cluAt s k).arr.frozen.isSome = true →
      exec (.copyComplete k ch) s = .next s) ∧
    (m.started = true → copyDead s m = false → pagesBlocked s (m.srcs ++ m.dsts) = false → (m.dk = 1 ∨ m.dk = 2) → (cluAt s k).arr.frozen = none → m.moved ≤ n →
      let fifo := fun (s : State) => if m.dk = 1 then (cluAt s k).arr.fifoA else (cluAt s k).arr.fifoB
      ∃ t j, exec (.copyComplete k ch) s = .next t ∧ m.moved + j ≤ n ∧
        fifo t = fifo s ++ (List.range j).map (fun i => ⟨copyElem s m r (m.moved + i), e, m.uid, m.ctx⟩) ∧
        (m.moved + j = n → chanOf t k ch = rest ∧ tagCompletes s t m.core m.slot m.tag false) ∧
        (m.moved + j < n → 65536 < fifoBytes (fifo t) + e ∧ chanOf t k ch = { m with moved := m.moved + j } :: rest))

/-- R185 to R187: scans. SCANQ of a thread in no twin parks ENGINE while its tag is busy, traps for a descriptor off its alignment or with something wrong in it, and else hands the query to the scan
units with the tag open. A scan whose pages translate, and that no earlier one precedes in its units, writes the number of passing elements at DST and the records of the first CAP of an order in
which each passing element stands once, the order given if it is one. One that reaches a scratchpad that is not live ends in error with PEER_GONE (R305). (No loose store of the core is buffered, no
full/empty request waits, and what is read and written is in reach.) -/
def Obligations.ScansWriteWhatPasses : Prop :=
  (∀ (s : State) (ra : Reg) (tag : BitVec 6), isTwin (me s) = false → (coreAt s s.iss.core).loose = [] →
    let c := s.iss.core
    let u := s.iss.slot
    let a := readX s ra
    let busy := (me s).busyTags.getLsbD tag.toNat
    (busy = true → parks (.scanq ra tag) s .engine 0 0) ∧
    (busy = false → a.toNat % 32 ≠ 0 → exec (.scanq ra tag) s = .next (takeTrap s 0 0x04 a)) ∧
    (busy = false → a.toNat % 32 = 0 → ∀ l ks s1, translate s (whoOf s c u) { r := true } a 32 = (.reaches (.here l) ks, s1) → blockedAt s1 l = false →
      let n := readBytes s1 l 32
      let src := n % 2 ^ 64
      let dst := n / 2 ^ 192 % 2 ^ 64
      let count := n / 2 ^ 96 % 2 ^ 32
      let cap := n / 2 ^ 72 % 2 ^ 24
      let cmp := n / 2 ^ 70 % 4
      (scanFmt (n / 2 ^ 64 % 64) = none → exec (.scanq ra tag) s = .next (takeTrap { s1 with fresh := s1.fresh + 1 } 0 0x0A a)) ∧
      ∀ f, scanFmt (n / 2 ^ 64 % 64) = some f →
        let e := f.width / 8
        let bad := cmp = 3 ∨ dst % 8 ≠ 0 ∨ src % e ≠ 0
        let long := (0 < count ∧ straddlesRange (BitVec.ofNat 64 src) (count * e) = true) ∨ straddlesRange (BitVec.ofNat 64 dst) (8 + 8 * cap) = true
        (bad → exec (.scanq ra tag) s = .next (takeTrap { s1 with fresh := s1.fresh + 1 } 0 0x0A a)) ∧
        (¬ bad → long → exec (.scanq ra tag) s = .next (takeTrap { s1 with fresh := s1.fresh + 1 } 0 0x05 a)) ∧
        (¬ bad → ¬ long → nextClocked (.scanq ra tag) s (fun t => onlyThread c u { s1 with fresh := s1.fresh + 2, scans := t.scans } t ∧
          thrAt t c u = tagOpened (me s1) tag.toNat ∧
          t.scans = s.scans ++ [{ id := s1.fresh + 2, core := c, slot := u, uid := (me s).uid, ctx := (me s).ctx, privid := (me s).privid.toNat, seat := (me s).seat,
                                  pc := s.iss.pc, src := BitVec.ofNat 64 src, dst := BitVec.ofNat 64 dst, count := count, cap := cap, cmp := cmp, fmt := f,
                                  thresh := BitVec.ofNat 64 (n / 2 ^ 128), tag := tag.toNat }])))) ∧
  ∀ (s : State) (idx : Nat) (m : ScanCmd) (order : List Nat), s.scans[idx]? = some m → isThread s m.core m.slot m.uid = true →
    let e := m.fmt.width / 8
    let from_ := pagesOf (fun s p => pageOf s (scanWho m) { r := true } e p) s (rangePieces m.src (m.count * e) e)
    let tgt := fun s1 => pagesOf (fun s p => pageOf s (scanWho m) { w := true } 8 p) s1 (rangePieces m.dst (8 + 8 * m.cap) 8)
    let fails := fun (s1 : State) (x : Nat) (a : W64) => ∃ t, exec (.scanComplete idx order) s = .next t ∧ t.scans = s.scans.filter (·.id != m.id) ∧
      tagCompletes s t m.core m.slot m.tag true ∧ (noSupervisor s1 m.ctx → t.sups = s1.sups ++ [engineMsg s1 (m.core / 32) m.ctx m.core m.slot x m.pc a])
    let value := fun v => if m.cmp = 2 then (fmtValue m.fmt v).withSign false else fmtValue m.fmt v
    let th := value (m.thresh.toNat % 2 ^ m.fmt.width)
    let passes := fun x => (value x).isNan = false ∧ th.isNan = false ∧ (if m.cmp = 1 then (value x).lt th = false else th.lt (value x) = true)
    (scanBehind s idx m = true → exec (.scanComplete idx order) s = .next s) ∧
    (scanBehind s idx m = false →
      (∀ x a s1, from_ = (.trap x a, s1) → fails s1 x a) ∧
      (∀ ps ks s1 x a s2, from_ = (.ok ps ks, s1) → tgt s1 = (.trap x a, s2) → fails s2 x a) ∧
      (∀ ps ks s1 qs js s2 l, s.feWait = [] → from_ = (.ok ps ks, s1) → tgt s1 = (.ok qs js, s2) →
        (∀ i ≤ m.cap, placesAt qs (m.dst + BitVec.ofNat 64 (8 * i)) = [.here (l + 8 * i)] ∧ lineHeld s2 (l + 8 * i) = false) →
        pagesBlocked s2 (ps ++ qs) = false →
        ((∃ p ∈ ps ++ qs, ∃ x ∈ p.places, deadPlace s2 m.ctx x = true) → fails s2 0x07 m.dst) ∧
        ((∀ p ∈ ps ++ qs, ∀ x ∈ p.places, deadPlace s2 m.ctx x = false) →
        ∃ t ord, exec (.scanComplete idx order) s = .next t ∧ t.scans = s.scans.filter (·.id != m.id) ∧ tagCompletes s t m.core m.slot m.tag false ∧
          ord.Nodup ∧ (∀ i, i ∈ ord ↔ i < m.count ∧ passes (scanElem s2 m ps i)) ∧ (order.Perm ord → ord = order) ∧
          sameMemOutside l (8 + 8 * m.cap) s t ∧ readBytes t l 8 = ord.length % 2 ^ 64 ∧
          ∀ i x, ord[i]? = some x → i < m.cap → readBytes t (l + 8 + 8 * i) 8 = (x + scanElem s2 m ps x * 2 ^ 32) % 2 ^ 64)))

/-! ## Tile names (chapter 17) -/

/-- R357 to R360, R365 and R368 to R370: ANNC, WANT and RETRC of a thread in no twin. ANNC of size 0 withdraws the context's own binding (status 0), or finds none (1); else it checks size and source, waits ENGINE for the agent,
traps REBOUND for a bound name, answers 2 when the agent holds 256 bindings, and binds the name (0). WANT parks ENGINE while its tag is busy or the agent has no room, checks its destination, and opens the
tag; its record and the interest then stand at the agent, a new interest goes on by its route, and a tile in the tarn serves it at once; with LIFE 0 and neither a binding
nor a tile here it expires at once (R365). A tile of the tarn is delivered while the tarn answers and no line at the destination is being copied (R347, R355). RETRC waits ENGINE for the agent and takes the record
back, which completes the tag in error. (The operand of every fault of WANT's range, its straddle among them, is rb: log 41, DEDUCED; the order of the checks of ANNC is log 32, DEDUCED.) -/
def Obligations.NamesAreBoundAndWanted : Prop :=
  ∀ (s : State) (rd ra rb : Reg) (tag : BitVec 6) (ext : BitVec 32), isTwin (me s) = false →
    let c := s.iss.core
    let u := s.iss.slot
    let k := c / 32
    let a := (cluAt s k).agent
    let name := readX s ra
    (let size := ext.toNat % 2 ^ 17
     let src := readX s rb
     let i := Instr.annc rd ra rb ext
     let b : Binding := ⟨name, (me s).ctx, src, size, ext.getLsbD 17, (me s).seat, c, u, s.iss.pc, (me s).privid.toNat, false, 0⟩
     let mine := fun (x : Binding) => x.name = name ∧ x.ctx = (me s).ctx ∧ x.withdrawn = false
     (size = 0 → (∃ x ∈ a.binds, mine x) → ∃ t t0, exec i s = .next (writeX t rd 0) ∧ clocked t0 t ∧ onlyAgent k { s with purges := t0.purges } t0 ∧
        t0.purges = s.purges ++ (List.range 160).map (fun j => ⟨name, k, j⟩) ∧
        (cluAt t0 k).agent = { a with binds := a.binds.map (fun x => if x.name = name then { x with withdrawn := true, acks := 0 } else x) }) ∧
     (size = 0 → (¬ ∃ x ∈ a.binds, mine x) → exec i s = .next (writeX s rd 1)) ∧
     (size ≠ 0 →
       (size % 64 ≠ 0 ∨ 65536 < size → exec i s = .next (takeTrap s 0 0x0A (BitVec.ofNat 64 size))) ∧
       (size % 64 = 0 → size ≤ 65536 →
         (src.toNat % 64 ≠ 0 → exec i s = .next (takeTrap s 0 0x04 src)) ∧
         (src.toNat % 64 = 0 → winOf src = 0xC ∨ winOf src = 0xF → exec i s = .next (takeTrap s 0 0x0A src)) ∧
         (src.toNat % 64 = 0 → winOf src ≠ 0xC → winOf src ≠ 0xF → straddlesRange src size = true → exec i s = .next (takeTrap s 0 0x05 src)) ∧
         (src.toNat % 64 = 0 → winOf src ≠ 0xC → winOf src ≠ 0xF → straddlesRange src size = false →
           (∀ x e s1, anncPages s b = (.trap x e, s1) → exec i s = .next (takeTrap s1 0 x e)) ∧
           ∀ ps ks s1, anncPages s b = (.ok ps ks, s1) → ((me s).reply = none → asksUnit i s s1) ∧ ((me s).reply ≠ none →
             ((∃ x ∈ a.binds, x.name = name) → ∃ t, exec i s = .next (takeTrap t 0 0x14 name) ∧ clocked (unitHas s1) t) ∧
             ((∀ x ∈ a.binds, x.name ≠ name) → 256 ≤ a.binds.length → ∃ t, exec i s = .next (writeX t rd 2) ∧ clocked (unitHas s1) t) ∧
             ((∀ x ∈ a.binds, x.name ≠ name) → a.binds.length < 256 → (∀ e ∈ a.ints, e.name ≠ name) →
               ∃ t t0, exec i s = .next (writeX t rd 0) ∧ clocked t0 t ∧ onlyAgent k (unitHas s1) t0 ∧
                 (cluAt t0 k).agent = { a with binds := a.binds ++ [b] })))))) ∧
    (let dst := readX s rb
     let cap := if ext.toNat / 2 ^ 17 % 64 = 0 then 65536 else ext.toNat / 2 ^ 17 % 64 * 1024
     let i := Instr.want ra rb tag ext
     let dl := (((stampCore s c).1).toNat / 2 ^ 16 + ext.toNat % 2 ^ 16 * 1000) % 2 ^ 48
     let hit := (∃ x ∈ a.binds, x.name = name ∧ x.withdrawn = false) ∨ ∃ x ∈ a.tiles, x.name = name
     let room := a.cons.length < 1024 ∧ ((∃ e ∈ a.ints, e.name = name) ∨ a.ints.length < 512)
     let life := ext.toNat % 2 ^ 16
     let runs := s.gated.getLsbD (dieOf k) = true ∨ ((cluAt s k).stopped = false ∧ (cluAt s k).vigil = 0)
     let waits := (me s).busyTags.getLsbD tag.toNat = true ∨ (¬ hit ∧ 0 < life ∧ ¬ room)
     (waits → parks i s .engine 0 0) ∧
     (¬ waits →
       (dst.toNat % 64 ≠ 0 → exec i s = .next (takeTrap s 0 0x04 dst)) ∧
       (dst.toNat % 64 = 0 → winOf dst ≠ 0xD → winOf dst ≠ 0xE → exec i s = .next (takeTrap s 0 0x0A dst)) ∧
       (dst.toNat % 64 = 0 → (winOf dst = 0xD ∨ winOf dst = 0xE) → straddlesRange dst cap = true → exec i s = .next (takeTrap s 0 0x05 dst)) ∧
       (dst.toNat % 64 = 0 → (winOf dst = 0xD ∨ winOf dst = 0xE) → straddlesRange dst cap = false →
         (∀ x s1, wantPlace s dst cap = (.trap x, s1) → exec i s = .next (takeTrap s1 0 x dst)) ∧
         ∀ l ks s1, wantPlace s dst cap = (.reaches (.here l) ks, s1) →
           let w : WantRec := ⟨name, c, u, (me s).uid, (me s).ctx, s.iss.pc, l, cap, tag.toNat, ext.getLsbD 16, dl⟩
           (¬ hit → life = 0 → (me s).slot ≠ .free → ∃ t, exec i s = .next t ∧ (cluAt t k).agent = a ∧ t.ints = s.ints ∧
             (thrAt t c u).tags.getLsbD tag.toNat = true ∧ (thrAt t c u).tagerr.getLsbD tag.toNat = true ∧ (thrAt t c u).busyTags.getLsbD tag.toNat = false ∧
             (thrAt t c u).traps = (me s).traps ++ (if ext.getLsbD 16 then [⟨0x10, name⟩] else [])) ∧
           (¬ hit → 0 < life → ∃ t, exec i s = .next t ∧ thrAt t c u = tagOpened (me s1) tag.toNat ∧ (cluAt t k).agent.cons = a.cons ++ [.want w] ∧
             ((∃ e ∈ a.ints, e.name = name) → t.ints = s.ints ∧ (cluAt t k).agent.ints = a.ints.map (fun e =>
               if e.name = name then { e with deadline := laterDeadline e.deadline dl, loc := true } else e)) ∧
             ((∀ e ∈ a.ints, e.name ≠ name) →
               let enters := fun x => (cluAt t k).agent.ints = a.ints ++ [⟨name, (me s).ctx, dl, [], true, x⟩]
               (rtBest a name (me s).ctx = none → enters none ∧ t.ints = s.ints ∧ t.linkOut = s.linkOut) ∧
               (∀ r j, rtBest a name (me s).ctx = some r → rtDir r ≠ 5 → neighbour k (rtDir r) = some j →
                 enters none ∧ t.ints = s.ints ++ [⟨name, (me s).ctx, dl, j, backDir (rtDir r), none⟩]) ∧
               ∀ r, rtBest a name (me s).ctx = some r → rtDir r = 5 → routeState s (rtDevice r) ≠ 2 →
                 enters (some (rtPort r, rtDevice r)) ∧ t.linkOut = s.linkOut ++ [.interest (rtPort r) (rtDevice r) name (me s).ctx dl])) ∧
           (∀ x, (∀ y ∈ a.binds, y.name ≠ name) → a.tiles.find? (fun y => y.name == name) = some x → a.cons = [] → s.feWait = [] → (me s).slot ≠ .free →
             deadlinePassed s k dl = false → liveFor s (scratchCore l) (me s).ctx = true → x.data ≠ [] → x.data.length ≤ cap →
             runs → (∀ j < (x.data.length + 63) / 64, lineHeld s (l + 64 * j) = false) →
             ∃ t, exec i s = .next t ∧ (cluAt t k).agent.cons = [] ∧ (thrAt t c u).tags.getLsbD tag.toNat = true ∧ (thrAt t c u).tagerr.getLsbD tag.toNat = false ∧
               (thrAt t c u).busyTags.getLsbD tag.toNat = false ∧ readList t l x.data.length = x.data ∧ sameMemOutside l x.data.length s t)))) ∧
    (let mine := fun (r : Consumer) => match r with
       | .want w => w.uid = (me s).uid ∧ w.tag = tag.toNat
       | .remote _ _ _ _ => False
     let s1 := unitHas s
     ((me s).reply = none → asksUnit (.retrc rd tag) s s) ∧
     ((me s).reply ≠ none → (∃ r ∈ a.cons, mine r) → rd.toNat < 28 → (me s).slot ≠ .free → ∃ t, exec (.retrc rd tag) s = .next t ∧
        (∀ r, r ∈ (cluAt t k).agent.cons ↔ r ∈ a.cons ∧ ¬ mine r) ∧ tagCompletes (writeX s1 rd 0) t c u tag.toNat true) ∧
     ((me s).reply ≠ none → (¬ ∃ r ∈ a.cons, mine r) → ∃ t, exec (.retrc rd tag) s = .next (writeX t rd (if (me s).tags.getLsbD tag.toNat then 1 else 2)) ∧ clocked s1 t))

/-- R358 to R366 and R371: the name agents. An interest that finds nothing enters the agent and goes on by its route, over a link too, merges with the name's entry, or is dropped and counted for want of room; one that finds a
tile gets it sent back, once the tarn answers (R355). A tile waits at its agent while a line that it goes to is being copied, or the tarn that takes it is in VIGIL or stands (R347, R355).
A tile goes to every direction that asked, into the tarn, and to the local records (a record that waits here, its core live, no full/empty request waiting); without an entry it is discarded. Expired
entries and records go; a withdrawn name is unbound by the acknowledgement of the last tarn. NAMEROUTE of a privileged thread waits ENGINE for the agent; it
reads and writes routes, sizes tarns, and reads the drop count. (That NAMEROUTE for every cluster answers 2 and changes none when one refuses is log 42, DEDUCED; which tiles a smaller tarn drops, and the lines of a tile,
rest on the places of granules, log 40, DESIGN CHOICE.) -/
def Obligations.TilesReachTheirConsumers : Prop :=
  (∀ (s : State) (idx : Nat) (m : IntMsg), s.ints[idx]? = some m → m.link = none → m.dir ≠ 0 →
    let a := (cluAt s m.tgt).agent
    let i := Instr.interestArrival idx
    let runs := s.gated.getLsbD (dieOf m.tgt) = true ∨ ((cluAt s m.tgt).stopped = false ∧ (cluAt s m.tgt).vigil = 0)
    (∀ b ∈ a.binds, b.name ≠ m.name) →
    ((∀ x ∈ a.tiles, x.name ≠ m.name) →
      ((∃ e ∈ a.ints, e.name = m.name) → ∃ t, exec i s = .next t ∧ onlyAgent m.tgt { s with ints := s.ints.eraseIdx idx } t ∧
        (cluAt t m.tgt).agent = { a with ints := a.ints.map (fun e => if e.name = m.name then { e with
          deadline := laterDeadline e.deadline m.deadline, dirs := if m.dir ∈ e.dirs then e.dirs else e.dirs ++ [m.dir] } else e) }) ∧
      ((∀ e ∈ a.ints, e.name ≠ m.name) → 512 ≤ a.ints.length → ∃ t, exec i s = .next t ∧ onlyAgent m.tgt { s with ints := s.ints.eraseIdx idx } t ∧
        (cluAt t m.tgt).agent = { a with drops := if a.drops = 0xFFFFFFFF then a.drops else a.drops + 1 }) ∧
      ((∀ e ∈ a.ints, e.name ≠ m.name) → a.ints.length < 512 → ∃ t, exec i s = .next t ∧
        let enters := fun x => (cluAt t m.tgt).agent = { a with ints := a.ints ++ [⟨m.name, m.ctx, m.deadline, [m.dir], false, x⟩] }
        (rtBest a m.name m.ctx = none → enters none ∧ t.ints = s.ints.eraseIdx idx) ∧
        (∀ r j, rtBest a m.name m.ctx = some r → rtDir r ≠ 5 → neighbour m.tgt (rtDir r) = some j →
          enters none ∧ t.ints = s.ints.eraseIdx idx ++ [⟨m.name, m.ctx, m.deadline, j, backDir (rtDir r), none⟩]) ∧
        (∀ r, rtBest a m.name m.ctx = some r → rtDir r = 5 → routeState s (rtDevice r) = 2 → enters none ∧ t.linkOut = s.linkOut) ∧
        ∀ r, rtBest a m.name m.ctx = some r → rtDir r = 5 → routeState s (rtDevice r) ≠ 2 →
          enters (some (rtPort r, rtDevice r)) ∧ t.linkOut = s.linkOut ++ [.interest (rtPort r) (rtDevice r) m.name m.ctx m.deadline])) ∧
    ((∃ x ∈ a.tiles, x.name = m.name) → ¬ runs →
      ((cluAt s m.tgt).vigil ≠ 1 → exec i s = .next s) ∧
      ((cluAt s m.tgt).vigil = 1 → ∃ t, exec i s = .next t ∧ onlyCluster m.tgt s t ∧ cluAt t m.tgt = { cluAt s m.tgt with vigil := 2 })) ∧
    (∀ x j, runs → a.tiles.find? (fun y => y.name == m.name) = some x → (∀ e ∈ a.ints, e.name ≠ m.name) → a.cons = [] → neighbour m.tgt m.dir = some j →
      ∃ t, exec i s = .next t ∧ t.tiles = s.tiles ++ [⟨m.name, x.data, x.pin, j⟩] ∧ (cluAt t m.tgt).agent.ints = a.ints ∧ t.ints = s.ints.eraseIdx idx)) ∧
  (∀ (s : State) (idx : Nat) (m : TileMsg), s.tiles[idx]? = some m →
    let a := (cluAt s m.tgt).agent
    ((∀ e ∈ a.ints, e.name ≠ m.name) → exec (.tileDelivery idx) s = .next { s with tiles := s.tiles.eraseIdx idx }) ∧
    (∀ e, a.ints.find? (fun e => e.name == m.name) = some e → deliveryWaits s m.tgt m.name m.data true = true →
      ∃ t, exec (.tileDelivery idx) s = .next t ∧ (t = s ∨ (onlyCluster m.tgt s t ∧ (cluAt s m.tgt).vigil = 1 ∧ cluAt t m.tgt = { cluAt s m.tgt with vigil := 2 }))) ∧
    ∀ e, a.ints.find? (fun e => e.name == m.name) = some e → m.data ≠ [] → deliveryWaits s m.tgt m.name m.data true = false →
      ∃ t, exec (.tileDelivery idx) s = .next t ∧ t.tiles = s.tiles.eraseIdx idx ++ (e.dirs.filterMap (neighbour m.tgt)).map (fun j => ⟨m.name, m.data, m.pin, j⟩) ∧
        (cluAt t m.tgt).agent.ints = a.ints.filter (fun x => x.name != m.name) ∧
        ((∀ x ∈ a.tiles, x.name ≠ m.name) → tileGrans m.data + usedGrans (a.tiles.filter (·.pin)) ≤ (tarnGrans (cluAt s m.tgt)).length →
          ∃ x ∈ (cluAt t m.tgt).agent.tiles, x.name = m.name ∧ x.data = m.data ∧ x.pin = m.pin) ∧
        ∀ w, a.cons = [.want w] → w.name = m.name → deadlinePassed s m.tgt w.deadline = false → isThread s w.core w.slot w.uid = true → s.feWait = [] →
          (w.cap < m.data.length → tagCompletes s t w.core w.slot w.tag true) ∧
          (m.data.length ≤ w.cap → liveFor s (scratchCore w.loc) w.ctx = false → tagCompletes s t w.core w.slot w.tag true) ∧
          (m.data.length ≤ w.cap → liveFor s (scratchCore w.loc) w.ctx = true → tagCompletes s t w.core w.slot w.tag false ∧
            readList t w.loc m.data.length = m.data ∧ sameMemOutside w.loc m.data.length s t)) ∧
  (∀ (s : State) (k idx : Nat),
    let a := (cluAt s k).agent
    (∀ e, a.ints[idx]? = some e → deadlinePassed s k e.deadline = false → exec (.interestExpiry k idx) s = .next s) ∧
    (∀ e, a.ints[idx]? = some e → deadlinePassed s k e.deadline = true → ∃ t, exec (.interestExpiry k idx) s = .next t ∧
      (cluAt t k).agent.ints = a.ints.eraseIdx idx ∧ (cluAt t k).agent.binds = a.binds ∧ (cluAt t k).agent.tiles = a.tiles ∧
      ∀ r, r ∈ (cluAt t k).agent.cons ↔ r ∈ a.cons ∧ ∀ p d dl, r ≠ .remote e.name p d dl) ∧
    (∀ w, a.cons[idx]? = some (.want w) → deadlinePassed s k w.deadline = false → exec (.neverProduced k idx) s = .next s) ∧
    (∀ w, a.cons[idx]? = some (.want w) → deadlinePassed s k w.deadline = true → isThread s w.core w.slot w.uid = true →
      ∃ t, exec (.neverProduced k idx) s = .next t ∧ (cluAt t k).agent = { a with cons := a.cons.eraseIdx idx } ∧ tagCompletes s t w.core w.slot w.tag true ∧
        (thrAt t w.core w.slot).traps = (thrAt s w.core w.slot).traps ++ (if w.trap then [⟨0x10, w.name⟩] else [])) ∧
    (∀ p, s.purges[idx]? = some p →
      let clk := cluAt s p.tgt
      let runs := s.gated.getLsbD (dieOf p.tgt) = true ∨ (clk.stopped = false ∧ clk.vigil = 0)
      (¬ runs → clk.vigil ≠ 1 → exec (.purgeAck idx) s = .next s) ∧
      (¬ runs → clk.vigil = 1 → ∃ t, exec (.purgeAck idx) s = .next t ∧ onlyCluster p.tgt s t ∧ cluAt t p.tgt = { clk with vigil := 2 }) ∧
      (runs → ∃ t, exec (.purgeAck idx) s = .next t ∧ t.purges = s.purges.eraseIdx idx ∧
        (∀ x, x ∈ (cluAt t p.tgt).agent.tiles ↔ x ∈ (cluAt s p.tgt).agent.tiles ∧ x.name ≠ p.name) ∧
        ∀ b, (cluAt s p.home).agent.binds = [b] → b.name = p.name → b.withdrawn = true →
          (cluAt t p.home).agent.binds = if b.acks < 159 then [{ b with acks := b.acks + 1 }] else []))) ∧
  ∀ (s : State) (rd ra rb : Reg), isTwin (me s) = false → privileged s (was s) = true →
    let w := (readX s ra).toNat
    let b := readX s rb
    let k := w / 2 ^ 8 % 2 ^ 8
    let ix := w % 2 ^ 8
    let op := w / 2 ^ 16 % 4
    let all := k = 0xFF
    let named := fun j => j < 160 ∧ (all ∨ j = k)
    let bad := w / 2 ^ 18 ≠ 0 ∨ (160 ≤ k ∧ ¬ all) ∨ (all ∧ (op = 1 ∨ op = 3)) ∨ (2 ≤ op ∧ ix ≠ 0)
    let n := b.toNat % 32
    let s1 := unitHas s
    ∀ i ∈ [Instr.namerouteWriteRoute rd ra rb, .namerouteReadRoute rd ra rb, .namerouteSetTarn rd ra rb, .namerouteReadDrops rd ra rb],
      ((me s).reply = none → asksUnit i s s) ∧ ((me s).reply ≠ none →
      (bad → exec i s = .next (writeX s1 rd 0xFFFFFFFFFFFFFFFF)) ∧
      (¬ bad → op = 0 → (∃ j, named j ∧ rtBad j b = true) → exec i s = .next (writeX s1 rd 2)) ∧
      (¬ bad → op = 0 → (∀ j, named j → rtBad j b = false) → ∃ t, exec i s = .next (writeX t rd 0) ∧ { t with clusters := s1.clusters } = s1 ∧
        ∀ j, { cluAt t j with agent := (cluAt s j).agent } = cluAt s j ∧
          { (cluAt t j).agent with routes := (cluAt s j).agent.routes } = (cluAt s j).agent ∧
          ∀ x, tget 0 (cluAt t j).agent.routes x = if named j ∧ x = ix then b &&& ~~~0x1F000000 else tget 0 (cluAt s j).agent.routes x) ∧
      (¬ bad → op = 1 → exec i s = .next (writeX s1 rd (tget 0 (cluAt s k).agent.routes ix))) ∧
      (¬ bad → op = 2 → (16 < n ∨ ∃ j, named j ∧ capslice (cluAt s j) < n) → exec i s = .next (writeX s1 rd 2)) ∧
      (¬ bad → op = 2 → n ≤ 16 → (∀ j, named j → n ≤ capslice (cluAt s j)) → ∃ t, exec i s = .next (writeX t rd 0) ∧ { t with clusters := s1.clusters } = s1 ∧
        (∀ j, ¬ named j → cluAt t j = cluAt s j) ∧
        ∀ j, named j → (cluAt t j).tarn = n ∧ (cluAt t j).slices = (cluAt s j).slices ∧ (cluAt t j).agent.routes = (cluAt s j).agent.routes ∧
          (∀ x, x ∈ (cluAt t j).agent.tiles ↔ x ∈ (cluAt s j).agent.tiles ∧ ∀ g ∈ x.grans, g < 64 * n)) ∧
      (¬ bad → op = 3 → exec i s = .next (writeX s1 rd ((cluAt s k).agent.drops.setWidth 64))))

/-! ## The cluster array (chapter 8) -/

/-- R188 to R192: the lease of an array that is not frozen. LEASE of a thread in no twin that holds it does nothing; a free one without waiters is granted with 64 commands and 4,096 cycles; else the thread
waits, once in the queue. LREL passes it to the waiter with the smallest key above the last holder's, else the smallest, frees it, or leaves the queue. A grant that has used up either
count reloads when nobody waits, and else passes on with its holder queued as lapsed.

R202 and R203: MHSET and ROWDONE of a thread in no twin. MHSET traps for a handler address or a base off its alignment, removes the registration for 0 slots, registers an area below the
queue area, and traps PROTECTION for another. ROWDONE traps PROTECTION for an address that no landed row of the core has; else, as a release, it frees the slot and ends the handler's claim on
its row. (No access of the thread is outstanding in that clause.) -/
def Obligations.LeasesAndHandlers : Prop :=
  (∀ (s : State) (k : Nat),
      let a := (cluAt s k).arr
      let free := { a with holder := none, cmds := 0, cycles := 0 }
      let passes := fun (t : State) (ws : List (Nat × Bool)) => ∃ key, (∃ l, (key, l) ∈ ws) ∧
        (∀ j l, (j, l) ∈ ws → (a.prev < key → a.prev < j → key ≤ j) ∧ (key ≤ a.prev → key ≤ j ∧ j ≤ a.prev)) ∧
        (cluAt t k).arr = { a with holder := some key, cmds := 64, cycles := 4096, prev := key, waiters := ws.filter (fun w => w.1 != key) } ∧
        (parkedFor (thrAt s (key / 16) (key % 16)) .lease = true → (thrAt t (key / 16) (key % 16)).slot = readySlot (thrAt s (key / 16) (key % 16)))
      a.frozen = none →
      (isTwin (me s) = false → s.iss.slot < 16 → k = s.iss.core / 32 →
        let key := s.iss.core * 16 + s.iss.slot
        (a.holder = some key → exec .lease s = .next s) ∧
        (a.holder = none → a.waiters = [] → parkedFor (me s) .lease = false → ∃ t, exec .lease s = .next t ∧ onlyArr k s t ∧
          (cluAt t k).arr = { a with holder := some key, cmds := 64, cycles := 4096, prev := key }) ∧
        (a.holder ≠ some key → (∃ l, (key, l) ∈ a.waiters) → holds .lease s .lease 0 0) ∧
        (a.holder ≠ some key → (a.holder ≠ none ∨ a.waiters ≠ []) → (∀ l, (key, l) ∉ a.waiters) → ∃ t, exec .lease s = .next (holdMe t .lease) ∧ onlyArr k s t ∧
          (cluAt t k).arr = { a with waiters := a.waiters ++ [(key, false)] }) ∧
        (a.holder = some key → a.waiters = [] → ∃ t, exec .lrel s = .next t ∧ onlyArr k s t ∧ (cluAt t k).arr = free) ∧
        (a.holder = some key → a.waiters ≠ [] → ∃ t, exec .lrel s = .next t ∧ passes t a.waiters) ∧
        (a.holder ≠ some key → ∃ t, exec .lrel s = .next t ∧ onlyArr k s t ∧ (cluAt t k).arr = { a with waiters := a.waiters.filter (fun w => w.1 != key) })) ∧
      (a.holder = none ∨ (0 < a.cmds ∧ 0 < a.cycles) → exec (.leaseExpiry k) s = .next s) ∧
      (∀ key, a.holder = some key → (a.cmds = 0 ∨ a.cycles = 0) →
        (a.waiters = [] → ∃ t, exec (.leaseExpiry k) s = .next t ∧ onlyArr k s t ∧ (cluAt t k).arr = { a with cmds := 64, cycles := 4096 }) ∧
        (a.waiters ≠ [] → ∃ t, exec (.leaseExpiry k) s = .next t ∧ passes t (a.waiters ++ [(key, true)])))) ∧
  (∀ (s : State) (ra rb : Reg), isTwin (me s) = false →
      let c := s.iss.core
      let k := coreAt s c
      let pc := readX s ra
      let n := natX s rb / 2 ^ 20 % 2 ^ 6
      let base := natX s rb % 2 ^ 20
      let sets := fun (h : Option Mhset) => ∃ t, exec (.mhset ra rb) s = .next t ∧ onlyCore c s t ∧ coreAt t c = { k with mhset := h }
      let slot := fun (l : Landed) => BitVec.ofNat 64 (0xE * 2 ^ 44 + c * 2 ^ 31 + l.off)
      (pc.toNat % 8 ≠ 0 → exec (.mhset ra rb) s = .next (takeTrap s 0 0x04 pc)) ∧
      (pc.toNat % 8 = 0 → base % 1024 ≠ 0 → exec (.mhset ra rb) s = .next (takeTrap s 0 0x04 (BitVec.ofNat 64 base))) ∧
      (pc.toNat % 8 = 0 → base % 1024 = 0 →
        (n = 0 → sets none) ∧
        (n ≠ 0 → scratch k.part ≠ 0 → base + n * 1024 ≤ scratch k.part * 8192 - 1024 → sets (some ⟨pc, n, base, (me s).ctx⟩)) ∧
        (n ≠ 0 → (scratch k.part = 0 ∨ scratch k.part * 8192 - 1024 < base + n * 1024) →
          exec (.mhset ra rb) s = .next (takeTrap s 0 0x0A (BitVec.ofNat 64 base)))) ∧
      ((∀ l ∈ k.landed, slot l ≠ pc) → exec (.rowdone ra) s = .next (takeTrap s 0 0x0A pc)) ∧
      (∀ l, k.landed.find? (fun l => slot l == pc) = some l → (me s).accs = [] → ∃ t, exec (.rowdone ra) s = .next t ∧
        { t with cores := s.cores, clusters := s.clusters } = s ∧ sameOtherCores c s t ∧ (∀ j, j ≠ l.cluster → cluAt t j = cluAt s j) ∧
        (coreAt t c).landed = k.landed.filter (fun x => x.off != l.off) ∧
        (∀ v, thrAt t c v = if (thrAt s c v).uid = l.uid then { thrAt s c v with row := none } else thrAt s c v) ∧
        (cluAt t l.cluster).arr = { (cluAt s l.cluster).arr with openRow := (cluAt s l.cluster).arr.openRow.filter (fun o => o.2.2 != l.uid) }))

/-- R47, R48 and R194 to R201, R205: a command from the head of the queue to its status. It is checked; a chunk consumes 128 elements of each FIFO for a value of k and adds each product's contribution to its
sum; an ended chunk's sums are held to their range, and go to a drain when they are to; a row lands as BS64 values in its slot and begins its handler, or is discarded and reported for a core that
left; the status stands last in the result queue, once that has room (entries that may return to it count). (The array is not frozen; no full/empty request waits where a row is written, and no line
of its slot is being copied. Where the product of an infinity or a NaN leaves its row is R48's; the order in which an ended chunk frees its command is log 43, DEDUCED.) -/
def Obligations.ArrayCommandsRun : Prop :=
  ∀ (s : State) (k : Nat),
    let a := (cluAt s k).arr
    let fmtOk := fun (code : Nat) => code ∈ [0, 4, 8, 9] ∨ ∃ x y z, fmtOf code = some (.b8 x y z)
    a.frozen = none →
    (∀ m r, a.cur = none → a.cmdq = m :: r →
      let n := m.bits.toNat
      let ok := fmtOk (n % 2 ^ 6) ∧ fmtOk (n / 2 ^ 8 % 2 ^ 6) ∧ 4 ≤ n / 2 ^ 32 % 2 ^ 7 ∧ n / 2 ^ 32 % 2 ^ 7 ≤ 64 ∧ n / 2 ^ 40 % 2 ^ 16 ≠ 0 ∧
        n / 2 ^ 192 = 0 ∧ n / 2 ^ 59 % 32 = 0 ∧ n / 2 ^ 39 % 2 = 0 ∧ n / 2 ^ 14 % 4 = 0 ∧ n / 2 ^ 6 % 4 = 0 ∧ (∃ i < 32, n.testBit (64 + i) = true) ∧
        ∀ i < 32, n.testBit (64 + i) = true → liveFor s (k * 32 + i) m.ctx = true ∧ accBanks (coreAt s (k * 32 + i)).part ≠ 0 ∧
          ∃ h, (coreAt s (k * 32 + i)).mhset = some h ∧ h.ctx = m.ctx
      (ok → ∃ t, exec (.arrayCommandCheck k) s = .next t ∧ onlyArr k s t ∧ (cluAt t k).arr = { a with cmdq := r, cur := some (m, 0, 0) }) ∧
      (¬ ok → ∃ t, exec (.arrayCommandCheck k) s = .next t ∧
        (cluAt t k).arr = { a with cmdq := r, dones := a.dones ++ (if n.testBit 58 then [⟨m, false, 0x0A, true⟩] else []) } ∧
        (noSupervisor s m.ctx → t.sups = s.sups ++ [engineMsg s k m.ctx m.core m.slot 0x0A 0 (BitVec.ofNat 64 (n / 2 ^ 128))]))) ∧
    (∀ m q n fa fb, a.cur = some (m, q, n) → arrayFmt (acAfmt m) = some fa → arrayFmt (acBfmt m) = some fb →
      let b := nextBuf a
      let c := 64 * acChunk m
      (∀ d, a.drain = some d → d.buf = b → exec (.arrayChunkComplete k) s = .next s) ∧
      ((∀ d, a.drain = some d → d.buf ≠ b) →
        (∀ start, n + 1 < c → min (a.fifoA.length / 128) (a.fifoB.length / 128) = 1 → start = (if n = 0 then heldBuf a m q else bufOf a b) → start.length = 16384 →
          ∃ t, exec (.arrayChunkComplete k) s = .next t ∧ onlyArr k s t ∧ (cluAt t k).arr.cur = some (m, q, n + 1) ∧
            (cluAt t k).arr.fifoA = a.fifoA.drop 128 ∧ (cluAt t k).arr.fifoB = a.fifoB.drop 128 ∧
            ∀ i < 128, ∀ j < 128, ∀ x y, a.fifoA[i]? = some x → a.fifoB[j]? = some y →
              let p := contribution (acEw m) (fmtValue fa (x.bits % 2 ^ fa.width)) (fmtValue fb (y.bits % 2 ^ fb.width))
              (bufOf (cluAt t k).arr b)[128 * i + j]? = (start[128 * i + j]?).map (· + p.1) ∧ (p.2 = true → i ∈ (cluAt t k).arr.rowOvf)) ∧
        (n = c → c ≠ 0 → (a.drain = none ∨ (acDall m = false ∧ q + 1 ≠ acNch m)) → ∃ t ov, exec (.arrayChunkComplete k) s = .next t ∧ onlyArr k s t ∧
          (cluAt t k).arr.cur = (if q + 1 = acNch m then none else some (m, q + 1, 0)) ∧ (cluAt t k).arr.lastBuf = some b ∧ (cluAt t k).arr.lastCtx = m.ctx ∧
          (∀ i : Nat, (bufOf (cluAt t k).arr b)[i]? = ((bufOf a b)[i]?).map (fun x => max (-(2 ^ 39 - 1)) (min (2 ^ 39 - 1) x))) ∧
          (cluAt t k).arr.drain = (if acDall m = true ∨ q + 1 = acNch m then some ⟨b, m, q, 0, ov⟩ else a.drain)))) ∧
    (∀ d c, a.drain = some d → (acCores d.cmd k)[d.row % (acCores d.cmd k).length]? = some c → drainMayStart s k d = true → d.row < 127 →
      (liveFor s c d.cmd.ctx = false → ∃ t, exec (.rowLanding k) s = .next t ∧ (cluAt t k).arr.drain = some { d with row := d.row + 1 } ∧
        (∀ x ∈ (cluAt t k).arr.dones, x.cmd.id = d.cmd.id → x.cause = 0x07) ∧
        ((∀ x ∈ a.dones, x.cmd.id = d.cmd.id → x.cause ≠ 0x07) → noSupervisor s d.cmd.ctx →
          t.sups = s.sups ++ [engineMsg s k d.cmd.ctx d.cmd.core d.cmd.slot 0x07 0 (acTag d.cmd)])) ∧
      (∀ h off u, liveFor s c d.cmd.ctx = true → (∀ o ∈ a.openRow, ¬ (o.1 = d.cmd.id ∧ o.2.1 = d.row)) → (coreAt s c).stopping = false →
        (coreAt s c).mhset = some h → h.ctx = d.cmd.ctx → freeLanding (coreAt s c) = some off → openFor s c d.cmd.ctx = true → (coreAt s c).runq = [] → freeSlot s c = some u → s.feWait = [] → (bufOf a d.buf).length = 16384 →
        (∀ i < 16, lineHeld s (scratchLoc c (off + 64 * i)) = false) →
        ∃ t, exec (.rowLanding k) s = .next t ∧ (cluAt t k).arr.drain = some { d with row := d.row + 1 } ∧ sameMemOutside (scratchLoc c off) 1024 s t ∧
          (∀ j < 128, ∀ x, (bufOf a d.buf)[128 * d.row + j]? = some x →
            (readBytes t (scratchLoc c (off + 8 * j)) 8 : Int) = x % 2 ^ 40 * 2 ^ 24 + acEw d.cmd % 2 ^ 16) ∧
          (cluAt t k).arr.openRow = a.openRow ++ [(d.cmd.id, d.row, s.fresh + 1)] ∧
          (coreAt t c).landed = (coreAt s c).landed ++ [⟨off, d.row, d.chunk, d.cmd.id, k, s.fresh + 1⟩] ∧
          let th := thrAt t c u
          th.slot = .loading ∧ th.ctx = d.cmd.ctx ∧ th.pc = h.pc ∧ tget 0 th.x 0 = BitVec.ofNat 64 d.row ∧ tget 0 th.x 1 = BitVec.ofNat 64 d.chunk ∧
          tget 0 th.x 2 = BitVec.ofNat 64 (0xE * 2 ^ 44 + c * 2 ^ 31 + off) ∧
          tget 0 th.x 3 = BitVec.ofNat 64 ((if d.row ∈ d.ovf then 2 ^ 63 else 0) + acHword d.cmd) ∧ (∀ n, 4 ≤ n → tget 0 th.x n = 0) ∧
          th.seat = mkSeat s.number c ∧ th.mode = 0 ∧ th.tl = 0)) ∧
    (∀ d, a.dones.find? (fun d => d.ready && acNotify d.cmd && rowsReleased a d.cmd.id) = some d →
      (8 ≤ a.resq.length → exec (.arrayStatusPush k) s = .next s) ∧
      (resFull s k = true → exec (.arrayStatusPush k) s = .next s) ∧
      (resFull s k = false → ∃ t, exec (.arrayStatusPush k) s = .next t ∧
        (cluAt t k).arr = { a with dones := a.dones.filter (fun x => x.cmd.id != d.cmd.id),
                                   resq := a.resq ++ [BitVec.ofNat 128 ((acTag d.cmd).toNat + ((if d.ovf then 256 else 0) + d.cause) * 2 ^ 64)] }))

/-! ## Kernels and threads (chapter 12) -/

/-- R95, R284 to R296: SPAWN, QUIT, ANCHOR and AMSEND of a thread in no twin, FORK, JOIN and MIGR of any; they trap ILLEGAL in a gang or a twin. SPAWN checks its target and core, sends a start, waits, and delivers the answer. QUIT waits for marks and its plain access and
frees its slot. FORK of no iterations goes to its label; else it writes the join cell, sends the recruits their shares of the range, and ends. JOIN counts its cell down; the last finisher goes
on as the cell says. MIGR reserves a slot or a queue entry at the owner of an address and, with the reservation, departs there. ANCHOR writes its mode bit. AMSEND opens its tag and sends its
message. (Where a clause ends a thread or writes a cell: no run queue, no loose store, no outstanding access, no mark, no full/empty request, and nothing in the way of a request for the cell.)

The model's own: an AMSEND to a device whose route is ABSENT completes in error (log 14, DESIGN CHOICE); JOIN at a peer device traps LINK_ATOMIC, and the order of its checks (log 45, DEDUCED); MIGR to its own core gives up the
lease and the ports and goes on (log 47, DEDUCED); a parent that has recruited waits as QUIT does (log 73, DEDUCED); the low three bits of a CONTPC are dropped (log 85, DESIGN CHOICE). -/
def Obligations.ThreadsStartAndEnd : Prop :=
  ∀ (s : State) (rd ra rb : Reg) (sc : Scope) (tag : BitVec 6) (e : Ext) (off : BitVec 32),
    let c := s.iss.core
    let u := s.iss.slot
    let th := me s
    let a := readX s ra
    let w := a.toNat
    let lbl := fun (o : BitVec 32) => BitVec.ofInt 64 ((s.iss.pc.toNat : Int) + 8 * o.toInt)
    let p := match e with
      | some o => lbl o
      | none => readX s rb
    let reg := fun n => tget 0 (was s).x n
    let idle := th.slot ≠ .parked ∧ noMarks th = true ∧ th.accs = [] ∧ (coreAt s c).loose = [] ∧ s.feWait = [] ∧ (coreAt s c).runq = []
    let stamp := (stampCore s c).1
    let gone := fun (t : State) => t.iss.phase = .ended ∧ thrAt t c u = {}
    let drains := (coreAt s c).loose = [] ∨ ((cluAt s (c / 32)).stopped = false ∧ ∀ e ∈ (coreAt s c).loose, outOfReach s e.place = false ∧ heldWrite s e.place = false)
    let solo := isGang th = false ∧ isTwin th = false ∧ (u % 2 = 0 → isUpper (thrAt s c (u + 1)) = false)
    -- SPAWN
    (isTwin th = false →
     let i := Instr.spawn rd ra rb e
     (∀ v, th.reply = some v → exec i s = .next (writeX (modMe s (fun th => { th with reply := none })) rd v)) ∧
     (th.reply = none → startPending s = true → holds i s .engine 0 3) ∧
     (th.reply = none → startPending s = false →
       (p.toNat % 8 ≠ 0 → exec i s = .next (takeTrap s 0 0x04 p)) ∧
       (p.toNat % 8 = 0 → (2 ^ 13 ≤ w ∨ openFor s (w % 2 ^ 13) th.ctx = false) → exec i s = .next (writeX s rd 2)) ∧
       (p.toNat % 8 = 0 → w < 2 ^ 13 → openFor s w th.ctx = true → ∃ t, exec i s = .next (holdMe t .engine 0 3) ∧ onlyCore c { s with starts := t.starts } t ∧
         (∀ v, thrAt t c v = thrAt s c v) ∧
         t.starts = s.starts ++ [
           { kind := 1, ctx := th.ctx, core := w, src := c, pc := p, x := [reg 0, reg 1, reg 2, reg 3], stamp := stamp, back := some (c, u, th.uid) }]))) ∧
    -- QUIT
    (isTwin th = false →
     (noMarks th = false → holds .quit s .marks 0 0) ∧
     (noMarks th = true → (∃ x ∈ th.accs, x.order ≠ .loose) → holds .quit s .access 0 0) ∧
     (noMarks th = true → (∀ x ∈ th.accs, x.order = .loose) → ¬ drains → ∃ t, exec .quit s = .next t ∧ t.iss.phase = .held ∧ parkedFor (thrAt t c u) .access = true) ∧
     (noMarks th = true → (∀ x ∈ th.accs, x.order = .loose) → drains → (coreAt s c).runq = [] → ∃ t, exec .quit s = .next t ∧ gone t ∧ (coreAt t c).loose = [] ∧
       (ctxAt t th.ctx).ids = (ctxAt s th.ctx).ids.filter (· != th.privid.toNat) ∧
       ∀ q < 4, bExcl (portAt s c q).word = true → (portAt s c q).owner = u → bKind (portAt t c q).word = 0)) ∧
    -- FORK
    (let i := Instr.fork ra rb sc off
     let n := natX s rb % 2 ^ 32
     let g := max 1 (natX s rb / 2 ^ 32)
     (th.forked = true → idle → ∃ t, exec i s = .next t ∧ gone t ∧ t.starts = s.starts ∧ (ctxAt t th.ctx).ids = (ctxAt s th.ctx).ids) ∧
     (th.forked = false → ¬ solo → exec i s = .next (takeTrap s 0 0x01 0)) ∧
     (th.forked = false → solo → w % 64 ≠ 0 → exec i s = .next (takeTrap s 0 0x04 a)) ∧
     (th.forked = false → solo → w % 64 = 0 →
       (∀ x s1, translateFar s (whoOf s c u) { w := true } a 64 = (.trap x, s1) → exec i s = .next (takeTrap s1 0 x a)) ∧
       (∀ x s1, translateFar s (whoOf s c u) { w := true } a 64 = (.wait x, s1) → exec i s = .next (parkMe s1 .pageMove a)) ∧
       ∀ l ks s1, translateFar s (whoOf s c u) { w := true } a 64 = (.reaches (.here l) ks, s1) →
         (n = 0 → ∃ t, exec i s = .next t ∧ onlyThread c u s1 t ∧ thrAt t c u = { me s1 with pc := lbl off, x := tput (tput (tput th.x 0 0) 1 0) 2 a }) ∧
         (n ≠ 0 → placeBlocked s1 true (.here l) 64 = true → exec i s = .next (parkMe s1 .access)) ∧
         (n ≠ 0 → placeBlocked s1 true (.here l) 64 = false → idle →
           let cs := idleCores s1 sc
           let r := min ((n + g - 1) / g) cs.length
           ∃ t m, exec i s = .next t ∧ gone t ∧ (th.row = none → m = (coreAt t c).clock) ∧ 1 ≤ r ∧ t.starts.length = s.starts.length + r ∧ t.starts.take s.starts.length = s.starts ∧
             (∀ j < r, ∃ d v, cs[j]? = some (d, v) ∧ t.starts[s.starts.length + j]? = some
               { kind := 2, ctx := th.ctx, core := d, src := c, pc := s.iss.pc + 8, stamp := m, slot := some v, back := some (c, u, th.uid)
                 x := [BitVec.ofNat 64 (j * n / r), BitVec.ofNat 64 ((j + 1) * n / r), a, reg 3, reg 4, reg 5] }) ∧
             readBytes t l 8 = r ∧ readBytes t (l + 8) 8 = r ∧ readBytes t (l + 16) 8 = th.privid.toNat ∧ readBytes t (l + 24) 8 = (lbl off).toNat ∧
             (∀ j < 4, readBytes t (l + 32 + 8 * j) 8 = (reg (3 + j)).toNat) ∧ sameMemOutside l 64 s t ∧
             (ctxAt t th.ctx).ids = (ctxAt s th.ctx).ids))) ∧
    -- JOIN
    (let i := Instr.join ra
     (¬ solo → exec i s = .next (takeTrap s 0 0x01 0)) ∧
     (solo → w % 64 ≠ 0 → exec i s = .next (takeTrap s 0 0x04 a)) ∧
     (solo → w % 64 = 0 →
       (∀ x s1, translate s (whoOf s c u) { r := true, w := true } a 64 = (.trap x, s1) → exec i s = .next (takeTrap s1 0 x a)) ∧
       (∀ d b ks s1, translate s (whoOf s c u) { r := true, w := true } a 64 = (.reaches (.peer d b) ks, s1) → exec i s = .next (takeTrap s1 0 0x0F a)) ∧
       ∀ l ks s1, translate s (whoOf s c u) { r := true, w := true } a 64 = (.reaches (.here l) ks, s1) →
         (placeBlocked s1 true (.here l) 64 = true → exec i s = .next (parkMe s1 .access)) ∧
         (placeBlocked s1 true (.here l) 64 = false → idle →
         let n := readBytes s l 4
         (n = 0 → exec i s = .next (takeTrap s1 0 0x0A a)) ∧
         (1 < n → ∃ t, exec i s = .next t ∧ gone t ∧ readBytes t l 4 = n - 1 ∧ sameMemOutside l 4 s t) ∧
         (n = 1 → ∃ t, exec i s = .next t ∧ readBytes t l 4 = 0 ∧ sameMemOutside l 4 s t ∧
           let y := thrAt t c u
           y.slot = .ready ∧ y.ctx = th.ctx ∧ y.privid.toNat = readBytes s (l + 16) 8 % 2 ^ 20 ∧ y.pc = BitVec.ofNat 64 (readBytes s (l + 24) 8 / 8 * 8) ∧
           tget 0 y.x 0 = BitVec.ofNat 64 (readBytes s (l + 8) 4) ∧ tget 0 y.x 1 = 0 ∧ tget 0 y.x 2 = a ∧
           (∀ j < 4, tget 0 y.x (3 + j) = BitVec.ofNat 64 (readBytes s (l + 32 + 8 * j) 8)) ∧ (∀ j, 7 ≤ j → tget 0 y.x j = 0) ∧
           y.seat = mkSeat s.number c ∧ y.mode = 0 ∧ y.tl = 0 ∧ y.hbase = (ctxAt s th.ctx).hbase)))) ∧
    -- MIGR
    (let i := Instr.migr ra
     (0 < th.tl ∨ ¬ solo → exec i s = .next (takeTrap s 0 0x01 0)) ∧
     (∀ st, th.tl = 0 → solo → acceptedMigr s = some st → ∃ t, exec i s = .next t ∧ t.iss.phase = .ended ∧ t.starts = s.starts.erase st ∧ ((coreAt s c).runq = [] → thrAt t c u = {}) ∧
       t.packets = s.packets ++ [
         { st with
           x := (List.range 10).map (fun n => tget 0 th.x n), pred := predWord th, status := migrStatus { th with fflags := th.fflags ||| s.iss.flags }, tags := th.tags
           anchor := if th.mode.getLsbD 3 then some th.seat else none, row := th.row, back := none }]) ∧
     (th.tl = 0 → solo → acceptedMigr s = none → startPending s = true → holds i s .engine 0 3) ∧
     (th.tl = 0 → solo → startPending s = false →
       (∀ x s1, translate s (whoOf s c u) { r := true } a 1 = (.trap x, s1) → exec i s = .next (takeTrap s1 0 x a)) ∧
       (∀ d b ks s1, translate s (whoOf s c u) { r := true } a 1 = (.reaches (.peer d b) ks, s1) → exec i s = .next (takeTrap s1 0 0x08 a)) ∧
       ∀ l ks s1, translate s (whoOf s c u) { r := true } a 1 = (.reaches (.here l) ks, s1) → idle →
         let d := if winOf a = 0xD then c / 32 * 32 + w / 2 ^ 20 % 32 else if winOf a = 0xE then w / 2 ^ 31 % 2 ^ 13 else if winOf a = 0xF then c
           else 32 * homeCluster l + l / 2 ^ 9 % 32
         (th.busyTags ≠ 0 → exec i s = .next (holdMe s1 .engine 0 0)) ∧
         (th.busyTags = 0 → d = c → ∃ t, exec i s = .next t ∧ thrAt t c u = th ∧
           ∀ q < 4, bExcl (portAt s c q).word = true → (portAt s c q).owner = u → bKind (portAt t c q).word = 0) ∧
         (th.busyTags = 0 → d ≠ c → ∃ t, exec i s = .next (holdMe t .engine 0 3) ∧ thrAt t c u = th ∧
           t.starts = s.starts ++ [
             { kind := 3, ctx := th.ctx, core := d, src := c, pc := s.iss.pc + 8, stamp := stamp, uid := th.uid, back := some (c, u, th.uid), arg := a }]))) ∧
    -- ANCHOR
    (isTwin th = false → becomes (.anchor ra) s { th with mode := if w % 2 = 1 then th.mode ||| 8 else th.mode &&& 7 }) ∧
    -- AMSEND
    (isTwin th = false →
     let i := Instr.amsend ra rb tag e
     let dst := w % 2 ^ 13
     let dev := w / 2 ^ 48 % 2 ^ 9
     let bad := w / 2 ^ 13 % 2 ^ 35 ≠ 0 ∨ w / 2 ^ 57 ≠ 0 ∨ 5120 ≤ dst
     let s1 := modMe s (fun th => tagOpened th tag.toNat)
     let q : AmMsg := ⟨c, u, th.uid, tag.toNat, th.ctx, dev, dst, p, [reg 0, reg 1, reg 2, reg 3], (dieAt s (dieOfCore c)).ns, stamp⟩
     (th.busyTags.getLsbD tag.toNat = true → parks i s .engine 0 0) ∧
     (th.busyTags.getLsbD tag.toNat = false →
       (p.toNat % 8 ≠ 0 → exec i s = .next (takeTrap s 0 0x04 p)) ∧
       (p.toNat % 8 = 0 → (bad ∨ (dev ≠ s.number ∧ (routeState s dev = 0 ∨ routeState s dev = 2))) → th.slot ≠ .free → ∃ t, exec i s = .next t ∧
         tagCompletes s1 t c u tag.toNat true ∧ t.starts = s.starts ∧ t.linkOut = s.linkOut) ∧
       (p.toNat % 8 = 0 → ¬ bad → dev = s.number → ∃ t, exec i s = .next t ∧ thrAt t c u = me s1 ∧ onlyCore c { s1 with starts := t.starts } t ∧
         t.starts = s.starts ++ [
           { kind := 4, ctx := th.ctx, core := dst, src := c, pc := p, x := [reg 0, reg 1, reg 2, reg 3], stamp := stamp, tag := tag.toNat, back := some (c, u, th.uid) }]) ∧
       (p.toNat % 8 = 0 → ¬ bad → dev ≠ s.number → routeState s dev ≠ 0 → routeState s dev ≠ 2 → ∃ t, exec i s = .next t ∧ thrAt t c u = me s1 ∧
         t.ams = s.ams ++ [q] ∧ t.linkOut = s.linkOut ++ [.start dev q] ∧ t.starts = s.starts)))

/-- R131, R240, R280 to R283, R285, R288, R292, R293, R296 and R297: starts and kernels. A start that reaches its core takes the lowest free slot, else stands in the run queue, else is refused and sent again after 64
cycles; its sender learns which. Of the starts of one cycle at a core that of a lower-numbered source enters first. A recruit begins when its parent has ended. The new thread is LOADING, then
READY. A migrating thread whose reservation is granted is answered, and arrives with its registers. A message completes its tag when it is accepted, and in error at a core that is not
open. A kernel that has shrunk restarts at RELAUNCH on the cores that stay; one with nothing left to run is complete, and its context FREE. -/
def Obligations.StartsReachTheirCores : Prop :=
  (∀ (s : State) (idx : Nat) (st : Start), s.starts[idx]? = some st → st.refused = none →
    let i := Instr.startMessage idx
    let d := st.core
    let s0 := { s with starts := s.starts.eraseIdx idx }
    let told := fun (t : State) (v : W64) => ∀ c u n, st.back = some (c, u, n) → isThread s c u n = true → (thrAt t c u).reply = some v
    let begun := fun (t : State) (v : Nat) =>
      let th := thrAt t d v
      th.slot = .loading ∧ th.ctx = st.ctx ∧ th.pc = st.pc ∧ (∀ n, tget 0 th.x n = st.x[n]?.getD 0) ∧ th.seat = mkSeat s.number d ∧ th.mode = 0 ∧ th.tl = 0 ∧
        th.hbase = (ctxAt s st.ctx).hbase ∧ th.m1 = 0 ∧ th.tags = 0 ∧ th.fflags = 0 ∧ th.rm = 0 ∧ th.privid = BitVec.ofNat 20 (lowestId (ctxAt s st.ctx).ids)
    let slot := if (coreAt s d).runq = [] then freeSlot s0 d else none
    let s1 := noteEntry s0 st
    (st.kind ≠ 2 → st.kind ≠ 3 → outOfTurn s st = true → exec i s = .next s) ∧
    (st.kind ≤ 1 → outOfTurn s st = false → openFor s d st.ctx = false → ∃ t, exec i s = .next t ∧ t.starts = s0.starts ∧ told t 2) ∧
    (st.kind ≤ 1 → outOfTurn s st = false → openFor s d st.ctx = true → ∀ v, slot = some v → ∃ t, exec i s = .next t ∧ t.starts = s0.starts ∧ told t 0 ∧ begun t v) ∧
    (st.kind ≤ 1 → outOfTurn s st = false → openFor s d st.ctx = true → slot = none → runqRoom s0 d = true → ∃ t, exec i s = .next t ∧ t.starts = s0.starts ∧ told t 1 ∧
      (coreAt t d).runq = (coreAt s d).runq ++ [st]) ∧
    (st.kind ≤ 1 → outOfTurn s st = false → openFor s d st.ctx = true → slot = none → runqRoom s0 d = false →
      exec i s = .next { s1 with starts := s0.starts ++ [{ st with refused := some (coreAt s st.src).time }] }) ∧
    (st.kind = 2 → parentThere s st = true → exec i s = .next s) ∧
    (∀ v, st.kind = 2 → parentThere s st = false → st.slot = some v → liveFor s d st.ctx = true → (thrAt s d v).slot = .free → ∃ t, exec i s = .next t ∧ t.starts = s0.starts ∧ begun t v) ∧
    (∀ c u n, st.kind = 3 → st.slot = none → st.queued = false → st.back = some (c, u, n) → isThread s c u n = true →
      (openFor s d st.ctx = false → exec i s = .next (trapOutside s0 c u 0x07 st.arg)) ∧
      (∀ v, openFor s d st.ctx = true → slot = some v → ∃ t, exec i s = .next t ∧ told t 0 ∧ t.starts = s0.starts ++ [{ st with slot := some v }]) ∧
      (openFor s d st.ctx = true → slot = none → runqRoom s0 d = true → ∃ t, exec i s = .next t ∧ told t 0 ∧ t.starts = s0.starts ++ [{ st with queued := true }]) ∧
      (openFor s d st.ctx = true → slot = none → runqRoom s0 d = false →
        exec i s = .next { s with starts := s0.starts ++ [{ st with refused := some (coreAt s st.src).time }] })) ∧
    (∀ c u n, st.kind = 4 → outOfTurn s st = false → st.back = some (c, u, n) → isThread s c u n = true →
      (openFor s d st.ctx = false → ∃ t, exec i s = .next t ∧ t.starts = s0.starts ∧ tagCompletes s t c u st.tag true) ∧
      (∀ v, openFor s d st.ctx = true → slot = some v → ∃ t, exec i s = .next t ∧ t.starts = s0.starts ∧ tagCompletes s t c u st.tag false ∧ begun t v) ∧
      (openFor s d st.ctx = true → slot = none → runqRoom s0 d = true → ∃ t, exec i s = .next t ∧ t.starts = s0.starts ∧ tagCompletes s t c u st.tag false ∧
        (coreAt t d).runq = (coreAt s d).runq ++ [st]) ∧
      (openFor s d st.ctx = true → slot = none → runqRoom s0 d = false → exec i s = .next { s1 with
        ams := s.ams ++ [⟨c, u, n, st.tag, st.ctx, s.number, d, st.pc, st.x, (dieAt s (dieOfCore c)).ns, st.stamp⟩] }))) ∧
  (∀ (s : State) (c u : Nat),
    let th := thrAt s c u
    (th.slot = .loading → makes (.slotLoaded c u) s c u { th with slot := .ready }) ∧
    ∃ t, exec (.startResend c u) s = .next t ∧ { t with starts := s.starts } = s ∧ t.starts = s.starts.map (fun st =>
      if st.back = some (c, u, th.uid) ∧ ∃ n, st.refused = some n ∧ n + 64 ≤ (coreAt s c).time then { st with refused := none } else st)) ∧
  (∀ (s : State) (idx : Nat) (st : Start), s.packets[idx]? = some st → st.kind = 3 →
    let w := st.status.toNat
    ((liveFor s st.core st.ctx = false ∨ (st.slot = none ∧ openFor s st.core st.ctx = false)) → ∃ t, exec (.migrArrival idx) s = .next t ∧
      t.packets = s.packets.eraseIdx idx ∧ (ctxAt t st.ctx).ids = (ctxAt s st.ctx).ids.filter (· != w / 2 ^ 44)) ∧
    (st.slot = none → openFor s st.core st.ctx = true → freeSlot { s with packets := s.packets.eraseIdx idx } st.core = none →
      ∃ t, exec (.migrArrival idx) s = .next t ∧ t.packets = s.packets.eraseIdx idx ∧ (coreAt t st.core).runq = (coreAt s st.core).runq ++ [st]) ∧
    ∀ u, liveFor s st.core st.ctx = true → st.slot = some u → ∃ t, exec (.migrArrival idx) s = .next t ∧ t.packets = s.packets.eraseIdx idx ∧
      let th := thrAt t st.core u
      let p := st.pred.toNat
      th.slot = .loading ∧ th.uid = st.uid ∧ th.ctx = st.ctx ∧ th.pc = st.pc ∧ (∀ n, tget 0 th.x n = st.x[n]?.getD 0) ∧ th.m1.toNat = p / 2 ^ 16 % 2 ^ 16 ∧
      th.m2.toNat = p / 2 ^ 32 % 2 ^ 16 ∧ th.m3.toNat = p / 2 ^ 48 ∧ th.privid.toNat = w / 2 ^ 44 ∧ th.mode = (if w / 2 ^ 43 % 2 = 1 then 8 else 0) ∧
      th.fflags.toNat = w / 2 ^ 38 % 2 ^ 5 ∧ th.fen.toNat = w / 2 ^ 33 % 2 ^ 5 ∧ th.rm.toNat = w / 2 ^ 31 % 4 ∧ th.pdeg.toNat = w / 2 ^ 25 % 2 ^ 6 ∧ th.tags = st.tags ∧
      th.seat = st.anchor.getD (mkSeat s.number st.core) ∧ th.tl = 0) ∧
  (∀ (s : State) (idx : Nat) (q : AmMsg), s.ams[idx]? = some q → isThread s q.core q.slot q.uid = true →
    let s0 := { s with ams := s.ams.eraseIdx idx }
    (q.dev = s.number → (dieAt s (dieOfCore q.core)).ns < q.since + 50000 → exec (.amsendRetry idx) s = .next s) ∧
    (q.dev = s.number → q.since + 50000 ≤ (dieAt s (dieOfCore q.core)).ns → openFor s q.dst q.ctx = false →
      ∃ t, exec (.amsendRetry idx) s = .next t ∧ t.ams = s0.ams ∧ tagCompletes s t q.core q.slot q.tag true) ∧
    (∀ v, q.dev = s.number → q.since + 50000 ≤ (dieAt s (dieOfCore q.core)).ns → openFor s q.dst q.ctx = true → (coreAt s q.dst).runq = [] → freeSlot s q.dst = some v →
      ∃ t, exec (.amsendRetry idx) s = .next t ∧ t.ams = s0.ams ∧ tagCompletes s t q.core q.slot q.tag false ∧ (thrAt t q.dst v).slot = .loading ∧ (thrAt t q.dst v).pc = q.pc ∧
        ∀ n, tget 0 (thrAt t q.dst v).x n = q.x[n]?.getD 0) ∧
    (q.dev ≠ s.number → routeState s q.dev = 2 → ∃ t, exec (.amsendRetry idx) s = .next t ∧ t.ams = s0.ams ∧ tagCompletes s t q.core q.slot q.tag true)) ∧
  ∀ (s : State) (n : Nat),
    let x := ctxAt s n
    let stay := (staying s n).filter (fun c => (coreAt s c).group == .active)
    let may := x.st = .live ∧ (x.kern = .running ∨ (x.kern = .shrinking ∧ (x.relaunch = 0 ∨ stay = []))) ∧ kernelIdle s n = true
    (¬ may → exec (.kernelComplete n) s = .next s) ∧
    (may → ∃ t, exec (.kernelComplete n) s = .next t ∧ ctxAt t n = {} ∧ (∀ m, m ≠ n → ctxAt t m = ctxAt s m) ∧
      (∀ c ∈ staying s n, (coreAt t c).group = .exited) ∧ (∀ q ∈ t.cells, ¬ (q.2.st ≠ 0 ∧ q.2.ctx = n)) ∧ (∀ m ∈ t.sups, m.ctx ≠ n)) ∧
    (x.st ≠ .live ∨ x.kern ≠ .shrinking ∨ kernelIdle s n = false ∨ stay = [] ∨ x.relaunch = 0 → exec (.kernelRelaunch n) s = .next s) ∧
    (∀ c r v, x.st = .live → x.kern = .shrinking → kernelIdle s n = true → x.relaunch ≠ 0 → stay = c :: r → (coreAt s c).runq = [] → freeSlot s c = some v →
      ∃ t, exec (.kernelRelaunch n) s = .next t ∧ (ctxAt t n).kern = .running ∧ (ctxAt t n).count = x.count + 1 ∧
        (∀ d ∈ staying s n, (coreAt s d).group = .evacuating → (coreAt t d).group = .exited) ∧
        (thrAt t c v).slot = .loading ∧ (thrAt t c v).ctx = n ∧ (thrAt t c v).pc = x.relaunch ∧ tget 0 (thrAt t c v).x 0 = BitVec.ofNat 64 (x.count + 1) ∧
        tget 0 (thrAt t c v).x 1 = BitVec.ofNat 64 (stay.length))

/-! ## Barriers and semaphores (chapter 14), gangs and twins (chapter 10) -/

/-- R308 to R320: barriers and semaphores of a thread in no twin whose plain access has completed. A barrier word names a cell of a group that holds the core, else PROTECTION. BARINIT opens, resizes or frees
the cell, or says why not; an arrival counts, up to what is expected, and the last one ends the phase, whose wake goes to the group's cores; BARWAIT and BARAW wait for the phase, and a BARAW that has
arrived already only waits; the wake answers those who were parked for its phase when it was sent, a timeout, after its last cycle, says so. SEMP takes a unit or waits; SEMV checks its core and gives its units, one each, to the waiters in their order, the rest to the count, and latches $events.SEM. A request waits
while the clock of the cluster that holds the cell, or of the semaphore's core, stands (R420). (A waiter counts for BARINIT until the wake has reached it: log 93, DESIGN CHOICE.) -/
def Obligations.BarriersAndSemaphores : Prop :=
  (∀ (s : State) (rd ra rb : Reg), isTwin (me s) = false →
    let c := s.iss.core
    let u := s.iss.slot
    let ctx := (me s).ctx
    let a := readX s ra
    let w := a.toNat
    let L := w / 2 ^ 13 % 8
    let I := w % 2 ^ 13
    let legal := w / 2 ^ 20 = 0 ∧ ((L = 2 ∧ I = c / 32 ∧ I < 160) ∨ (L = 3 ∧ I = dieOfCore c ∧ I < 4) ∨ (L = 4 ∧ I = s.number))
    let n := (if L = 2 then I * 16 else if L = 3 then 2560 + I * 16 else 2624) + w / 2 ^ 16 % 16
    let x := cellAt s n
    let holder := if L = 2 then I else if L = 3 then clusterOnDie I 0 else 0
    let stands := (cluAt s holder).stopped = true
    let k := natX s rb % 2 ^ 20
    let own := x.st = 1 ∧ x.ctx = ctx
    let cellOnly := fun (t : State) (y : Cell) => ∃ t0, clocked t0 t ∧ cellAt t0 n = y ∧ (∀ m, m ≠ n → cellAt t0 m = cellAt s m) ∧ { t0 with cells := s.cells } = s
    let gives := fun (i : Instr) (v : Nat) => ∃ t, clocked s t ∧ exec i s = .next (writeX t rd (BitVec.ofNat 64 v))
    let refuses := fun (i : Instr) => ∃ t, clocked s t ∧ exec i s = .next (takeTrap t 0 0x0A a)
    let arrivedIn := fun (t : State) (p : Nat) => modMe t (fun th => { th with arrived := th.arrived.filter (fun r => r.tl != th.tl) ++ [⟨s.iss.pc, a, p, th.tl⟩] })
    let waits := fun (i : Instr) (p kind : Nat) => ∃ t, clocked (if kind = 2 then arrivedIn s p else s) t ∧
      exec i s = .next (holdMe t .sync a (BitVec.ofNat 64 (4 * p + kind)))
    let waiters := fun (d : Nat) => ((List.range 16).map (thrAt s d)).filter (fun th => waitsOn s d n th && (onCell th).map (·.2) == some x.phase)
    let fits := own ∧ k ≠ 0 ∧ k ≤ x.expect - x.arrived
    let last := x.arrived + k = x.expect
    let arrives := fun (t : State) => ∃ t0, clocked t0 t ∧ (∀ m, m ≠ n → cellAt t0 m = cellAt s m) ∧ { t0 with cells := s.cells, wakes := s.wakes } = s ∧
      (¬ last → cellAt t0 n = { x with arrived := x.arrived + k } ∧ t0.wakes = s.wakes) ∧
      (last → cellAt t0 n = { x with phase := (x.phase + 1) % 256, arrived := 0 } ∧ t0.wakes = s.wakes ++
        ((staying s ctx).filter (inCellGroup n)).map (fun d => ⟨n, x.phase, d, (waiters d).map (·.uid), (coreAt s d).time⟩))
    let arrived := hasArrived s a
    (∀ i ∈ [Instr.barinit rd ra rb, .bararr rd ra rb, .barwait rd ra rb, .baraw rd ra rb, .semp rd ra, .semv ra rb],
      (me s).reply = none → plainBusy (me s) = true → parks i s .access 0 0) ∧
    (∀ i ∈ [Instr.barinit rd ra rb, .bararr rd ra rb, .barwait rd ra rb, .baraw rd ra rb, .semp rd ra],
      ∀ v, (me s).reply = some v → exec i s = .next (writeX (modMe s (fun th => { th with reply := none })) rd v)) ∧
    ((me s).reply = none → plainBusy (me s) = false →
      (legal → stands → ∀ i ∈ [Instr.barinit rd ra rb, .bararr rd ra rb, .barwait rd ra rb, .baraw rd ra rb], parks i s .access 0 0) ∧
      (¬ legal → ∀ i ∈ [Instr.barinit rd ra rb, .bararr rd ra rb, .barwait rd ra rb, .baraw rd ra rb], exec i s = .next (takeTrap s 0 0x0A a)) ∧
      (legal → ¬ stands →
        let i := Instr.barinit rd ra rb
        let most := if L = 2 then 512 else if L = 3 then 20480 else 81920
        (most < k ∨ (x.st = 0 ∧ k = 0) → gives i 2) ∧
        (k ≤ most → x.st = 0 → k ≠ 0 → ∃ t, exec i s = .next (writeX t rd 0) ∧ cellOnly t ⟨ctx, 1, 0, k, 0⟩) ∧
        (k ≤ most → x.st ≠ 0 → x.ctx ≠ ctx → gives i 1) ∧
        (k ≤ most → x.st ≠ 0 → x.ctx = ctx → (x.arrived ≠ 0 ∨ cellWaited s n = true) → gives i 3) ∧
        (k ≤ most → x.st ≠ 0 → x.ctx = ctx → x.arrived = 0 → cellWaited s n = false → ∃ t, exec i s = .next (writeX t rd 0) ∧
          cellOnly t (if k = 0 then {} else { x with expect := k }))) ∧
      (legal → ¬ stands → ¬ fits → refuses (.bararr rd ra rb) ∧ (arrived = none → refuses (.baraw rd ra rb))) ∧
      (legal → ¬ stands → fits → (∃ t, exec (.bararr rd ra rb) s = .next (writeX t rd (BitVec.ofNat 64 x.phase)) ∧ arrives t) ∧
        (arrived = none → ∃ t, arrives t ∧ ((last ∧ x.phase < 256 → exec (.baraw rd ra rb) s = .next (writeX t rd (BitVec.ofNat 64 x.phase))) ∧
          (¬ last → exec (.baraw rd ra rb) s =
            .next (holdMe (arrivedIn t x.phase) .sync a (BitVec.ofNat 64 (4 * x.phase + 2))))))) ∧
      (∀ p, legal → ¬ stands → arrived = some p → (¬ own → refuses (.baraw rd ra rb)) ∧ (own → x.phase ≠ p → gives (.baraw rd ra rb) p) ∧ (own → x.phase = p → waits (.baraw rd ra rb) p 2)) ∧
      (legal → ¬ stands → ¬ own → refuses (.barwait rd ra rb)) ∧
      (legal → ¬ stands → own → x.phase ≠ natX s rb % 256 → gives (.barwait rd ra rb) 0) ∧
      (legal → ¬ stands → own → x.phase = natX s rb % 256 → waits (.barwait rd ra rb) x.phase 0) ∧
      (let m := w % 16
       (0 < semAt s c m → ∃ t, exec (.semp rd ra) s = .next (writeX t rd 0) ∧ onlyCore c s t ∧ { coreAt t c with sems := (coreAt s c).sems } = coreAt s c ∧
         ∀ j, semAt t c j = if j = m then semAt s c m - 1 else semAt s c j) ∧
       (semAt s c m = 0 → ∃ t, exec (.semp rd ra) s = .next (holdMe t .sync (BitVec.ofNat 64 m) 1) ∧ onlyCore c s t ∧
         coreAt t c = { coreAt s c with semWait := (coreAt s c).semWait.filter (fun q => q.2 != u) ++ [(m, u)] })) ∧
      (let i := Instr.semv ra rb
       let d := w % 2 ^ 13
       let m := w / 2 ^ 16 % 16
       let g := natX s rb % 2 ^ 32
       let bad := w / 2 ^ 13 % 8 ≠ 0 ∨ w / 2 ^ 20 ≠ 0
       (bad → exec i s = .next (takeTrap s 0 0x0A a)) ∧
       (¬ bad → liveFor s d ctx = false → exec i s = .next (takeTrap s 0 0x07 a)) ∧
       (¬ bad → liveFor s d ctx = true → (cluAt s (d / 32)).stopped = true → parks i s .access 0 0) ∧
       (¬ bad → liveFor s d ctx = true → (cluAt s (d / 32)).stopped = false →
         let ws := ((coreAt s d).semWait.filter (fun q => q.1 == m)).map (·.2)
         let given := ws.take g
         ws.Nodup → (∀ v ∈ given, v < 16 ∧ parkedFor (thrAt s d v) .sync = true) → nextClocked i s (fun t => onlyCore d s t ∧
           semAt t d m = min (2 ^ 32 - 1) (semAt s d m + (g - ws.length)) ∧ (∀ j, j ≠ m → semAt t d j = semAt s d j) ∧
           (coreAt t d).semWait = (coreAt s d).semWait.filter (fun q => !given.contains q.2) ∧
           (∀ v ∈ given, (thrAt t d v).reply = some 0 ∧ (thrAt t d v).slot = readySlot (thrAt s d v) ∧ (thrAt t d v).park = none) ∧
           (∀ v < 16, v ∉ given → (thrAt t d v).reply = (thrAt s d v).reply ∧ ((thrAt s d v).ctx ≠ ctx → thrAt t d v = thrAt s d v)) ∧
           ∀ v < 16, (thrAt s d v).ctx = ctx → (thrAt s d v).slot ≠ .free → (thrAt t d v).events = (thrAt s d v).events ||| 4))))) ∧
  (∀ (s : State) (idx : Nat) (w : Wake), s.wakes[idx]? = some w → nextClocked (.barrierWake idx) s (fun t => t.wakes = s.wakes.eraseIdx idx ∧
    onlyCore w.core { s with wakes := s.wakes.eraseIdx idx } t ∧
    ∀ v < 16, ∀ q, (thrAt s w.core v).park = some q →
      let th := thrAt s w.core v
      thrAt t w.core v = if waitsOn s w.core w.cell th = true ∧ q.aux.toNat / 4 = w.phase ∧ th.uid ∈ w.uids ∧ q.since ≤ w.since
        then { th with reply := some (if q.aux.toNat % 4 = 2 then BitVec.ofNat 64 (q.aux.toNat / 4 % 256) else 0), slot := readySlot th, park := none }
        else th)) ∧
  ∀ (s : State) (c u : Nat) (q : Park), (thrAt s c u).park = some q → parkedFor (thrAt s c u) .sync = true →
    let th := thrAt s c u
    let late := th.fewait ≠ 0 ∧ q.since + th.fewait.toNat < (coreAt s c).time
    (¬ late → exec (.syncTimeout c u) s = .next s) ∧
    (late → ∃ t, exec (.syncTimeout c u) s = .next t ∧ onlyCore c s t ∧ sameOtherThreads c u s t ∧
      thrAt t c u = { th with reply := some (if q.aux.toNat % 4 = 2 then BitVec.ofNat 64 (q.aux.toNat / 4 % 256 + 2 ^ 63) else 1), slot := readySlot th, park := none } ∧
      (coreAt t c).semWait = if q.aux = 1 then (coreAt s c).semWait.filter (fun p => p.2 != u) else (coreAt s c).semWait)

/-- R258 to R260: GANG, UNGANG and TWIN of a thread in no twin, and UNTWIN. The status is 2 for an odd slot, 4 above trap level 0, 3 in a gang, 1 when the slot above is taken. GANG takes that slot, or its own
SPLIT one, for the high halves; UNGANG frees it. TWIN waits for the thread's results, then starts the trailing copy at the next bundle. UNTWIN does nothing outside a twin; at the bundle that
both threads have reached it frees the trailing slot. (The core's run queue is empty where a slot becomes FREE.) That TWIN waits, MARKS and then ACCESS, is the model's reading of R260 (log 97, DESIGN CHOICE), and
what the trailing copy keeps of its own is log 17. -/
def Obligations.GangsAndTwinsForm : Prop :=
  ∀ (s : State) (rd : Reg), rd.toNat < 16 →
    let c := s.iss.core
    let u := s.iss.slot
    let th := me s
    let odd := thrAt s c (u + 1)
    let taken := odd.slot ≠ .free ∨ isReserved s c (u + 1) = true
    let status := fun (busy : Prop) (n : Nat) => (n = 2 ∧ u % 2 = 1) ∨ (n = 4 ∧ u % 2 = 0 ∧ th.tl ≠ 0) ∨ (n = 3 ∧ u % 2 = 0 ∧ th.tl = 0 ∧ isGang th = true) ∨
      (n = 1 ∧ u % 2 = 0 ∧ th.tl = 0 ∧ isGang th = false ∧ busy)
    (isTwin th = false →
      (∀ n, status (taken ∧ odd.slot ≠ .split) n → exec (.gang rd) s = .next (writeX s rd (BitVec.ofNat 64 n))) ∧
      (u % 2 = 0 → th.tl = 0 → isGang th = false → ¬ (taken ∧ odd.slot ≠ .split) → ∃ t, exec (.gang rd) s = .next t ∧
        onlyCore c { s with fresh := s.fresh + 1 } t ∧ (∀ v, v ≠ u → v ≠ u + 1 → thrAt t c v = thrAt s c v) ∧
        thrAt t c u = { th with x := tput th.x rd.toNat 0, mode := th.mode ||| 1 } ∧
        thrAt t c (u + 1) = if odd.slot = .split then { odd with slot := .ganghigh } else { slot := .ganghigh, uid := s.fresh + 1, ctx := th.ctx }) ∧
      (u % 2 = 0 → (odd.slot = .ganghigh ∨ odd.slot = .split) → (coreAt s c).runq = [] → ∃ t, exec .ungang s = .next t ∧ onlyCore c s t ∧
        (∀ v, v ≠ u → v ≠ u + 1 → thrAt t c v = thrAt s c v) ∧ thrAt t c u = { th with mode := th.mode &&& 0xE } ∧ thrAt t c (u + 1) = {}) ∧
      (¬ (u % 2 = 0 ∧ (odd.slot = .ganghigh ∨ odd.slot = .split)) → exec .ungang s = .next s) ∧
      (∀ n, status taken n → exec (.twin rd) s = .next (writeX s rd (BitVec.ofNat 64 n))) ∧
      (u % 2 = 0 → th.tl = 0 → isGang th = false → ¬ taken →
        (noMarks th = false → holds (.twin rd) s .marks 0 0) ∧
        (noMarks th = true → (∃ x ∈ th.accs, x.order ≠ .loose) → holds (.twin rd) s .access 0 0) ∧
        (noMarks th = true → (∀ x ∈ th.accs, x.order = .loose) → ∃ t, exec (.twin rd) s = .next t ∧ onlyCore c { s with fresh := s.fresh + 1 } t ∧
          (∀ v, v ≠ u → v ≠ u + 1 → thrAt t c v = thrAt s c v) ∧
          (thrAt t c u).x = tput th.x rd.toNat 0 ∧ (thrAt t c u).mode = th.mode ||| 2 ∧ (thrAt t c u).pc = th.pc ∧
          let o := thrAt t c (u + 1)
          o.slot = .trailing ∧ o.pc = s.iss.pc + 8 ∧ o.mode = th.mode ||| 6 ∧ o.x = tput th.x rd.toNat 0 ∧ o.v = th.v ∧ o.m1 = th.m1 ∧ o.m2 = th.m2 ∧ o.m3 = th.m3 ∧
          o.ctx = th.ctx ∧ o.privid = th.privid ∧ o.seat = th.seat ∧ o.tags = th.tags ∧ o.tagerr = th.tagerr ∧ o.events = th.events ∧ o.fewait = th.fewait ∧
          o.fflags = th.fflags ∧ o.rm = th.rm ∧ o.fen = th.fen ∧ o.pdeg = th.pdeg ∧ o.tl = 0 ∧ o.hbase = th.hbase ∧ o.accs = [])) ∧
      exec .untwin s = .next s) ∧
    (isTwin th = true → isTrail th = false → th.cmp = [{ enc := s.iss.word.toNat, addr := 0, size := 0, ord := 0, data := 0, acc := none, met := true }] → s.iss.phase = .going → (coreAt s c).runq = [] →
      ∃ t, exec .untwin s = .next t ∧ onlyCore c s t ∧ (∀ v, v ≠ u → v ≠ u + 1 → thrAt t c v = thrAt s c v) ∧ thrAt t c (u + 1) = {} ∧
        thrAt t c u = { th with mode := th.mode &&& 9, lvq := [], cmp := [], ahead := 0 })

/-! ## Contexts (chapter 10) -/

/-- R240 and R247 to R252: KILL, WAKE, RESUME and PREEMPT of a privileged thread in no twin. The status is 1 when the word names no thread or no context, 3 for the issuer's own, 2 for one whose state does not allow it, else
0. KILL frees the slots of a thread that live together, or stops a context's threads, exits its groups and notifies the host; WAKE latches $events.WAKE; RESUME ends a park of SUPERVISOR as its
mode says, or one of FPX; PREEMPT waits for the image. What acts on a thread waits while the clock of its cluster stands (R420). (No run queue, and no special-function flags pending at a resumed FPX park. The NOTIFY goes
to the first session with host role: log 79, DESIGN CHOICE; the shape of the record and of the message is log 53, DEDUCED.) -/
def Obligations.ContextInstructionsAct : Prop :=
  ∀ (s : State) (rd ra rb : Reg), isTwin (me s) = false → privileged s (was s) = true →
    let c := s.iss.core
    let w := (readX s ra).toNat
    let n := w % 2 ^ 12
    let d := w / 2 ^ 12 % 2 ^ 13
    let v := w / 2 ^ 25 % 16
    let x := ctxAt s n
    let th := thrAt s d v
    let known := x.st ≠ .free ∧ d < 5120 ∧ th.slot ≠ .free ∧ th.ctx = n
    let there := known ∧ (cluAt s (d / 32)).stopped = false
    let gives := fun (i : Instr) (k : W64) => exec i s = .next (writeX s rd k)
    let tells := fun (i : Instr) (k : W64) => ∃ t, exec i s = .next (writeX t rd k) ∧ clocked s t
    let acts := fun (i : Instr) (p : State → Prop) => ∃ t t0, exec i s = .next (writeX t rd 0) ∧ clocked t0 t ∧ p t0
    let ready := fun (y : Thread) => { y with slot := readySlot y, park := none }
    let lv := if th.tl = 1 then th.l1 else th.l2
    let back := { th with m1 := lv.estat.setWidth 16, m2 := (lv.estat >>> 16).setWidth 16, m3 := (lv.estat >>> 32).setWidth 16, tl := th.tl - 1, pc := lv.epc }
    let kt := Instr.killThread rd ra rb
    let kc := Instr.killContext rd ra rb
    let wk := Instr.wake rd ra
    let pr := Instr.preempt rd ra
    (¬ known → ∀ i ∈ [kt, wk, .resumeRetry rd ra rb, .resumeSkip rd ra rb, .resumeHandler rd ra rb], gives i 1) ∧
    (known → ¬ there → ∀ i ∈ [kt, wk, .resumeRetry rd ra rb, .resumeSkip rd ra rb, .resumeHandler rd ra rb], holds i s .engine 0 6) ∧
    (there → d = c → s.iss.slot ∈ unitSlots s d v → tells kt 3) ∧
    (there → ¬ (d = c ∧ s.iss.slot ∈ unitSlots s d v) → (coreAt s d).runq = [] → ∃ t, exec kt s = .next (writeX t rd 0) ∧ ∀ y ∈ unitSlots s d v, (thrAt s d y).slot ≠ .free → thrAt t d y = {}) ∧
    (x.st = .free → gives kc 1) ∧
    (x.st ≠ .free → n = (me s).ctx → gives kc 3) ∧
    (n ≠ (me s).ctx → x.st = .preempting ∨ x.st = .killed → gives kc 2) ∧
    (n ≠ (me s).ctx → x.st = .loading ∨ x.st = .live ∨ x.st = .saved ∨ x.st = .restoring → ∃ t ws, exec kc s = .next (writeX t rd 0) ∧
      (ctxAt t n).st = (if coresOf s n = [] then .free else .killed) ∧ (∃ m, t.hostOut = s.hostOut ++ [{ op := 0x0C, status := 0, reqid := 0, ctx := n, body := ws, stamp := m, port := s.hosts.headD 0 }]) ∧
      ws.head? = some (stampCore s c).1 ∧ ws.getLast? = some x.killrec ∧
      (∀ e ∈ coresOf s n, (coreAt t e).group = .exited) ∧
      (∀ e ∈ coresOf s n, (coreAt s e).group ≠ .exited → ∀ y < 16, (thrAt s e y).ctx = n → (thrAt s e y).slot ≠ .free → thrAt t e y = {}) ∧
      (∀ q ∈ t.cells, ¬ (q.2.st ≠ 0 ∧ q.2.ctx = n)) ∧ ∀ m, m ≠ n → ctxAt t m = ctxAt s m) ∧
    (there → th.slot = .halted ∨ th.slot = .killed → tells wk 2) ∧
    (there → th.slot ≠ .halted → th.slot ≠ .killed → acts wk (fun t => onlyThread d v s t ∧
      thrAt t d v = (let y := { th with events := th.events ||| 8 }
        match th.park with
        | some q => if th.slot = .parked ∧ q.reason = .event ∧ y.events &&& q.obj.setWidth 4 ≠ 0 then ready y else y
        | none => y))) ∧
    (there → ∀ i ∈ [Instr.resumeRetry rd ra rb, .resumeSkip rd ra rb, .resumeHandler rd ra rb], natX s rb % 4 = 3 → tells i 2) ∧
    (there → natX s rb % 4 ≠ 3 →
      (parkedFor th .supervisor = true →
        acts (.resumeRetry rd ra rb) (fun t => onlyThread d v s t ∧ thrAt t d v = ready back) ∧
        acts (.resumeSkip rd ra rb) (fun t => onlyThread d v s t ∧ thrAt t d v = ready { back with pc := lv.epc + 8 }) ∧
        acts (.resumeHandler rd ra rb) (fun t => onlyThread d v s t ∧
          thrAt t d v = ready { th with pc := th.hbase + BitVec.ofNat 64 (64 * (lv.ecause.toNat % 256)) })) ∧
      (parkedFor th .fpx = true → th.late = [] → th.marker = false →
        (∀ i ∈ [Instr.resumeRetry rd ra rb, .resumeSkip rd ra rb], acts i (fun t => onlyThread d v s t ∧ thrAt t d v = ready th)) ∧
        tells (.resumeHandler rd ra rb) 2) ∧
      (parkedFor th .supervisor = false → parkedFor th .fpx = false → ∀ i ∈ [Instr.resumeRetry rd ra rb, .resumeSkip rd ra rb, .resumeHandler rd ra rb], tells i 2)) ∧
    (∀ k, (me s).reply = some k → exec pr s = .next (writeX (modMe s (fun y => { y with reply := none })) rd k)) ∧
    ((me s).reply = none →
      let mine := some (c, s.iss.slot, (me s).uid)
      (x.waiter = mine → holds pr s .preempt 0 0) ∧
      (x.waiter ≠ mine → x.st = .free → gives pr 1) ∧
      (x.waiter ≠ mine → x.st ≠ .free → n = (me s).ctx → gives pr 3) ∧
      (x.waiter ≠ mine → x.st ≠ .free → n ≠ (me s).ctx → x.st ≠ .live → gives pr 2) ∧
      (x.waiter ≠ mine → n ≠ (me s).ctx → x.st = .live → ∃ t, exec pr s = .next (holdMe t .preempt) ∧ onlyCore c { s with ctxs := t.ctxs } t ∧
        ctxAt t n = { x with st := .preempting, image := some { stamp := (stampCore s c).1 }, waiter := mine } ∧ ∀ m, m ≠ n → ctxAt t m = ctxAt s m))

/-- R240, R241, R248, R252 to R257, R301 and R304: what happens to contexts. A held message enters its mailbox when two slots are free, after the kill record that stands before it. A core that a pre-emption
reaches issues no more and its parked threads halt; a thread halts at its boundary, and its special-function entries leave their queue; with all halted the image is DONE, the context SAVED, and its issuer answered; a frozen array is spilled, and its lease goes on. A core block restores the core's
registers, ports and threads. An uncorrectable error kills a thread; a poisoned line is reported. A claimed core is ACTIVE after its wipe; an exited one is wiped and IDLE. (No full/empty
request waits, no buffered store, reservation, name or NEVER_PRODUCED trap of the core, where a clause needs none.)

The model's own: the kill record is written, or held, before its message (log 53, DEDUCED); the image is kept in State and written to memory at IMAGE_DONE, with layouts of the model's where the spec gives none (log 16, DESIGN
CHOICE); a poisoned line stays poisoned until it is wiped (log 96, DESIGN CHOICE). -/
def Obligations.ContextsStopAndRestart : Prop :=
  (∀ (s : State) (idx : Nat) (m : SupMsg), s.sups[idx]? = some m →
    let s0 := { s with sups := s.sups.eraseIdx idx }
    let sends := fun (t : State) => exec (.supervisorMessageRetry idx) s = .next (if m.words = [] then t else supSend t { m with record := [] })
    (∀ l, m.record ≠ [] → recordPlace s0 (msgRoot s0 m) = .at l → sends (writeRecord s0 l m.record)) ∧
    (m.record ≠ [] → recordPlace s0 (msgRoot s0 m) = .nowhere → sends s0) ∧
    (∀ k, m.record ≠ [] → recordPlace s0 (msgRoot s0 m) = .wait k → exec (.supervisorMessageRetry idx) s = .next (startExit s k)) ∧
    (m.record = [] → (mboxById s m.core 0 = none ∨ coreLive s m.core = false ∨ (cluAt s (m.core / 32)).stopped = true) → exec (.supervisorMessageRetry idx) s = .next s) ∧
    ∀ i, m.record = [] → coreLive s m.core = true → (cluAt s (m.core / 32)).stopped = false → mboxById s m.core 0 = some i → i < 16 →
      let b := mbox s m.core i
      (mboxFree s m.core i < 2 → exec (.supervisorMessageRetry idx) s = .next s) ∧
      (2 ≤ mboxFree s m.core i → b.base + 16 * b.slots ≤ scratch (coreAt s m.core).part * 8192 - 1024 → ∃ t, exec (.supervisorMessageRetry idx) s = .next t ∧
        t.sups = s.sups.eraseIdx idx ∧ (mbox t m.core i).count = b.count + 2 ∧
        ∀ j < 2, readBytes t (scratchLoc m.core (b.base + 16 * ((b.head + b.count + j) % b.slots))) 16 =
          (m.words[2 * j]?.getD 0).toNat + (m.words[2 * j + 1]?.getD 0).toNat * 2 ^ 64)) ∧
  (∀ (s : State) (c u : Nat),
    let k := coreAt s c
    let th := thrAt s c u
    let busy := th.slot = .parked ∧ (∃ q, th.park = some q ∧ q.reason = .busy ∧ q.aux = 0) ∧ k.time < th.busyTil
    let asked := (ctxAt s k.ctx).st = .preempting ∧ k.stopping = false ∧ k.group ≠ .idle ∧ k.group ≠ .exited
    let stops := k.stopping = true ∧ (ctxAt s k.ctx).st = .preempting ∧ ¬ busy
    (¬ asked → exec (.preemptRequest c) s = .next s) ∧
    (asked → k.loose = [] → (∀ p ∈ s.clusters, p.2.agent.cons = []) →
      (∀ v, (thrAt s c v).resv = [] ∧ (thrAt s c v).traps = [] ∧ (thrAt s c v).forked = false ∧ ∀ x, (thrAt s c v).keep = some x → x.back = []) →
      ∃ t, exec (.preemptRequest c) s = .next t ∧ (coreAt t c).stopping = true ∧
        (∀ key, (cluAt s (c / 32)).arr.holder = some key → key / 16 = c → (cluAt t (c / 32)).arr.frozen = some k.ctx) ∧
        ∀ v < 16, ∀ q, (thrAt s c v).slot = .parked → (thrAt s c v).park = some q → reissues' q.reason = true →
          (thrAt t c v).slot = .halted ∧ (thrAt t c v).halted = .parked ∧ (thrAt t c v).park = some q ∧ ∀ e ∈ (coreAt t c).sfu, e.uid ≠ (thrAt s c v).uid) ∧
    (¬ stops → exec (.threadHalt c u) s = .next s) ∧
    (stops → th.slot = .ready → th.park = none → th.resv = [] → th.traps = [] → th.forked = false → th.inside = none → th.keep = none → ∃ t, exec (.threadHalt c u) s = .next t ∧
      thrAt t c u = { th with halted := .ready, slot := .halted } ∧ (coreAt t c).sfu = k.sfu.filter (·.uid != th.uid) ∧
      (coreAt t c).sfuHeld = k.sfuHeld ++ k.sfu.filter (·.uid == th.uid)) ∧
    (th.slot = .free ∨ th.slot = .killed → exec (.ueKill c u) s = .next s) ∧
    (th.slot ≠ .free → th.slot ≠ .killed → ∃ t, exec (.ueKill c u) s = .next t ∧ ∀ y ∈ unitSlots s c u, (thrAt s c y).slot ≠ .free →
      if slotSeen (thrAt s c y) = .split then thrAt t c y = {} else (thrAt t c y).slot = .killed ∧ (thrAt t c y).uid = (thrAt s c y).uid ∧ (thrAt t c y).ctx = (thrAt s c y).ctx ∧ (thrAt t c y).x = [])) ∧
  (∀ (s : State) (n : Nat) (im : Image), (ctxAt s n).image = some im → s.feWait = [] →
    let x := ctxAt s n
    let cs := staying s n
    let base := x.savebase.toNat
    let may := x.st = .preempting ∧ (∀ c ∈ cs, coreHalted s c = true) ∧ (∀ q ∈ s.starts, q.ctx = n → q.kind = 4) ∧ (∀ q ∈ s.packets, q.ctx ≠ n)
    let spilled := ∀ q ∈ s.clusters, q.2.arr.frozen ≠ some n
    (¬ may → exec (.imageDone n) s = .next s) ∧
    (may → ∃ t, exec (.imageDone n) s = .next t ∧ (ctxAt t n).st = .saved ∧ (ctxAt t n).waiter = none ∧
      (∃ l, (ctxAt t n).image = some { im with fin := true, cores := l } ∧ l.map (fun q => (q.num, q.core)) = cs.map (fun c => (c, coreAt s c))) ∧
      (spilled → readBytes t base 8 = (cs.length * 4 + 3) % 2 ^ 64) ∧ (¬ spilled → readBytes t base 8 = (cs.length * 4 + 1) % 2 ^ 64) ∧
      readBytes t (base + 8) 8 = im.stamp.toNat ∧ (∀ c ∈ cs, (coreAt t c).group = .exited) ∧
      (∀ m, (cellAt s m).st = 1 → (cellAt s m).ctx = n → cellAt t m = { cellAt s m with st := 2 }) ∧
      ∀ c u y, x.waiter = some (c, u, y) → isThread s c u y = true → c ∉ cs → (thrAt t c u).reply = some 0)) ∧
  (∀ (s : State) (k n : Nat) (im : Image), (cluAt s k).arr.frozen = some n → (ctxAt s n).image = some im → (ctxAt s n).st = .saved ∨ (ctxAt s n).st = .preempting →
    let a := (cluAt s k).arr
    ∃ t, exec (.arraySpillDone k) s = .next t ∧
      (ctxAt t n).image = some { im with arrs := im.arrs ++
        [(k, { a with resq := [], dones := a.dones.filter (fun d => !d.ready), half := a.half.filter (fun h => h.2.1 == n) })] } ∧
      (a.waiters = [] → (cluAt t k).arr =
        { prev := a.prev, openRow := a.openRow, resq := a.resq, dones := a.dones.filter (·.ready), half := a.half.filter (fun h => h.2.1 != n) })) ∧
  (∀ (s : State) (c : Nat),
    let k := coreAt s c
    let x := ctxAt s k.ctx
    (x.st ≠ .restoring ∨ k.group ≠ .claimed → exec (.coreBlockLoaded c) s = .next s) ∧
    (∀ off sc im, x.st = .restoring → k.group = .claimed → x.image = some im → blockFor s x c = some (off, sc) → heldArray im sc.num = none → s.feWait = [] →
      recordsOf s x.imageAt off + 16384 ≤ 2 ^ 43 → c < 5120 → sc.empty = [] →
      let a := x.imageAt + off
      ∃ t, exec (.coreBlockLoaded c) s = .next t ∧ (coreAt t c).part.toNat = readBytes s a 8 / 2 ^ 13 % 2 ^ 15 ∧
        (coreAt t c).group = (if readBytes s a 8 / 2 ^ 43 % 2 = 1 then .evacuating else .active) ∧
        (∀ p < 4, (portAt t c p).word = BitVec.ofNat 64 (readBytes s (a + 8 + 16 * p) 8) &&& 0xFFC080001FFFFFFF) ∧
        (∀ i < 11, tget 0 (coreAt t c).s (i + 1) = BitVec.ofNat 64 (readBytes s (a + 72 + 8 * i) 8)) ∧
        (∀ u < 16, let r := recordsOf s x.imageAt off + 1024 * u
          readBytes s r 8 % 16 = 2 → (thrAt t c u).slot = .ready ∧ (thrAt t c u).pc = BitVec.ofNat 64 (readBytes s (r + 8) 8 / 8 * 8) ∧
            ∀ i < 16, tget 0 (thrAt t c u).x i = BitVec.ofNat 64 (readBytes s (r + 32 + 8 * i) 8)) ∧
        (coresOf s k.ctx = [c] → (ctxAt t k.ctx).st = .live ∧ (ctxAt t k.ctx).image = none ∧ (coreAt t c).stopping = false))) ∧
  (∀ (s : State) (n : Nat) (a : W64),
    ((ctxAt s n).st = .free → exec (.poison n a) s = .next s) ∧
    ((ctxAt s n).st ≠ .free → noSupervisor s n → ∃ t, exec (.poison n a) s = .next t ∧ { t with sups := s.sups, dies := s.dies, poison := s.poison } = s ∧
      (∀ l, l ∈ t.poison ↔ l ∈ s.poison ∨ l = a.toNat / 64) ∧
      t.sups = s.sups ++ [{ ctx := n, core := (ctxAt s n).supcore, words := [(stampDie s (if a.toNat < hbmEnd then a.toNat / dieBytes else 0)).1, threadWord 0 false 0x45 0 0 n, 0, a] }])) ∧
  ∀ (s : State) (c : Nat),
    let k := coreAt s c
    let x := ctxAt s k.ctx
    (x.st ≠ .loading ∨ k.group ≠ .claimed → exec (.claimWipeComplete c) s = .next s) ∧
    (x.st = .loading → k.group = .claimed → ∃ t, exec (.claimWipeComplete c) s = .next t ∧ onlyCore c { s with ctxs := t.ctxs } t ∧ coreAt t c = { k with group := .active } ∧
      ctxAt t k.ctx = if ∀ e ∈ coresOf s k.ctx, e ≠ c → (coreAt s e).group = .active then { x with st := .live } else x) ∧
    (k.group ≠ .exited → exec (.groupExit c) s = .next s) ∧
    (k.group = .exited → c < 5120 → ∃ t, exec (.groupExit c) s = .next t ∧ (coreAt t c).group = .idle ∧ (coreAt t c).ctx = 0 ∧ (coreAt t c).part = 0 ∧
      (coreAt t c).stopping = false ∧ (coreAt t c).runq = [] ∧ (∀ v, thrAt t c v = {}) ∧ (∀ p, portAt t c p = {}) ∧
      (∀ o < 2 ^ 20, readByte t (scratchLoc c o) = 0 ∧ isEmpty t (scratchLoc c o / 8) = false) ∧
      ∀ q ∈ t.feWait, ¬ (isScratch q.loc = true ∧ scratchCore q.loc = c))

/-! ## Mappings (chapter 15) -/

/-- R333, R335 to R337, R339 and R340: the page instructions of a privileged thread in no twin. They deliver the answer that has come, wait for their own shootdown or swap or for one of the tables of their context, and
else ask the mapping unit, which answers by the core's next cycle: status 2 for a malformed operand, 1 for a context that is not live or saved or a path that fails, 3 for memory that is not there. MAPSET writes the entry; MAPINV clears V or sets the
residence to RETIRED; PGHOT returns HOT and keeps, halves or clears it; PROMOTE begins a swap, unless the frame is in slot 0, its group is swapping or a slot is not there; TLBFL drops the leaves of its set. An evicted leaf adds its count to HOT; a swap exchanges the two
slots. A wait for a cluster in VIGIL starts its exit (R355). (Nothing of the device is outstanding where an entry is written or caches are flushed; no leaf is cached where memory is said to stay.)

The model's own: the wait while a shootdown of the context is under way (log 48, DEDUCED); PROMOTE 3 for a retired domain, and the order of its checks (log 49, DEDUCED); status 1 for a path through memory that nothing
backs (log 65, DEDUCED); memory is kept by name, so that a swap leaves it as it is (log 6, DESIGN CHOICE). -/
def Obligations.MappingsChangeTheirEntries : Prop :=
  (∀ (s : State) (rd ra rb : Reg), isTwin (me s) = false → privileged s (was s) = true →
    let c := s.iss.core
    let u := s.iss.slot
    let a := readX s ra
    let w := a.toNat
    let ctx := w / 2 ^ 52
    let lvl := w / 2 ^ 48 % 4 + 1
    let b := readX s rb
    let bad := w / 2 ^ 50 % 4 ≠ 0 ∨ 0xB < w / 2 ^ 44 % 16
    let live := (ctxAt s ctx).st = .live ∨ (ctxAt s ctx).st = .saved
    let unit := fun (i : Instr) (t : State) (k : W64) => exec i s = .next (holdMe { t with shoots := s.shoots ++ [⟨c, u, (me s).uid, ctx, [], k⟩] } .engine 0 3)
    let gives := fun (i : Instr) (k : W64) => unit i s k
    let all := [Instr.mapset rd ra rb, .mapinvUnmap rd ra rb, .mapinvRetire rd ra rb, .pghotRead rd ra rb, .pghotHalve rd ra rb, .pghotClear rd ra rb, .pghotPromote rd ra rb,
      .tlbflPage rd ra rb, .tlbflGlobal rd ra rb, .tlbflPrivate rd ra rb, .tlbflContext rd ra rb, .tlbflDevice rd ra rb]
    let mine := (∃ q ∈ s.shoots, q.core = c ∧ q.slot = u ∧ q.uid = (me s).uid) ∨ ∃ q ∈ s.swaps, q.issuer = some (c, u, (me s).uid)
    (∀ i ∈ all, (∀ v, (me s).reply = some v → exec i s = .next (writeX (modMe s (fun th => { th with reply := none })) rd v)) ∧
      ((me s).reply = none → mine → holds i s .engine 0 3) ∧
      ((me s).reply = none → ¬ mine → (∃ q ∈ s.shoots, q.ctx = ctx) → holds i s .engine 0 5)) ∧
    ((me s).reply = none → (∀ q ∈ s.shoots, q.ctx ≠ ctx) → ¬ mine →
      let quiet := (me s).accs = [] ∧ (coreAt s c).loose = []
      -- MAPSET
      (quiet →
        let i := Instr.mapset rd ra rb
        (bad → gives i 2) ∧
        (¬ bad → b.toNat % 16 ≠ 0 → exec i s = .next (takeTrap s 0 0x04 b)) ∧
        (¬ bad → b.toNat % 16 = 0 →
          (∀ x s1, translateFar s (whoOf s c u) { r := true } b 16 = (.trap x, s1) → exec i s = .next (takeTrap s1 0 x b)) ∧
          (∀ k s1, translateFar s (whoOf s c u) { r := true } b 16 = (.wait k, s1) → exec i s = waitAnew s1 b) ∧
          ∀ l ks s1, translateFar s (whoOf s c u) { r := true } b 16 = (.reaches (.here l) ks, s1) →
            (blockedAt s1 l = true → exec i s = waitAnew (reachPlace s1 (.here l)) b) ∧
            (blockedAt s1 l = false →
            let s2 := { s1 with fresh := s1.fresh + 1 }
            let word := readBytes s l 8
            let comp := readBytes s (l + 8) 8
            (recordBad lvl word comp = true → unit i s2 2) ∧
            (recordBad lvl word comp = false → (¬ live ∨ entryOf s a = .fail ∨ entryOf s a = .unbacked) → unit i s2 1) ∧
            (∀ k, recordBad lvl word comp = false → live → entryOf s a = .wait k → exec i s = waitAnew (startExit s2 k)) ∧
            (∀ e, recordBad lvl word comp = false → live → entryOf s a = .at e →
              (recordUnbacked s lvl word comp = true → unit i s2 3) ∧
              (recordUnbacked s lvl word comp = false → stillDevice s → noCached s → ∃ t, unit i t 0 ∧
                readBytes t e 8 = word ∧ readBytes t (e + 8) 8 = comp ∧ sameMemOutside e 16 s t))))) ∧
      -- MAPINV
      (quiet → (bad ∨ b ≠ 0 → gives (.mapinvUnmap rd ra rb) 2) ∧ (bad ∨ b ≠ 1 → gives (.mapinvRetire rd ra rb) 2) ∧
        (¬ bad →
          (¬ live ∨ entryOf s a = .fail ∨ entryOf s a = .unbacked → (b = 0 → gives (.mapinvUnmap rd ra rb) 1) ∧ (b = 1 → gives (.mapinvRetire rd ra rb) 1)) ∧
          (∀ k, live → entryOf s a = .wait k → (b = 0 → exec (.mapinvUnmap rd ra rb) s = waitAnew (startExit s k)) ∧ (b = 1 → exec (.mapinvRetire rd ra rb) s = waitAnew (startExit s k))) ∧
          ∀ e, live → entryOf s a = .at e →
            let old := readBytes s e 8
            let comp := readBytes s (e + 8) 8
            let retired := old % 2 ^ 46 + 2 * 2 ^ 46 + old / 2 ^ 48 * 2 ^ 48
            (b = 0 → recordBad lvl (old - old % 2) comp = true → gives (.mapinvUnmap rd ra rb) 2) ∧
            (b = 0 → recordBad lvl (old - old % 2) comp = false → stillDevice s → noCached s → ∃ t, unit (.mapinvUnmap rd ra rb) t 0 ∧
              readBytes t e 8 = old - old % 2 ∧ sameMemOutside e 8 s t) ∧
            (b = 1 → old % 4 = 1 ∨ recordBad lvl retired comp = true → gives (.mapinvRetire rd ra rb) 2) ∧
            (b = 1 → old % 4 ≠ 1 → recordBad lvl retired comp = false →
              (recordUnbacked s lvl retired comp = true → gives (.mapinvRetire rd ra rb) 3) ∧
              (recordUnbacked s lvl retired comp = false → stillDevice s → noCached s → ∃ t, unit (.mapinvRetire rd ra rb) t 0 ∧
                readBytes t e 8 = retired ∧ sameMemOutside e 8 s t)))) ∧
      -- PGHOT
      (∀ p ∈ [(Instr.pghotRead rd ra rb, (0 : W64), fun (h : Nat) => h), (.pghotHalve rd ra rb, 1, fun h => h / 2), (.pghotClear rd ra rb, 2, fun _ => 0)],
        let walk := leafGlobal s ctx (w % 2 ^ 48)
        (bad ∨ lvl ≠ 1 ∨ b ≠ p.2.1 → gives p.1 2) ∧
        (¬ bad → lvl = 1 → b = p.2.1 → ¬ live ∨ walk = .absent ∨ walk = .bad ∨ walk = .unbacked → gives p.1 1) ∧
        (∀ k, ¬ bad → lvl = 1 → b = p.2.1 → live → walk = .wait k → exec p.1 s = waitAnew (startExit s k)) ∧
        (∀ e x y z, ¬ bad → lvl = 1 → b = p.2.1 → live → walk = .leaf e x y z → noCached s →
          let h := (readByte s (e + 15)).toNat
          ∃ t, unit p.1 t (BitVec.ofNat 64 (h * 256)) ∧ (readByte t (e + 15)).toNat = p.2.2 h ∧ sameMemOutside (e + 15) 1 s t)) ∧
      (let i := Instr.pghotPromote rd ra rb
       let g := (congruence w).1
       let m := (congruence w).2
       let r := tget remapIdentity s.remap g
       (w % 65536 ≠ 0 ∨ b ≠ 3 → gives i 2) ∧
       (w % 65536 = 0 → b = 3 →
         (answerOf s w = .unbacked → gives i 3) ∧
         (answerOf s w ≠ .unbacked → slotOfName r m = 0 → gives i 65536) ∧
         (answerOf s w ≠ .unbacked → slotOfName r m ≠ 0 → (∃ q ∈ s.swaps, q.group = g) → gives i 4) ∧
         (answerOf s w ≠ .unbacked → slotOfName r m ≠ 0 → (∀ q ∈ s.swaps, q.group ≠ g) →
           let known := cxlReady s (slotPort g (slotOfName r m))
           ((dieAt s (groupDie g)).domain = false → gives i 3) ∧
           ((dieAt s (groupDie g)).domain = true → known = false → holds i s .engine 0 5) ∧
           ((dieAt s (groupDie g)).domain = true → known = true → slotReady s g (slotOfName r m) = false → gives i 3)) ∧
         (answerOf s w ≠ .unbacked → slotOfName r m ≠ 0 → (∀ q ∈ s.swaps, q.group ≠ g) → (dieAt s (groupDie g)).domain = true → slotReady s g (slotOfName r m) = true → ∃ t n,
           exec i s = .next (holdMe t .engine 0 3) ∧ t.swaps = s.swaps ++ [⟨g, m, n, some (c, u, (me s).uid)⟩] ∧ ((∃ j < 8, slotOfName r j = 0) → slotOfName r n = 0)))) ∧
      -- TLBFL
      (quiet → ∀ p ∈ [(Instr.tlbflPage rd ra rb, (0 : W64), fun (k : LeafKey) => k.ctx = ctx ∧ k.priv = none ∧ k.va = w % 2 ^ 48 / 2 ^ k.bits * 2 ^ k.bits),
          (.tlbflGlobal rd ra rb, 1, fun k => k.ctx = ctx ∧ k.priv = none), (.tlbflPrivate rd ra rb, 2, fun k => k.ctx = ctx ∧ k.priv ≠ none),
          (.tlbflContext rd ra rb, 3, fun k => k.ctx = ctx), (.tlbflDevice rd ra rb, 4, fun _ => True)],
        let malformed := bad ∨ lvl ≠ 1 ∨ b ≠ p.2.1
        (malformed → gives p.1 2) ∧
        (¬ malformed → ¬ live → gives p.1 1) ∧
        (¬ malformed → live → stillDevice s → ∃ t, unit p.1 t 0 ∧ noneCached t p.2.2)))) ∧
  (∀ (s : State) (q : Shoot), s.shoots = [q] → q.ids = [] → isThread s q.core q.slot q.uid = true →
    (settleShoots s q.core).shoots = [] ∧ (thrAt (settleShoots s q.core) q.core q.slot).reply = some q.value) ∧
  (∀ (s : State) (c idx : Nat) (e : TlbEntry), c < 5120 → (coreAt s c).tlb[idx]? = some e → ∃ t, exec (.tlbEvict c idx) s = .next t ∧ onlyCore c { s with mem := t.mem } t ∧
    coreAt t c = { coreAt s c with tlb := (coreAt s c).tlb.eraseIdx idx } ∧ (readByte t (e.entry + 15)).toNat = min 255 ((readByte s (e.entry + 15)).toNat + e.count) ∧
    sameMemOutside (e.entry + 15) 1 s t) ∧
  ∀ (s : State) (idx : Nat) (w : Swap), s.swaps[idx]? = some w →
    let r := tget remapIdentity s.remap w.group
    let there := slotReady s w.group (max (slotOfName r w.m) (slotOfName r w.n))
    (there = false → exec (.swapComplete idx) s = .next s) ∧ (there = true → w.m ≠ w.n → ∃ t, exec (.swapComplete idx) s = .next t ∧ t.swaps = s.swaps.eraseIdx idx ∧ sameMem s t ∧
    (∀ g, g ≠ w.group → tget remapIdentity t.remap g = tget remapIdentity s.remap g) ∧
    (∀ j < 8, slotOfName (tget remapIdentity t.remap w.group) j = slotOfName (tget remapIdentity s.remap w.group) (if j = w.m then w.n else if j = w.n then w.m else j)) ∧
    ∀ c u n, w.issuer = some (c, u, n) → isThread s c u n = true → (thrAt t c u).reply = some 0)

/-! ## Banks (chapter 16) -/

/-- R352 to R355: BANKRET and BANKQ of a privileged thread in no twin. The thread waits until the holder answers. A malformed bank word answers 2, or all ones; a unit of a cluster in VIGIL is first decoded. BANKRET answers 1 for a unit
that is EVACUATING or RETIRED, 5 while a copy of its kind is under way in its holder, 3 without room for a pseudo-channel, 4 for a domain with an evacuation, and else begins the retirement: of a
spare pool bank at once, of another towards the lowest SPARE bank or held, of a slice bank, of a pseudo-channel, of a whole domain with no copy. BANKQ returns the state word. (No thread of the core of a pool
bank is parked, which OVERCAP could trap.)

R347, R349, R355 and R419: an evacuation whose holder works copies one line at each event until its pointer has passed the last, then its destination takes its logical place and it is a stub, which is
RETIRED at its drain horizon, 2 µs or 64 µs later; memory reads as before throughout (an entry that a mailbox of the core waits to take aside). A cluster whose cores have been IDLE for 1 ms enters VIGIL;
an access makes it decode, and when that is done it has left VIGIL, and a retirement that Odcor began meanwhile proceeds.

The model's own: SPARE is a view of the logical numbers (log 66, DEDUCED); VIGIL_EXIT may come by itself (log 55, DEDUCED); an evacuation goes on only while its die is ready or, for a pseudo-channel, gated (log 58, DEDUCED);
memory is kept by name, so that no copy changes it (log 6, DESIGN CHOICE); the wait for the holder's answer is log 75, DESIGN CHOICE. -/
def Obligations.BanksAndEvacuations : Prop :=
  (∀ (s : State) (rd ra : Reg), isTwin (me s) = false → privileged s (was s) = true →
      let w := (readX s ra).toNat
      let kind := w / 2 ^ 61
      let h := w / 2 ^ 32 % 2 ^ 13
      let b := w % 2 ^ 8
      let size := fun (a b c d : Nat) => if kind = 1 then a else if kind = 2 then b else if kind = 3 then c else d
      let good := w / 2 ^ 45 % 2 ^ 16 = 0 ∧ w / 2 ^ 8 % 2 ^ 24 = 0 ∧ 1 ≤ kind ∧ kind ≤ 4 ∧ h < size 5120 160 4 4 ∧ b < size 20 32 192 1
      let cl := if kind = 1 then h / 32 else h
      let asleep := kind ≤ 2 ∧ (cluAt s cl).vigil ≠ 0
      let stands := kind ≤ 2 ∧ (cluAt s cl).vigil = 0 ∧ (cluAt s cl).stopped = true
      let u := unitAt s kind h b
      let ret := [Instr.bankret rd ra, Instr.bankretDomain rd ra]
      let busy := ∃ x < size 20 32 192 0, (unitAt s kind h x).st = .evacuating ∧ (unitAt s kind h x).held = false ∧ (unitAt s kind h x).stub = none
      let room := 12288 + spareUsed (dieAt s h) b ≤ spareFree (dieAt s h) b
      let alive := good ∧ ¬ asleep ∧ ¬ stands ∧ kind ≤ 3 ∧ u.st ≠ .evacuating ∧ u.st ≠ .retired
      let free := alive ∧ ¬ busy
      let s' := unitHas s
      let gives := fun (i : Instr) (v : W64) => ∃ t, exec i s = .next (writeX t rd v) ∧ clocked s' t
      let acts := fun (i : Instr) (p : State → Prop) => ∃ t t0, exec i s = .next (writeX t rd 0) ∧ clocked t0 t ∧ p t0
      let answered := (me s).reply.isSome = true
      (good → stands → ∀ i ∈ ret ++ [.bankq rd ra], holds i s .engine 0 6) ∧
      (¬ answered → ¬ (good ∧ (asleep ∨ stands)) → ∀ i ∈ ret ++ [.bankq rd ra], asksUnit i s s) ∧
      (answered → ¬ good → (∀ i ∈ ret, exec i s = .next (writeX s' rd 2)) ∧ exec (.bankq rd ra) s = .next (writeX s' rd 0xFFFFFFFFFFFFFFFF)) ∧
      (good → asleep → ∀ i ∈ ret ++ [.bankq rd ra], ∃ t, exec i s = .next (holdMe t .engine 0 5) ∧ onlyCluster cl s t ∧
        cluAt t cl = { cluAt s cl with vigil := if (cluAt s cl).vigil = 1 then 2 else (cluAt s cl).vigil }) ∧
      (answered → good → ¬ asleep → ¬ stands → kind ≤ 3 → gives (.bankq rd ra) (BitVec.ofNat 64 (
        (if u.st = .evacuating then 2 else if u.st = .retired then 3 else if kind = 1 ∧ isSpare (coreAt s h) b = true then 1 else 0) * 2 ^ 60 +
          (if u.held then 2 ^ 59 else 0) + (if u.stub = none then 0 else 2 ^ 58) + u.dest.getD 255 * 2 ^ 48 + u.pointer * 2 ^ 24 + u.logical.getD 255))) ∧
      (answered → good → kind = 4 → gives (.bankq rd ra) (if (dieAt s h).domain then 0x00FF0000000000FF else 0x30FF0000000000FF)) ∧
      (answered → ∀ i ∈ ret,
        (good → ¬ asleep → ¬ stands → kind ≤ 3 → u.st = .evacuating ∨ u.st = .retired → gives i 1) ∧
        (alive → busy → gives i 5) ∧
        (free → kind = 3 → ¬ room → gives i 3) ∧
        (free → kind = 1 → (∀ v, (thrAt s h v).park = none) → acts i (fun t =>
          (isSpare (coreAt s h) b = true → (unitAt t 1 h b).st = .retired ∧ (unitAt t 1 h b).logical = none) ∧
          (isSpare (coreAt s h) b = false → (∀ x < 20, isSpare (coreAt s h) x = false) → (unitAt t 1 h b).st = .evacuating ∧ (unitAt t 1 h b).held = true) ∧
          ∀ d < 20, isSpare (coreAt s h) b = false → isSpare (coreAt s h) d = true → (∀ x < d, isSpare (coreAt s h) x = false) →
            (unitAt t 1 h b).st = .evacuating ∧ (unitAt t 1 h b).dest = some d ∧ (unitAt t 1 h b).pointer = 0)) ∧
        (free → kind = 2 → acts i (fun t => onlyCluster h s' t ∧ (unitAt t 2 h b).st = .evacuating ∧ (unitAt t 2 h b).pointer = 0 ∧
          (∀ l, u.logical = some l → l + (cluAt s h).tarn < 32 → (unitAt t 2 h b).dest = none ∧ (cluAt t h).tarn = (cluAt s h).tarn))) ∧
        (free → kind = 3 → room → acts i (fun t => { t with dies := s.dies } = s' ∧ (unitAt t 3 h b).st = .evacuating ∧ (unitAt t 3 h b).pointer = 0 ∧
          ∀ q ∈ (dieAt t h).redirect, q.2 ≠ b)) ∧
        (good → kind = 4 →
          let pending := ∃ p < 192, (pseudoUnit (dieAt s h) p).st = .evacuating
          ((dieAt s h).domain = false → gives i 1) ∧
          ((dieAt s h).domain = true → pending → gives i 4) ∧
          ((dieAt s h).domain = true → ¬ pending → acts i (fun t => { t with dies := s.dies } = s' ∧ caphbm (dieAt t h) = 0 ∧
            (∀ p < 192, (pseudoUnit (dieAt t h) p).st = .retired) ∧ ∀ d, d ≠ h → dieAt t d = dieAt s d))))) ∧
  ((∀ (s : State) (kind h b : Nat),
      let u := unitAt s kind h b
      let named := (kind = 1 ∧ h < 5120 ∧ b < 20) ∨ (kind = 2 ∧ h < 160 ∧ b < 32) ∨ (kind = 3 ∧ h < 4 ∧ b < 192)
      let lines := if kind = 1 then 128 else if kind = 2 then 1024 else 12582912
      let under := u.st = .evacuating ∧ u.held = false ∧ u.stub = none
      let d := if kind = 1 then dieOfCore h else if kind = 2 then dieOf h else h
      let ns := (dieAt s d).ns
      let runs := s.dierdy.getLsbD d = true ∨ (kind = 3 ∧ s.gated.getLsbD d = true)
      let turns := fun (i : Instr) (y : BankUnit) => ∃ t, exec i s = .next t ∧ sameMem s t ∧ unitAt t kind h b = y ∧
        ∀ x, x ≠ b → (u.dest ≠ some x ∨ y.stub = none) → unitAt t kind h x = unitAt s kind h x
      named →
      (¬ runs → exec (.evacLineCopy kind h b) s = .next s ∧ exec (.evacSwitchover kind h b) s = .next s) ∧
      (runs → under → u.pointer < lines → ∃ t, exec (.evacLineCopy kind h b) s = .next t ∧ ((kind = 1 → ∀ r ∈ (coreAt s h).resvs, r.got = none) → sameMem s t) ∧
        unitAt t kind h b = { u with pointer := u.pointer + 1 } ∧ ∀ x, x ≠ b → unitAt t kind h x = unitAt s kind h x) ∧
      (runs → under → u.pointer = lines → turns (.evacSwitchover kind h b) { u with logical := none, stub := some ns }) ∧
      (∀ e, runs → under → u.pointer = lines → u.dest = some e → e ≠ b → ∃ t, exec (.evacSwitchover kind h b) s = .next t ∧ (unitAt t kind h e).logical = u.logical) ∧
      (∀ m, u.stub = some m → (m + (if kind = 3 then 64000 else 2000) ≤ ns → turns (.drainHorizon kind h b) { u with st := .retired, stub := none }) ∧
        (ns < m + (if kind = 3 then 64000 else 2000) → exec (.drainHorizon kind h b) s = .next s))) ∧
    ∀ (s : State) (k : Nat),
      let c := cluAt s k
      (k < 160 → c.vigil = 0 → c.stopped = false → s.gated.getLsbD (dieOf k) = false → s.dierdy.getLsbD (dieOf k) = true → (∀ n < 32, (coreAt s (32 * k + n)).group = .idle) →
        c.idleNs + 1000000 ≤ (dieAt s (dieOf k)).ns → ∃ t, exec (.vigilEntry k) s = .next t ∧ onlyCluster k s t ∧ cluAt t k = { c with vigil := 1 }) ∧
      (∀ n < 32, k < 160 → (coreAt s (32 * k + n)).group ≠ .idle → exec (.vigilEntry k) s = .next s) ∧
      (c.vigil = 1 → ∃ t, exec (.vigilExit k) s = .next t ∧ onlyCluster k s t ∧ cluAt t k = { c with vigil := 2 }) ∧
      (c.vigil ≠ 2 → exec (.vigilDecodeComplete k) s = .next s) ∧
      (∀ w b, c.vigil = 2 → s.odcor = [w] → w = BitVec.ofNat 64 (2 * 2 ^ 61 + k * 2 ^ 32 + b) → k < 160 → b < 32 →
        (unitAt s 2 k b).st ≠ .evacuating → (unitAt s 2 k b).st ≠ .retired → (∀ x < 32, (unitAt s 2 k x).st ≠ .evacuating) →
        ∃ t, exec (.vigilDecodeComplete k) s = .next t ∧ t.odcor = [] ∧ (cluAt t k).vigil = 0 ∧ (unitAt t 2 k b).st = .evacuating) ∧
      (c.vigil = 2 → (∀ w ∈ s.odcor, unitCluster (w.toNat / 2 ^ 61) (w.toNat / 2 ^ 32 % 2 ^ 13) ≠ some k) → ∃ t, exec (.vigilDecodeComplete k) s = .next t ∧ sameMem s t ∧ cluAt t k = { c with vigil := 0, idleNs := (dieAt s (dieOf k)).ns } ∧
        ∀ j, j ≠ k → cluAt t j = cluAt s j))

/-! ## Links (chapter 18) -/

/-- R375 to R377, R379, R384, R386, R387 and R427: LKCTL and LKQ of a privileged thread in no twin. The thread waits until the unit answers. A selector with another operation, object, index or a reserved bit, or an operand that is not the
operation's, answers all ones and does nothing. ENABLE, DISABLE and RETRAIN are the events of a port's states; WRITE_ROUTE stores STATE and PORTS, computes CAP and fails a peer that it makes
FAILED; CLEAR_LOSS returns the log and clears it; REVIVE moves a FAILED entry to PROBING. LKQ returns the status word, the capability word, a loss log, a route entry, a CXL window. (That DISABLE adds the entries not yet
forwarded to REPAIRS is log 56, DEDUCED; a capability word that was not read counts as 0, log 95, DESIGN CHOICE; the wait for the unit's answer is log 75, DESIGN CHOICE.) -/
def Obligations.LinkInstructionsAct : Prop :=
  ∀ (s : State) (rd ra rb : Reg), isTwin (me s) = false → privileged s (was s) = true →
    let w := (readX s ra).toNat
    let b := readX s rb
    let op := w / 2 ^ 60
    let obj := w / 2 ^ 53 % 8
    let n := w % 2 ^ 9
    let good := fun (o : Nat) (objs : List Nat) => op = o ∧ w / 2 ^ 56 % 16 = 0 ∧ w / 2 ^ 9 % 2 ^ 44 = 0 ∧ obj ∈ objs ∧
      n < (if obj = 1 then 16 else if obj = 2 then 4 else if obj = 3 then 512 else 160)
    let s' := unitHas s
    let gives := fun (i : Instr) (k : W64) => exec i s = .next (writeX s' rd k)
    let log := if obj = 1 then (ueAt s n).loss else if obj = 2 then (cxlAt s n).loss else (cluAt s n).loss
    let routeOk := b.toNat / 2 ^ 48 % 2 ^ 14 = 0 ∧ b.toNat % 2 ^ 16 = 0 ∧ n ≠ s.number
    let cap := fun (j : Nat) => (0x7F01 : W64).getLsbD j && (List.range 16).all (fun p => !b.getLsbD (32 + p) || (tget 0 (ueAt s p).peers n).getLsbD j)
    let number := fun (x : LinkState) => if x = .disabled then 0 else if x = .training then 1 else 2
    ((me s).reply = none → ∀ i ∈ [Instr.lkctlEnable rd ra rb, .lkctlDisable rd ra rb, .lkctlRetrain rd ra rb, .lkctlWriteRoute rd ra rb, .lkctlClearLoss rd ra rb, .lkctlRevive rd ra rb,
      .lkqStatus rd ra, .lkqCap rd ra, .lkqLoss rd ra, .lkqRoute rd ra, .lkqWindow rd ra], asksUnit i s s) ∧
    ((me s).reply.isSome = true →
    (∀ p ∈ [(Instr.lkctlEnable rd ra rb, good 0 [1, 2] ∧ b = 0), (.lkctlDisable rd ra rb, good 1 [1, 2] ∧ b = 0), (.lkctlRetrain rd ra rb, good 2 [1, 2] ∧ b = 0),
        (.lkctlWriteRoute rd ra rb, good 3 [3] ∧ routeOk), (.lkctlClearLoss rd ra rb, good 4 [1, 2, 4] ∧ b = 0), (.lkctlRevive rd ra rb, good 5 [3] ∧ b = 0),
        (.lkqStatus rd ra, good 0 [1, 2]), (.lkqCap rd ra, good 1 [1]), (.lkqLoss rd ra, good 2 [1, 2, 4]), (.lkqRoute rd ra, good 3 [3]), (.lkqWindow rd ra, good 4 [2])],
      ¬ p.2 → gives p.1 0xFFFFFFFFFFFFFFFF) ∧
    (b = 0 → ∀ p ∈ [(Instr.lkctlEnable rd ra rb, (0 : Nat), fun (u : UePort) => if u.st = .disabled then { u with st := .training, replays := 0 } else u,
          fun (u : CxlPort) => if u.st = .disabled then { u with st := .training, replays := 0 } else u),
        (.lkctlDisable rd ra rb, 1, fun u => if u.st = .disabled then u else
            { u with st := .disabled, window := [], repairs := min 65535 (u.repairs + (u.window.filter (fun e => e.fwd = false)).length) },
          fun u => { u with st := .disabled }),
        (.lkctlRetrain rd ra rb, 2, fun u => if u.st = .up then { u with st := .training, badRun := 0 } else u, fun u => if u.st = .up then { u with st := .training } else u)],
      good p.2.1 [1, 2] → ∃ t, exec p.1 s = .next (writeX t rd 0) ∧ { t with ue := s.ue, cxl := s.cxl, asked := s.asked } = s' ∧
        t.asked = s.asked ++ (if p.2.1 = 1 ∧ obj = 1 ∧ (ueAt s n).st ≠ .disabled then ((ueAt s n).window.filter (fun e => !e.fwd)).map (fun e => (e.rod, e.psn)) else []) ∧
        (∀ m, ueAt t m = if obj = 1 ∧ m = n then p.2.2.1 (ueAt s m) else ueAt s m) ∧ ∀ m, cxlAt t m = if obj = 2 ∧ m = n then p.2.2.2 (cxlAt s m) else cxlAt s m) ∧
    (good 3 [3] → routeOk → ∃ t, exec (.lkctlWriteRoute rd ra rb) s = .next (writeX t rd 0) ∧
      (∀ j < 64, (tget 0 t.routes n).getLsbD j = if j < 16 then false else if j < 32 then cap (j - 16) else if j < 48 ∨ 62 ≤ j then b.getLsbD j else false) ∧
      (∀ m, m ≠ n → tget 0 t.routes m = tget 0 s.routes m) ∧ (b.toNat / 2 ^ 62 ≠ 2 ∨ routeState s n = 2 → { t with routes := s.routes } = s')) ∧
    (good 4 [1, 2, 4] → b = 0 → ∃ t, exec (.lkctlClearLoss rd ra rb) s = .next (writeX t rd log) ∧ { t with ue := s.ue, cxl := s.cxl, clusters := s.clusters } = s' ∧
      (∀ m, ueAt t m = if obj = 1 ∧ m = n then { ueAt s m with loss := 0 } else ueAt s m) ∧ (∀ m, cxlAt t m = if obj = 2 ∧ m = n then { cxlAt s m with loss := 0 } else cxlAt s m) ∧
      ∀ m, cluAt t m = if obj = 4 ∧ m = n then { cluAt s m with loss := 0 } else cluAt s m) ∧
    (good 5 [3] → b = 0 → (routeState s n ≠ 2 → gives (.lkctlRevive rd ra rb) 1) ∧
      (routeState s n = 2 → ∃ t, exec (.lkctlRevive rd ra rb) s = .next (writeX t rd 0) ∧ { t with routes := s.routes } = s' ∧ (∀ m, m ≠ n → tget 0 t.routes m = tget 0 s.routes m) ∧
        ∀ j < 64, (tget 0 t.routes n).getLsbD j = if j < 62 then (tget 0 s.routes n).getLsbD j else true)) ∧
    (good 0 [1, 2] → gives (.lkqStatus rd ra) (BitVec.ofNat 64 (if obj = 1 then
        number (ueAt s n).st * 2 ^ 60 + (ueAt s n).window.length * 2 ^ 40 + (ueAt s n).fails * 2 ^ 32 + (ueAt s n).replays * 2 ^ 16 + (ueAt s n).repairs
      else number (cxlAt s n).st * 2 ^ 60 + (cxlAt s n).fails * 2 ^ 32 + (cxlAt s n).replays * 2 ^ 16))) ∧
    (good 1 [1] → gives (.lkqCap rd ra) 0x7F01) ∧
    (good 2 [1, 2, 4] → gives (.lkqLoss rd ra) log) ∧
    (good 3 [3] → gives (.lkqRoute rd ra) (tget 0 s.routes n)) ∧
    (good 4 [2] → gives (.lkqWindow rd ra) (if (cxlAt s n).st = .up then BitVec.ofNat 64 (min ((cxlAt s n).bytes / 65536) 16515072 * 2 ^ 32 + 16515072 * n) else 0)))

/-- R375 to R377, R379, R380, R382 to R384, R416, R74, R171, R296 and R366: what happens at the links. A training port comes UP with what it has learned of its peers, and CAP of the routes that name it
follows, or counts a failure; a replay forwards each entry whose check fails to the transport, and 16 failed ones in a row train the port again; acknowledgements free the oldest entries; the
transport sends a packet again on an UP port that it may leave on; a peer that has been silent for 5 ms of pending traffic has a FAILED route and no access is outstanding to it; a dropped packet counts in its log. A request of a
peer device is performed under the mapping of this one, once for each identity, and answered, or answered with its fault; a tile goes to the agents whose interest went out that way; a start is answered as a LAUNCH; an
acknowledgement ends PROBING.

The model's own: buffered stores to a failed peer are dropped with a trap pending (log 59, DEDUCED); a peer's request for a page that moves, or for a place out of reach, is held (log 14, DESIGN CHOICE); the check of a packet
(log 26, DESIGN CHOICE); where a peer's access stands for a mask (log 78, DESIGN CHOICE); a capability word that was not read counts as 0 (log 95, DESIGN CHOICE). -/
def Obligations.LinkEventsAndRemoteRequests : Prop :=
  (∀ (s : State) (p bytes : Nat) (caps : List (Nat × W64)) (bad : List Nat) (ok : Bool),
    let u := ueAt s p
    let x := cxlAt s p
    let ue := fun (i : Instr) (y : UePort) => ∃ t, exec i s = .next t ∧ { t with ue := s.ue } = s ∧ ueAt t p = y ∧ ∀ m, m ≠ p → ueAt t m = ueAt s m
    let cxl := fun (i : Instr) (y : CxlPort) => ∃ t, exec i s = .next t ∧ { t with cxl := s.cxl } = s ∧ cxlAt t p = y ∧ ∀ m, m ≠ p → cxlAt t m = cxlAt s m
    (p < 16 → u.st = .training → ∃ t, exec (.linkUp false p caps bytes) s = .next t ∧ { t with ue := s.ue, routes := s.routes } = s ∧
      ueAt t p = { u with st := .up, badRun := 0, peers := caps.foldl (fun x q => tput x q.1 q.2) u.peers } ∧ (∀ m, m ≠ p → ueAt t m = ueAt s m) ∧
      ∀ d, let r := tget 0 s.routes d
        if r.getLsbD (32 + p) then ∀ j < 64, (tget 0 t.routes d).getLsbD j =
          if 16 ≤ j ∧ j < 32 then (0x7F01 : W64).getLsbD (j - 16) && (List.range 16).all (fun q => !r.getLsbD (32 + q) || (tget 0 (ueAt t q).peers d).getLsbD (j - 16))
          else decide ((32 ≤ j ∧ j < 48) ∨ 62 ≤ j) && r.getLsbD j
        else tget 0 t.routes d = r) ∧
    (p < 4 → x.st = .training → ∃ t, exec (.linkUp true p caps bytes) s = .next t ∧ sameMem s t ∧ cxlAt t p = { x with st := .up, bytes := bytes } ∧
      (∀ m, m ≠ p → cxlAt t m = cxlAt s m) ∧ ∀ j < 4, t.cxlrdy.getLsbD j = (s.cxlrdy.getLsbD j && (j != p || x.wiped))) ∧
    (u.st = .training → ue (.trainingTimeout false p) { u with fails := min 255 (u.fails + 1) }) ∧
    (x.st = .training → cxl (.trainingTimeout true p) { x with fails := min 255 (x.fails + 1) }) ∧
    (u.st = .up → ∃ t y w, exec (.llrReplay p bad ok) s = .next t ∧ { t with ue := s.ue, asked := s.asked } = s ∧ ueAt t p = y ∧ (∀ m, m ≠ p → ueAt t m = ueAt s m) ∧
      t.asked = s.asked ++ ((List.range w.length).filter (fun i => bad.contains i)).filterMap (fun i => (u.window[i]?).map (fun e => (e.rod, e.psn))) ∧ y = { u with window := w, st := y.st, badRun := y.badRun, replays := min 65535 (u.replays + 1), repairs := y.repairs } ∧
      w.length = u.window.length ∧ (∀ i < w.length, w[i]? = (u.window[i]?).map (fun e => if i ∈ bad then { e with fwd := true } else e)) ∧
      y.repairs = min 65535 (u.repairs + ((List.range w.length).filter (fun i => bad.contains i)).length) ∧
      (y.st = if ok = false ∧ 15 ≤ u.badRun then .training else .up) ∧ (ok = true → y.badRun = 0)) ∧
    (∀ n, u.st = .up → ue (.llrAcknowledgement p n) { u with window := u.window.drop n }) ∧
    (∀ n, p < 16 → u.st = .up → u.window.length < 256 → mayLeave s p n = true →
      let rod := decide (s.linkOut.length ≤ n)
      let psn := if rod then n - s.linkOut.length else n
      ∃ t, exec (.rudRetransmit p n) s = .next t ∧ { t with ue := s.ue, asked := s.asked } = s ∧ t.asked = s.asked.filter (· != (rod, psn)) ∧ (∀ m, m ≠ p → ueAt t m = ueAt s m) ∧
        ueAt t p = { u with window := u.window ++ [⟨u.seq, psn, false, rod, Config.packetCheck rod psn⟩], seq := u.seq + 1 }) ∧
    (∀ n, mayLeave s p n = false → exec (.rudRetransmit p n) s = .next s)) ∧
  (∀ (s : State) (dev : Nat),
    let silent := 0 < tget 0 s.quiet dev ∧ tget 0 s.quiet dev - 1 + 5000000 ≤ (dieAt s (dieOf (portClusterOf s dev))).ns
    let fails := (routeState s dev = 1 ∨ routeState s dev = 3) ∧ silent
    (¬ fails → exec (.peerFailed dev) s = .next s) ∧
    (fails → ∃ t, exec (.peerFailed dev) s = .next t ∧ routeState t dev = 2 ∧ tget 0 t.quiet dev = 0 ∧
    (∀ m, m ≠ dev → tget 0 t.routes m = tget 0 s.routes m) ∧ (∀ c, ∀ e ∈ (coreAt t c).loose, inPeer dev e.place = false) ∧
    (∀ c u, ∀ a ∈ (thrAt s c u).accs, toPeer dev a = true → isTrail (thrAt s c u) = false → ∃ q ∈ (thrAt t c u).traps, q.cause = 0x07 ∧
      ∃ l ∈ a.lanes, l.place = .peer dev q.eaddr) ∧ ∀ q ∈ t.ams, q.dev ≠ dev)) ∧
  (∀ (s : State) (obj n : Nat), (obj = 1 ∧ n < 16) ∨ (obj = 2 ∧ n < 4) ∨ (obj = 4 ∧ n < 160) → ∃ t, exec (.packetDrop obj n) s = .next t ∧
    let log := fun (x : State) => if obj = 1 then (ueAt x n).loss else if obj = 2 then (cxlAt x n).loss else (cluAt x n).loss
    let k := if obj = 1 then uePortCluster n else if obj = 2 then cxlPortCluster n else n
    (log t).toNat / 2 ^ 48 = min 65535 ((log s).toNat / 2 ^ 48 + 1) ∧ (log t).toNat % 2 ^ 48 = (stampClu s k).1.toNat / 2 ^ 16) ∧
  ∀ (s : State) (dev port ctx : Nat) (op : RemoteOp), port < 16 → (ueAt s port).st = .up →
    let i := Instr.remoteRequest dev port ctx op
    let s0 := heardFrom (receiveAt s (.clu (uePortCluster port)) op.stamp) dev
    let xl := remoteXl s0 port ctx { r := op.kind != 1, w := op.kind != 0 } op.addr
    let held := fun (loc : Nat) => blockedAt s0 loc = true ∨ (op.kind ≠ 0 ∧ lineHeld s0 loc = true)
    let known := s.idents.find? (sameIdentity dev op.core op.slot op.stamp)
    let replies := fun (t : State) (v : Nat) => ∃ m, t.linkOut = s.linkOut ++ [.reply dev port 0 v m]
    (op.kind ≤ 2 → (ctxAt s ctx).st = .free → exec i s = .next (remoteReply s0 dev port 0x09 0)) ∧
    (∀ k, op.kind ≤ 2 → xl = .trap k → exec i s = .next (remoteReply s0 dev port k 0)) ∧
    (∀ k, op.kind ≤ 2 → xl = .wait k → exec i s = .next (startExit s0 k)) ∧
    (∀ loc ks, op.kind ≤ 2 → xl = .reaches (.here loc) ks → held loc → exec i s = .next (reachPlace s0 (.here loc))) ∧
    (∀ loc ks, op.kind = 0 → isPacq op.order = false → xl = .reaches (.here loc) ks → ¬ held loc → ∃ t, exec i s = .next t ∧ replies t (readBytes s loc op.size) ∧ sameMem s t) ∧
    (∀ loc ks e, op.kind = 1 ∨ op.kind = 2 → isPacq op.order = false → known = some e → xl = .reaches (.here loc) ks → ¬ held loc →
      ∃ t, exec i s = .next t ∧ replies t e.value ∧ sameMem s t) ∧
    (∀ loc ks, op.kind = 1 → isPacq op.order = false → known = none → s.feWait = [] → xl = .reaches (.here loc) ks → ¬ held loc → ∃ t, exec i s = .next t ∧ replies t 0 ∧
      readBytes t loc op.size = op.data % 256 ^ op.size ∧ sameMemOutside loc op.size s t) ∧
    (∀ loc ks, op.kind = 2 → op.amo = 0 → op.size = 8 → loc % 8 = 0 → isPacq op.order = false → known = none → s.feWait = [] → xl = .reaches (.here loc) ks → ¬ held loc →
      ∃ t, exec i s = .next t ∧ replies t (readBytes s loc 8) ∧ readBytes t loc 8 = (readBytes s loc 8 + op.data) % 2 ^ 64 ∧ sameMemOutside loc 8 s t) ∧
    (op.kind = 3 → exec i s = .next { s0 with ints := s.ints ++ [⟨op.addr, ctx, op.data, uePortCluster port, 0, some (port, dev)⟩] }) ∧
    (op.kind = 4 →
      let data := (List.range op.size).map (fun i => BitVec.ofNat 8 (op.data / 256 ^ i))
      let ways := (s.clusters.filter (fun q => q.2.agent.ints.any (fun e => e.name == op.addr && e.sent == some (port, dev)))).map (·.1)
      nextClocked i s (fun t => t = { peerUp (heardFrom s dev) dev with tiles := s.tiles ++ ways.map (fun k => ⟨op.addr, data, op.cmp != 0, k⟩) })) ∧
    (op.kind = 5 →
      let st : Start := { kind := 4, ctx := ctx, core := op.cmp, src := 0, pc := op.addr, stamp := op.stamp, x := (List.range 4).map (fun i => BitVec.ofNat 64 (op.data / 2 ^ (64 * i))) }
      let c := (ctxAt s ctx).st
      let answers := fun (v : Nat) => exec i s = .next (remoteReply s0 dev port 0 v)
      let formed := c ≠ .free ∧ op.addr.toNat % 8 = 0 ∧ op.cmp < 5120
      let runs := formed ∧ c ≠ .loading ∧ c ≠ .restoring
      (c = .free → answers 4) ∧
      (c ≠ .free → (op.addr.toNat % 8 ≠ 0 ∨ 5120 ≤ op.cmp) → answers 2) ∧
      (formed → (c = .loading ∨ c = .restoring) → answers 1) ∧
      (runs → openFor s op.cmp ctx = false → answers 3) ∧
      (runs → openFor s op.cmp ctx = true → acceptStart s0 st = none → answers 1) ∧
      ∀ k t, runs → openFor s op.cmp ctx = true → acceptStart s0 st = some (k, t) → exec i s = .next (remoteReply (receiveCore t op.cmp op.stamp) dev port 0 0)) ∧
    (op.kind = 6 → dev < 512 → ∃ t, exec i s = .next t ∧ sameMem s t ∧ routeState t dev = (if routeState s dev = 3 then 1 else routeState s dev) ∧
      ((∀ q ∈ s.cores, ∀ th ∈ q.2.threads, ∀ a ∈ th.2.accs, toPeer dev a = false) → (∀ q ∈ s.ams, q.dev ≠ dev) → tget 0 t.quiet dev = 0))

/-! ## The host (chapters 10, 12, 18, 25) -/

/-- R239, R247, R252, R278 to R283, R296, R297, R300, R385 and R429: YCP requests that act on contexts. The receiving link agent's clock takes the request's stamp; a session that may not ask gets 3, a body of another
length 2; the conditions of R429 are answered in its order; a request on a port that is not UP does not reach the device. CREATE builds the context from the body and the descriptor and claims its cores, wiped; LAUNCH and AMSEND start a thread or enter the run
queue; KILL, PREEMPT, RESTORE and SHRINK begin what they name. The reply has the operation with bit 7 set. (No
thread of a core that SHRINK names is parked, which OVERCAP could trap.)

The model's own: the order of RESTORE's checks (log 50, DEDUCED); PREEMPT is answered at its acceptance (log 51, DEDUCED); a request is held while memory that it names moves or wakes, a CREATE unless it is refused whatever its
descriptor holds (log 52, DEDUCED); the host session that KILL's NOTIFY goes to (log 79, DESIGN CHOICE). -/
def Obligations.ContextRequestsAreServed : Prop :=
  ∀ (s : State) (y : Ycp),
    let k := uePortCluster y.port
    let s1 := modClu s k (fun x => { x with clock := receive ((dieAt s (dieOf k)).ns % 2 ^ 48) x.clock y.stamp })
    let say := fun (t : State) (op st : Nat) => ycpReply t y op st []
    let refused := fun (i : Instr) (op st : Nat) => exec i s = .next (say s1 op st)
    let w := fun (i : Nat) => y.body[i]?.getD 0
    let n := y.ctx
    let x := ctxAt s1 n
    let mapped := fun (j c : Nat) => c < 5120 ∧ (w (j + c / 64)).getLsbD (c % 64) = true
    let gone := fun (c : Nat) => (coreAt s1 c).group ≠ .idle ∨ s1.dierdy.getLsbD (dieOfCore c) = false
    let host := y.host = true ∧ y.port ∈ s.hosts
    let reached := y.port < 16 ∧ (ueAt s y.port).st = .up
    (∀ (t : State) (op st : Nat) (l : List W64), (ycpReply t y op st l).hostOut = t.hostOut ++
        [{ op := op + 0x80, status := st, reqid := y.reqid, ctx := y.ctx, body := l, stamp := (stampClu t k).1, port := y.port, host := y.host }] ∧
      { ycpReply t y op st l with hostOut := t.hostOut, clusters := t.clusters, ue := t.ue } = t) ∧
    (¬ reached → ∀ i ∈ [Instr.ycpCreate y, .ycpLaunch y, .ycpAmsend y, .ycpKill y, .ycpPreempt y, .ycpRestore y, .ycpShrink y], exec i s = .next s) ∧
    (reached →
    (∀ p ∈ [(Instr.ycpCreate y, (0x01 : Nat), 86), (.ycpLaunch y, 0x02, 3), (.ycpKill y, 0x04, 0), (.ycpPreempt y, 0x05, 0), (.ycpRestore y, 0x06, 81), (.ycpShrink y, 0x07, 80)],
      (¬ host → refused p.1 p.2.1 3) ∧ (host → y.body.length ≠ p.2.2 → refused p.1 p.2.1 2)) ∧
    (y.body.length ≠ 6 → refused (.ycpAmsend y) 0x03 2) ∧
    -- CREATE
    (host → y.body.length = 86 →
      let i := Instr.ycpCreate y
      let pa := (w 0).toNat
      let d := readBytes s1 pa 128
      let part : BitVec 15 := BitVec.ofNat 15 (d % 2 ^ 15)
      let bad := pa % 64 ≠ 0 ∨ (w 1).toNat % 8192 ≠ 0 ∨ (w 2).toNat % 8 ≠ 0 ∨ (w 3).toNat % 4096 ≠ 0 ∨ (w 4).toNat % 64 ≠ 0 ∨ 1 < (w 5).toNat
      (bad → refused i 0x01 2) ∧
      (¬ bad → rangeAnswer s1 pa 128 = .unbacked → refused i 0x01 2) ∧
      (∀ j, ¬ bad → rangeAnswer s1 pa 128 = .wait j →
        ((∀ c, ¬ mapped 6 c) → refused i 0x01 2) ∧
        ((∃ c, mapped 6 c) → x.st ≠ .free ∨ 4096 ≤ n → refused i 0x01 3) ∧
        (x.st = .free → n < 4096 → (∃ c, mapped 6 c ∧ gone c) → refused i 0x01 1) ∧
        (x.st = .free → n < 4096 → (∃ c, mapped 6 c) → (∀ c, mapped 6 c → ¬ gone c) → exec i s = .next (startExit s1 j))) ∧
      (¬ bad → rangeAnswer s1 pa 128 = .now → descBad d = true ∨ (∀ c, ¬ mapped 6 c) → refused i 0x01 2) ∧
      (¬ bad → rangeAnswer s1 pa 128 = .now → descBad d = false → (∃ c, mapped 6 c) →
        (x.st ≠ .free ∨ 4096 ≤ n ∨ s.lcs = 5 ∨ (∃ c, mapped 6 c ∧ cappool (coreAt s1 c) < partSum part) → refused i 0x01 3) ∧
        (x.st = .free → n < 4096 → s.lcs = 2 ∨ s.lcs = 3 → (∀ c, mapped 6 c → partSum part ≤ cappool (coreAt s1 c)) →
          ((∃ c, mapped 6 c ∧ gone c) → refused i 0x01 1) ∧
          ((∀ c, mapped 6 c → ¬ gone c) → ∃ t, exec i s = .next (say t 0x01 0) ∧
            let z := ctxAt t n
            z.st = .loading ∧ z.groot = w 1 ∧ z.proot = w 2 ∧ z.savebase = w 3 ∧ z.killrec = w 4 ∧ z.priv = (w 5).getLsbD 0 ∧
            z.hbase = BitVec.ofNat 64 (d / 2 ^ 704) ∧ z.refer = BitVec.ofNat 64 (d / 2 ^ 768) ∧ z.supcore = d / 2 ^ 16 % 2 ^ 13 ∧ z.part = part ∧
            (∀ m, m ≠ n → ctxAt t m = ctxAt s m) ∧
            (∀ c, mapped 6 c → (coreAt t c).group = .claimed ∧ (coreAt t c).ctx = n ∧ (coreAt t c).part = part ∧ (∀ o < 2 ^ 20, readByte t (scratchLoc c o) = 0)) ∧
            ∀ c, ¬ mapped 6 c → coreAt t c = coreAt s c)))) ∧
    -- LAUNCH and AMSEND
    (∀ q ∈ [(Instr.ycpLaunch y, (0x02 : Nat), host ∧ y.body.length = 3, (w 0).toNat / 2 ^ 16 % 2 ^ 13, x.entries[(w 0).toNat % 4]?.getD 0,
          x.entries[(w 0).toNat % 4]?.getD 0 = 0, (0 : Nat), [w 1, w 2]),
        (.ycpAmsend y, 0x03, y.body.length = 6, (w 1).toNat % 2 ^ 13, w 0, (w 0).toNat % 8 ≠ 0, 4, [w 2, w 3, w 4, w 5])],
      q.2.2.1 →
      let i := q.1
      let op := q.2.1
      let core := q.2.2.2.1
      let bad := q.2.2.2.2.2.1 ∨ 5120 ≤ core
      let start : Start := { kind := q.2.2.2.2.2.2.1, ctx := n, core := core, src := 0, pc := q.2.2.2.2.1, x := q.2.2.2.2.2.2.2, stamp := y.stamp }
      (x.st = .free → refused i op 4) ∧
      (x.st ≠ .free → bad → refused i op 2) ∧
      let there := s.dierdy.getLsbD (dieOfCore core) = true
      (x.st ≠ .free → ¬ bad → (x.st = .loading ∨ x.st = .restoring ∨ ¬ there) → refused i op 1) ∧
      (x.st = .saved ∨ x.st = .killed → ¬ bad → there → refused i op 3) ∧
      (x.st = .live ∨ x.st = .preempting → ¬ bad → there →
        (openFor s1 core n = false → refused i op 3) ∧
        (openFor s1 core n = true → acceptStart s1 start = none → refused i op 1) ∧
        ∀ r t, openFor s1 core n = true → acceptStart s1 start = some (r, t) → exec i s = .next (say (receiveCore t core y.stamp) op 0))) ∧
    -- KILL, PREEMPT, RESTORE, SHRINK
    (host → y.body.length = 0 →
      (x.st = .free → refused (.ycpKill y) 0x04 4 ∧ refused (.ycpPreempt y) 0x05 4) ∧
      (x.st = .killed → refused (.ycpKill y) 0x04 0) ∧
      (x.st = .loading ∨ x.st = .live ∨ x.st = .saved ∨ x.st = .restoring → ∃ t ws, exec (.ycpKill y) s = .next (say t 0x04 0) ∧
        (ctxAt t n).st = (if coresOf s1 n = [] then .free else .killed) ∧ (∃ m, t.hostOut = s.hostOut ++ [{ op := 0x0C, status := 0, reqid := 0, ctx := n, body := ws, stamp := m, port := s.hosts.headD 0 }]) ∧ (∀ e ∈ coresOf s1 n, (coreAt t e).group = .exited)) ∧
      (x.st ≠ .free → x.st ≠ .live → refused (.ycpPreempt y) 0x05 3) ∧
      (x.st = .live → ∃ t, exec (.ycpPreempt y) s = .next (say t 0x05 0) ∧ { t with ctxs := s1.ctxs } = s1 ∧ (∀ m, m ≠ n → ctxAt t m = ctxAt s m) ∧
        ctxAt t n = { x with st := .preempting, image := some { stamp := y.stamp }, waiter := none })) ∧
    (host → y.body.length = 81 →
      let i := Instr.ycpRestore y
      let a := (w 0).toNat
      let h := wordAt s1 a
      let bs := imageBlocks s1 a (h.toNat / 4 % 2 ^ 14) 256
      (x.st = .free → refused i 0x06 4) ∧
      (x.st ≠ .free → x.st ≠ .saved → refused i 0x06 3) ∧
      (∀ im, x.st = .saved → x.image = some im → rangeAnswer s1 a 256 = .unbacked → refused i 0x06 2) ∧
      (∀ im j, x.st = .saved → x.image = some im → rangeAnswer s1 a 256 = .wait j → exec i s = .next (startExit s1 j)) ∧
      (∀ im, x.st = .saved → x.image = some im → rangeAnswer s1 a 256 = .now → h.getLsbD 0 = false → refused i 0x06 2) ∧
      (∀ im, x.st = .saved → x.image = some im → rangeAnswer s1 a 256 = .now → h.getLsbD 0 = true → h.getLsbD 1 = true → bs.length = im.cores.length → bs.length < 2 ^ 14 →
        h.toNat / 4 % 2 ^ 14 = im.cores.length → bs ≠ [] → (∀ c, mapped 1 c ↔ c ∈ bs.map (·.2)) → (bs.map (·.2)).Nodup → (∀ b ∈ bs, blockOk s1 a b.1 = true) → s.cells = [] →
        (∀ b ∈ bs, partSum (BitVec.ofNat 15 ((wordAt s1 (a + b.1)).toNat / 2 ^ 13 % 2 ^ 15)) ≤ cappool (coreAt s1 b.2) ∧ ¬ gone b.2) →
        ∃ t, exec i s = .next (say t 0x06 0) ∧ (ctxAt t n).st = .restoring ∧ ∀ b ∈ bs, (coreAt t b.2).group = .claimed ∧ (coreAt t b.2).ctx = n)) ∧
    (host → y.body.length = 80 →
      let i := Instr.ycpShrink y
      let bad := (∀ c, ¬ mapped 0 c) ∨ ∃ c, mapped 0 c ∧ c ∉ staying s1 n
      (x.st = .free → refused i 0x07 4) ∧ (x.st ≠ .free → x.st ≠ .live → refused i 0x07 3) ∧ (x.st = .live → bad → refused i 0x07 2) ∧
      (x.st = .live → ¬ bad → (∀ c u, mapped 0 c → (thrAt s c u).park = none) → ∃ t, exec i s = .next (say t 0x07 0) ∧ (∀ c, c ∈ (ctxAt t n).shrink ↔ c ∈ x.shrink ∨ mapped 0 c) ∧
        ∀ c, mapped 0 c → (coreAt s1 c).group = .active → (coreAt t c).group = .evacuating ∧ (coreAt t c).runq = [])))

/-- R385, R414, R416, R420 to R424, R426 and R429: WRITE stores its words and READ returns bytes, at backed physical addresses; BUDGET writes the register, which brings faster clusters, UE ports, CXL ports and stacks to its MAXPOINT, and
returns the old value, or reads it; IDENTITY returns the ready word, the part number, the public key and a failed verification, ATTEST the measurement log and a fresh signature: SUB names which, and each is no request of another SUB.
A session that may not ask gets 3, a body of another length 2. (Key, part number and signature are free values, log 15, DESIGN CHOICE; that a BUDGET whose FRAG is not zero gives 2 is log 64, DEDUCED; that READ and WRITE are held
while memory that they name moves or wakes is log 52, DEDUCED.) -/
def Obligations.HostReadsAndWrites : Prop :=
  ∀ (s : State) (y : Ycp),
    let k := uePortCluster y.port
    let s1 := modClu s k (fun x => { x with clock := receive ((dieAt s (dieOf k)).ns % 2 ^ 48) x.clock y.stamp })
    let say := fun (t : State) (op st : Nat) (l : List W64) => ycpReply t y op st l
    let refused := fun (i : Instr) (op st : Nat) => exec i s = .next (say s1 op st [])
    let w := fun (i : Nat) => y.body[i]?.getD 0
    let pa := (w 0).toNat
    let host := y.host = true ∧ y.port ∈ s.hosts
    let reached := y.port < 16 ∧ (ueAt s y.port).st = .up
    let trusted := host ∨ (s.stage = 0 ∧ y.port = 0)
    let last := (w 0 &&& 0xFFFFFF) ||| 0x80000000
    let sub := (w 0).toNat % 2 ^ 8
    let frag := (w 0).toNat / 2 ^ 8 % 2 ^ 16
    let bytes := fun (v m : Nat) => (List.range m).map (fun i => v / 256 ^ i % 256)
    let ready := readyWord s
    (s.lcsShown < 256 → ready.toNat / 2 ^ 62 = s.stage % 4 ∧ ready.toNat % 2 ^ 8 = s.lcsShown ∧ ready.toNat / 2 ^ 20 % 2 ^ 4 = s.dierdy.toNat ∧
      ready.toNat / 2 ^ 24 % 2 ^ 12 = s.stkrdy.toNat ∧ ∀ p < 4, ready.getLsbD (36 + p) =
        (s.cxlrdy.getLsbD p && (((cxlAt s p).st == .up && (cxlAt s p).wiped) || (cxlAt s p).bytes == 0))) ∧
    (¬ reached → ∀ i ∈ [Instr.ycpWrite y, .ycpRead y, .budgetWrite y, .budgetRead y, .identity y, .attest y], exec i s = .next s) ∧
    (∀ p ∈ [(Instr.budgetWrite y, (0 : Nat)), (.budgetRead y, 1), (.identity y, 2), (.attest y, 3)], sub ≠ p.2 → exec p.1 s = .next s) ∧
    (reached →
    (∀ p ∈ [(Instr.ycpWrite y, sub, (0x08 : Nat), host, 1 ≤ y.body.length ∧ y.body.length ≤ 512), (.ycpRead y, sub, 0x09, host, y.body.length = 2),
        (.budgetWrite y, 0, 0x0A, host, y.body.length = 2), (.budgetRead y, 1, 0x0A, host, y.body.length = 1),
        (.identity y, 2, 0x0A, trusted, y.body.length = 1), (.attest y, 3, 0x0A, trusted, y.body.length = 5)],
      sub = p.2.1 → (¬ p.2.2.2.1 → refused p.1 p.2.2.1 3) ∧ (p.2.2.2.1 → ¬ p.2.2.2.2 → refused p.1 p.2.2.1 2)) ∧
    (host → 1 ≤ y.body.length → y.body.length ≤ 512 →
      let m := y.body.length - 1
      (rangeAnswer s1 pa (8 * m) true = .unbacked → refused (.ycpWrite y) 0x08 2) ∧
      (∀ j, rangeAnswer s1 pa (8 * m) true = .wait j → exec (.ycpWrite y) s = .next (startExit s1 j)) ∧
      (rangeAnswer s1 pa (8 * m) true = .now → s.feWait = [] → ∃ t, exec (.ycpWrite y) s = .next (say t 0x08 0 []) ∧
        (∀ i < m, readBytes t (pa + 8 * i) 8 = (w (i + 1)).toNat) ∧ sameMemOutside pa (8 * m) s t)) ∧
    (host → y.body.length = 2 →
      let m := (w 1).toNat
      (4088 < m ∨ rangeAnswer s1 pa m = .unbacked → refused (.ycpRead y) 0x09 2) ∧
      (∀ j, m ≤ 4088 → rangeAnswer s1 pa m = .wait j → exec (.ycpRead y) s = .next (startExit s1 j)) ∧
      (m ≤ 4088 → rangeAnswer s1 pa m = .now → ∃ l, exec (.ycpRead y) s = .next (say s1 0x09 0 l) ∧ l.length = (m + 7) / 8 ∧
        ∀ i < m, (l[i / 8]?.getD 0).toNat / 256 ^ (i % 8) % 256 = (readByte s (pa + i)).toNat)) ∧
    (host → y.body.length = 2 → sub = 0 →
      let v := w 1 &&& 0xF3FFFF
      let bad := v.toNat / 2 ^ 16 % 4 = 3 ∨ v.toNat % 2 ^ 16 < 200 ∨ 2400 < v.toNat % 2 ^ 16
      let top := v.toNat / 2 ^ 16 % 4
      (bad ∨ frag ≠ 0 → refused (.budgetWrite y) 0x0A 2) ∧
      (¬ bad → frag = 0 → ∃ t, exec (.budgetWrite y) s = .next (say t 0x0A 0 [last, s.budget]) ∧ t.budget = v ∧
        { t with budget := s.budget, clusters := s1.clusters, ue := s1.ue, cxl := s1.cxl, stkPoint := s1.stkPoint } = s1 ∧
        (∀ j < 16, ueAt t j = { ueAt s j with point := max top (ueAt s j).point }) ∧ (∀ j < 4, cxlAt t j = { cxlAt s j with point := max top (cxlAt s j).point }) ∧
        (∀ j < 12, tget 1 t.stkPoint j = max top (tget 1 s.stkPoint j)) ∧
        ∀ j < 160, cluAt t j = let c := cluAt s1 j
          if top ≤ c.point then c else { c with point := top, stopped := c.stopped || (c.vigil == 0 && !s.gated.getLsbD (dieOf j)) })) ∧
    (host → y.body.length = 1 → sub = 1 → frag = 0 → exec (.budgetRead y) s = .next (say s1 0x0A 0 [last, s.budget])) ∧
    (host → y.body.length = 1 → sub = 1 → frag ≠ 0 → refused (.budgetRead y) 0x0A 2) ∧
    (trusted → y.body.length = 1 → sub = 2 → frag = 0 → ∃ l, exec (.identity y) s = .next (say s1 0x0A 0 ([last, ready, Config.partNumber] ++ l)) ∧
      l.length = 324 + (if s.fwFail then 1 else 0) ∧ (s.fwFail = true → l.getLast? = some 1) ∧
      (s.idkey = true → ∀ i < 2592, (l[i / 8]?.getD 0).toNat / 256 ^ (i % 8) % 256 = Config.publicKey (Config.sha3 Config.deviceSecret) i % 256)) ∧
    (trusted → y.body.length = 5 → sub = 3 → s.lcs = 5 → refused (.attest y) 0x0A 3) ∧
    (trusted → y.body.length = 5 → sub = 3 → s.lcs ≠ 5 → frag ≠ 0 → s.attest = none → refused (.attest y) 0x0A 2) ∧
    (trusted → y.body.length = 5 → sub = 3 → s.lcs ≠ 5 → frag = 0 →
      let nonce := (List.range 4).flatMap (fun i => bytes (w (i + 1)).toNat 8)
      let ws := s.mlog.flatMap (fun d => wordsOf (bytes d 64)) ++
        wordsOf ((List.range 4627).map (Config.sign (Config.sha3 Config.deviceSecret) s.attests (Config.sha3 (nonce ++ bytes s.measure 64 ++ bytes ready.toNat 8))))
      ∃ f, exec (.attest y) s = .next (say { s1 with attest := some (ws.map (·.toNat)), attests := s.attests + 1 } 0x0A 0 (f :: ws.take 511)) ∧
        (f.getLsbD 31 = true ↔ ws.length ≤ 511)))

/-! ## Start, reset, power (chapter 25) -/

/-- R414 to R419, R422, R425 and R426: power-good shows the life-cycle state, loads the firmware, measuring each verified component, and trains UE port 0; a stack, a die and a CXL port become ready,
those of die 0 first, wiped once; a warm reset keeps HBM and CXL contents, swaps
and measurements and loses every context and thread; a cold reset wipes all and restarts the almanac; a life-cycle change takes only the transitions of the table, with their authorities, on a host session, and wipes every memory.

The model's own: STAGE is 1 from the first stack on, and die 0 is the first (log 57, DEDUCED); how evacuations end at a reset, and what a cold reset keeps of the maps (log 58, DEDUCED); digests, keys and signatures are free values
(log 15, DESIGN CHOICE). -/
def Obligations.StartAndResets : Prop :=
  (∀ (s : State) (parts : List Firmware), s.stage = 0 → s.fwOk = false → ∃ t, exec (.powerGood parts) s = .next t ∧
    let good := fun (f : Firmware) => Config.verify Config.vendorKey (Config.sha3 f.image) f.signature
    ((∀ f ∈ parts, good f = true) → t.fwOk = true ∧ t.fwFail = false ∧ t.mlog = parts.map (fun f => Config.sha3 f.image)) ∧
    ((∃ f ∈ parts, good f = false) → t.fwOk = false ∧ t.fwFail = true) ∧ t.lcsShown = s.lcs ∧ t.stage = 0 ∧
    t.measure = t.mlog.foldl (fun m d => Config.sha3 ((List.range 64).map (fun i => m / 256 ^ i % 256) ++ (List.range 64).map (fun i => d / 256 ^ i % 256))) 0 ∧
    ((ueAt s 0).st = .disabled → (ueAt t 0).st = .training) ∧ ∀ p, p ≠ 0 → ueAt t p = ueAt s p) ∧
  (∀ (s : State) (n : Nat), s.fwOk = true →
    (3 ≤ n → s.stage < 2 → exec (.stackReady n) s = .next s) ∧
    (n < 12 → (n < 3 ∨ 2 ≤ s.stage) → ∃ t, exec (.stackReady n) s = .next t ∧ t.stkrdy = s.stkrdy ||| (1 <<< n : BitVec 12) ∧ t.stage = max s.stage 1 ∧
      (∀ a, readByte t a = if s.stkwiped.getLsbD n = false ∧ stackOf s a = some n then 0 else readByte s a) ∧
      (∀ i < 4, (ueAt s (4 * (n / 3) + i)).st = .disabled → (ueAt t (4 * (n / 3) + i)).st = .training) ∧ ((cxlAt s (n / 3)).st = .disabled → (cxlAt t (n / 3)).st = .training)) ∧
    (n < 4 → (∀ i < 3, s.stkrdy.getLsbD (3 * n + i) = true) → s.gated.getLsbD n = false → (n = 0 ∨ 2 ≤ s.stage) → ∃ t, exec (.dieReady n) s = .next t ∧ t.dierdy = s.dierdy ||| (1 <<< n : BitVec 4) ∧
      t.stage = max s.stage (if n = 0 then 2 else 3) ∧ sameMem s t) ∧
    (n ≠ 0 → s.stage < 2 → exec (.dieReady n) s = .next s) ∧
    (∀ i < 3, n < 4 → s.stkrdy.getLsbD (3 * n + i) = false → exec (.dieReady n) s = .next s) ∧
    (s.stage < 2 → ∀ absent, exec (.cxlReady ⟨n, absent⟩) s = .next s) ∧
    (n < 4 → 2 ≤ s.stage → ((cxlAt s n).st = .up → exec (.cxlReady ⟨n, true⟩) s = .next s) ∧ ((cxlAt s n).st ≠ .up → exec (.cxlReady ⟨n, false⟩) s = .next s) ∧
      ((cxlAt s n).st = .up → ∃ t, exec (.cxlReady ⟨n, false⟩) s = .next t ∧ t.cxlrdy = s.cxlrdy ||| (1 <<< n : BitVec 4) ∧ cxlAt t n = { cxlAt s n with wiped := true } ∧
        ∀ a, readByte t a = if (cxlAt s n).wiped = false ∧ cxlOf s a = some n then 0 else readByte s a) ∧
      ((cxlAt s n).st ≠ .up → ∃ t, exec (.cxlReady ⟨n, true⟩) s = .next t ∧ t.cxlrdy = s.cxlrdy ||| (1 <<< n : BitVec 4) ∧ cxlAt t n = { cxlAt s n with wiped := false, bytes := 0 } ∧
        sameMem s t))) ∧
  (∀ s : State, ∃ t, exec .warmReset s = .next t ∧ (∀ a, readByte t a = if 2 ^ 43 ≤ a then 0 else readByte s a) ∧ (∀ c u, thrAt t c u = {}) ∧ (∀ n, ctxAt t n = {}) ∧
    (∀ c, (coreAt t c).group = .idle) ∧ t.cells = [] ∧ t.remap = s.remap ∧ t.swaps.map (fun q => (q.group, q.m, q.n)) = s.swaps.map (fun q => (q.group, q.m, q.n)) ∧ t.fwOk = s.fwOk ∧
    t.measure = s.measure ∧ t.mlog = s.mlog ∧ t.dies = s.dies ∧ (∀ d, routeState t d = 0) ∧ (∀ p < 16, (ueAt t p).st = .training) ∧ (∀ p < 4, (cxlAt t p).st = .training) ∧
    (∀ c, ∀ b < 20, (unitAt t 1 c b).st ≠ .evacuating) ∧ t.dierdy = 0 ∧ t.stage = 0 ∧ t.lcs = s.lcs ∧ t.number = s.number ∧
    (∀ c, (coreAt t c).time = 0) ∧ t.hosts = [] ∧ (∀ l, l ∈ t.poison ↔ l ∈ s.poison ∧ l * 64 < 2 ^ 43) ∧ t.stkwiped = s.stkwiped ∧ ∀ p < 4, (cxlAt t p).wiped = (cxlAt s p).wiped) ∧
  (∀ (s : State) (ns : Nat), ∃ t, exec (.coldReset ns) s = .next t ∧ (∀ a, readByte t a = 0) ∧ (∀ w, isEmpty t w = false) ∧ (∀ c u, thrAt t c u = {}) ∧ (∀ n, ctxAt t n = {}) ∧
    (∀ c, (coreAt t c).group = .idle) ∧ t.remap = [] ∧ t.swaps = [] ∧ t.fwOk = false ∧ (∀ p, (ueAt t p).st = .disabled ∧ (cxlAt t p).st = .disabled) ∧ (∀ d, routeState t d = 0) ∧
    (∀ d < 4, (dieAt t d).ns = ns ∧ (dieAt t d).redirect = (dieAt s d).redirect ∧ (dieAt t d).domain = (dieAt s d).domain) ∧ t.dierdy = 0 ∧ t.stage = 0 ∧ t.lcs = s.lcs ∧
    t.lcsShown = 0 ∧ (∀ c, (coreAt t c).time = 0) ∧ t.hosts = [] ∧ t.poison = [] ∧ t.stkwiped = 0) ∧
  ∀ (s : State) (port next : Nat) (vendor owner : Bool) (key : Nat),
    let i := Instr.lifeCycleChange ⟨port, next, key⟩ vendor owner
    let digest := fun (k : Nat) => Config.sha3 ((List.range 2592).map (fun j => k / 256 ^ j % 256))
    let owned := owner = true ∧ ∃ k, s.owner = some k ∧ s.ownerFuse = some (digest k)
    let may := port ∈ s.hosts ∧ ((s.lcs = 1 ∧ next = 2 ∧ vendor = true) ∨ (s.lcs = 2 ∧ next = 3 ∧ owned) ∨
      (s.lcs = 3 ∧ next = 4 ∧ vendor = true ∧ owned) ∨ (s.lcs = 4 ∧ next = 5 ∧ vendor = true))
    (¬ may → exec i s = .next s) ∧
    (may → ∃ t, exec i s = .next t ∧ t.lcs = next ∧ (∀ a, readByte t a = 0) ∧ (∀ c u, thrAt t c u = {}) ∧ (∀ n, ctxAt t n = {}) ∧ t.stage = 0 ∧ t.fwOk = false ∧
      t.owner = (if next = 2 then some key else if next = 5 then none else s.owner) ∧
      t.ownerFuse = (if next = 2 then some (digest key) else if next = 5 then none else s.ownerFuse) ∧ (t.idkey = true ↔ next ≠ 5) ∧
      (next = 4 → (∀ c, cappool (coreAt t c) = 20) ∧ (∀ k, capslice (cluAt t k) = 32) ∧ ∀ d < 4, caphbm (dieAt t d) = BitVec.ofNat 64 (147456 * 2 ^ 32 + 192)))

/-- R26, R306, R355, R420 and R421: a cluster that is not stopped, in VIGIL or gated goes to a point no faster than MAXPOINT, to a faster one only while the estimated total is within WATTS, and its clock
stops until it has settled, and what waited for it goes on. Over WATTS the one of least activity steps down first; within it clusters step up again in the reverse order (the estimate is an input: log 80, DESIGN CHOICE). A die whose GATE bit is set and whose cores are all
IDLE is gated: its tarns drop their tiles, its clusters power off and DIERDY clears; when its GATE bit is clear again it is ungated and DIERDY sets. Memory reads as before. -/
def Obligations.OperatingPointsAndGating : Prop :=
  (∀ (s : State) (k p : Nat),
    let c := cluAt s k
    let top := s.budget.toNat / 2 ^ 16 % 4
    let most := s.budget.toNat % 2 ^ 16
    let able := fun (j : Nat) => j < 160 ∧ (cluAt s j).vigil = 0 ∧ (cluAt s j).stopped = false ∧ s.gated.getLsbD (dieOf j) = false
    let ok := p ≤ 2 ∧ top ≤ p ∧ (c.point ≤ p ∨ (s.watts ≤ most ∧ k ∉ s.stepped))
    let first := ∀ j, able j → (cluAt s j).point < 2 → c.activity < (cluAt s j).activity ∨ (c.activity = (cluAt s j).activity ∧ k ≤ j)
    let goes := fun (i : Instr) (l : List Nat) (y : Cluster) => ∃ t, exec i s = .next t ∧ onlyCluster k { s with stepped := l } t ∧ cluAt t k = y
    (able k → ok → goes (.operatingPointChange k p) s.stepped { c with point := p, stopped := true }) ∧
    (¬ ok ∨ ¬ able k → exec (.operatingPointChange k p) s = .next s) ∧
    (c.stopped = false → exec (.operatingPointSettled k) s = .next s) ∧
    (c.stopped = true → ∃ t, exec (.operatingPointSettled k) s = .next t ∧ { t with clusters := s.clusters, cores := s.cores } = s ∧ cluAt t k = { c with stopped := false } ∧ (∀ j, j ≠ k → cluAt t j = cluAt s j) ∧
      ∀ e u, parkedFor (thrAt s e u) .access = true → thrAt t e u = { thrAt s e u with slot := readySlot (thrAt s e u), park := none }) ∧
    (able k → most < s.watts → c.point < 2 → first → goes (.budgetStep k true) (k :: s.stepped) { c with point := c.point + 1, stopped := true }) ∧
    (¬ able k ∨ s.watts ≤ most ∨ 2 ≤ c.point ∨ ¬ first → exec (.budgetStep k true) s = .next s) ∧
    (∀ r, able k → s.watts ≤ most → s.stepped = k :: r → top < c.point → goes (.budgetStep k false) r { c with point := c.point - 1, stopped := true }) ∧
    (∀ r, able k → s.watts ≤ most → s.stepped = k :: r → c.point ≤ top → exec (.budgetStep k false) s = .next { s with stepped := r }) ∧
    (¬ able k ∨ most < s.watts ∨ s.stepped.head? ≠ some k → exec (.budgetStep k false) s = .next s)) ∧
  ∀ (s : State) (d : Nat), d < 4 →
    (s.budget.getLsbD (20 + d) = true → s.dierdy.getLsbD d = true → (∀ p ∈ s.cores, dieOfCore p.1 = d → p.2.group = .idle) → ∃ t, exec (.dieGate d) s = .next t ∧
      t.gated = s.gated ||| (1 <<< d : BitVec 4) ∧ (∀ e < 4, t.dierdy.getLsbD e = if e = d then false else s.dierdy.getLsbD e) ∧ sameMem s t ∧
      (∀ k < 160, dieOf k = d → (cluAt t k).agent.tiles = []) ∧ ∀ k, dieOf k ≠ d → cluAt t k = cluAt s k) ∧
    (s.budget.getLsbD (20 + d) = false ∨ (∃ c < 5120, dieOfCore c = d ∧ (coreAt s c).group ≠ .idle) → exec (.dieGate d) s = .next s) ∧
    (s.gated.getLsbD d = true → s.budget.getLsbD (20 + d) = false → ∃ t, exec (.dieUngate d) s = .next t ∧ (∀ e < 4, t.gated.getLsbD e = if e = d then false else s.gated.getLsbD e) ∧
      t.dierdy = s.dierdy ||| (1 <<< d : BitVec 4) ∧ sameMem s t) ∧
    (s.gated.getLsbD d = false ∨ s.budget.getLsbD (20 + d) = true → exec (.dieUngate d) s = .next s)
end

