-- ==== Sys2Proof/Laws/State.lean ====
section
/-!
SUPPORT. One lemma per field per update of the state: what an update of one part leaves as it was.
-/

namespace Sys2Proof.Machine

/-! ## setCore -/

@[simp] theorem setCore_number (s : State) (c : Nat) (k : Core) : (setCore s c k).number = s.number := rfl
@[simp] theorem setCore_mem (s : State) (c : Nat) (k : Core) : (setCore s c k).mem = s.mem := rfl
@[simp] theorem setCore_empties (s : State) (c : Nat) (k : Core) : (setCore s c k).empties = s.empties := rfl
@[simp] theorem setCore_relrec (s : State) (c : Nat) (k : Core) : (setCore s c k).relrec = s.relrec := rfl
@[simp] theorem setCore_feWait (s : State) (c : Nat) (k : Core) : (setCore s c k).feWait = s.feWait := rfl
@[simp] theorem setCore_idents (s : State) (c : Nat) (k : Core) : (setCore s c k).idents = s.idents := rfl
@[simp] theorem setCore_poison (s : State) (c : Nat) (k : Core) : (setCore s c k).poison = s.poison := rfl
@[simp] theorem setCore_drainReq (s : State) (c : Nat) (k : Core) : (setCore s c k).drainReq = s.drainReq := rfl
@[simp] theorem setCore_clusters (s : State) (c : Nat) (k : Core) : (setCore s c k).clusters = s.clusters := rfl
@[simp] theorem setCore_dies (s : State) (c : Nat) (k : Core) : (setCore s c k).dies = s.dies := rfl
@[simp] theorem setCore_remap (s : State) (c : Nat) (k : Core) : (setCore s c k).remap = s.remap := rfl
@[simp] theorem setCore_swaps (s : State) (c : Nat) (k : Core) : (setCore s c k).swaps = s.swaps := rfl
@[simp] theorem setCore_odcor (s : State) (c : Nat) (k : Core) : (setCore s c k).odcor = s.odcor := rfl
@[simp] theorem setCore_shoots (s : State) (c : Nat) (k : Core) : (setCore s c k).shoots = s.shoots := rfl
@[simp] theorem setCore_ctxs (s : State) (c : Nat) (k : Core) : (setCore s c k).ctxs = s.ctxs := rfl
@[simp] theorem setCore_cells (s : State) (c : Nat) (k : Core) : (setCore s c k).cells = s.cells := rfl
@[simp] theorem setCore_wakes (s : State) (c : Nat) (k : Core) : (setCore s c k).wakes = s.wakes := rfl
@[simp] theorem setCore_starts (s : State) (c : Nat) (k : Core) : (setCore s c k).starts = s.starts := rfl
@[simp] theorem setCore_packets (s : State) (c : Nat) (k : Core) : (setCore s c k).packets = s.packets := rfl
@[simp] theorem setCore_ams (s : State) (c : Nat) (k : Core) : (setCore s c k).ams = s.ams := rfl
@[simp] theorem setCore_scans (s : State) (c : Nat) (k : Core) : (setCore s c k).scans = s.scans := rfl
@[simp] theorem setCore_probes (s : State) (c : Nat) (k : Core) : (setCore s c k).probes = s.probes := rfl
@[simp] theorem setCore_ints (s : State) (c : Nat) (k : Core) : (setCore s c k).ints = s.ints := rfl
@[simp] theorem setCore_tiles (s : State) (c : Nat) (k : Core) : (setCore s c k).tiles = s.tiles := rfl
@[simp] theorem setCore_purges (s : State) (c : Nat) (k : Core) : (setCore s c k).purges = s.purges := rfl
@[simp] theorem setCore_sups (s : State) (c : Nat) (k : Core) : (setCore s c k).sups = s.sups := rfl
@[simp] theorem setCore_ue (s : State) (c : Nat) (k : Core) : (setCore s c k).ue = s.ue := rfl
@[simp] theorem setCore_cxl (s : State) (c : Nat) (k : Core) : (setCore s c k).cxl = s.cxl := rfl
@[simp] theorem setCore_routes (s : State) (c : Nat) (k : Core) : (setCore s c k).routes = s.routes := rfl
@[simp] theorem setCore_quiet (s : State) (c : Nat) (k : Core) : (setCore s c k).quiet = s.quiet := rfl
@[simp] theorem setCore_stage (s : State) (c : Nat) (k : Core) : (setCore s c k).stage = s.stage := rfl
@[simp] theorem setCore_stkrdy (s : State) (c : Nat) (k : Core) : (setCore s c k).stkrdy = s.stkrdy := rfl
@[simp] theorem setCore_stkwiped (s : State) (c : Nat) (k : Core) : (setCore s c k).stkwiped = s.stkwiped := rfl
@[simp] theorem setCore_dierdy (s : State) (c : Nat) (k : Core) : (setCore s c k).dierdy = s.dierdy := rfl
@[simp] theorem setCore_cxlrdy (s : State) (c : Nat) (k : Core) : (setCore s c k).cxlrdy = s.cxlrdy := rfl
@[simp] theorem setCore_gated (s : State) (c : Nat) (k : Core) : (setCore s c k).gated = s.gated := rfl
@[simp] theorem setCore_lcs (s : State) (c : Nat) (k : Core) : (setCore s c k).lcs = s.lcs := rfl
@[simp] theorem setCore_lcsShown (s : State) (c : Nat) (k : Core) : (setCore s c k).lcsShown = s.lcsShown := rfl
@[simp] theorem setCore_owner (s : State) (c : Nat) (k : Core) : (setCore s c k).owner = s.owner := rfl
@[simp] theorem setCore_ownerFuse (s : State) (c : Nat) (k : Core) : (setCore s c k).ownerFuse = s.ownerFuse := rfl
@[simp] theorem setCore_idkey (s : State) (c : Nat) (k : Core) : (setCore s c k).idkey = s.idkey := rfl
@[simp] theorem setCore_fwOk (s : State) (c : Nat) (k : Core) : (setCore s c k).fwOk = s.fwOk := rfl
@[simp] theorem setCore_fwFail (s : State) (c : Nat) (k : Core) : (setCore s c k).fwFail = s.fwFail := rfl
@[simp] theorem setCore_hosts (s : State) (c : Nat) (k : Core) : (setCore s c k).hosts = s.hosts := rfl
@[simp] theorem setCore_asked (s : State) (c : Nat) (k : Core) : (setCore s c k).asked = s.asked := rfl
@[simp] theorem setCore_budget (s : State) (c : Nat) (k : Core) : (setCore s c k).budget = s.budget := rfl
@[simp] theorem setCore_watts (s : State) (c : Nat) (k : Core) : (setCore s c k).watts = s.watts := rfl
@[simp] theorem setCore_stepped (s : State) (c : Nat) (k : Core) : (setCore s c k).stepped = s.stepped := rfl
@[simp] theorem setCore_stkPoint (s : State) (c : Nat) (k : Core) : (setCore s c k).stkPoint = s.stkPoint := rfl
@[simp] theorem setCore_measure (s : State) (c : Nat) (k : Core) : (setCore s c k).measure = s.measure := rfl
@[simp] theorem setCore_mlog (s : State) (c : Nat) (k : Core) : (setCore s c k).mlog = s.mlog := rfl
@[simp] theorem setCore_attest (s : State) (c : Nat) (k : Core) : (setCore s c k).attest = s.attest := rfl
@[simp] theorem setCore_attests (s : State) (c : Nat) (k : Core) : (setCore s c k).attests = s.attests := rfl
@[simp] theorem setCore_hostOut (s : State) (c : Nat) (k : Core) : (setCore s c k).hostOut = s.hostOut := rfl
@[simp] theorem setCore_linkOut (s : State) (c : Nat) (k : Core) : (setCore s c k).linkOut = s.linkOut := rfl
@[simp] theorem setCore_agenda (s : State) (c : Nat) (k : Core) : (setCore s c k).agenda = s.agenda := rfl
@[simp] theorem setCore_focus (s : State) (c : Nat) (k : Core) : (setCore s c k).focus = s.focus := rfl
@[simp] theorem setCore_iss (s : State) (c : Nat) (k : Core) : (setCore s c k).iss = s.iss := rfl
@[simp] theorem setCore_fresh (s : State) (c : Nat) (k : Core) : (setCore s c k).fresh = s.fresh := rfl
@[simp] theorem setCore_free (s : State) (c : Nat) (k : Core) : (setCore s c k).free = s.free := rfl

/-! ## modCore -/

@[simp] theorem modCore_number (s : State) (c : Nat) (f : Core → Core) : (modCore s c f).number = s.number := rfl
@[simp] theorem modCore_mem (s : State) (c : Nat) (f : Core → Core) : (modCore s c f).mem = s.mem := rfl
@[simp] theorem modCore_empties (s : State) (c : Nat) (f : Core → Core) : (modCore s c f).empties = s.empties := rfl
@[simp] theorem modCore_relrec (s : State) (c : Nat) (f : Core → Core) : (modCore s c f).relrec = s.relrec := rfl
@[simp] theorem modCore_feWait (s : State) (c : Nat) (f : Core → Core) : (modCore s c f).feWait = s.feWait := rfl
@[simp] theorem modCore_idents (s : State) (c : Nat) (f : Core → Core) : (modCore s c f).idents = s.idents := rfl
@[simp] theorem modCore_poison (s : State) (c : Nat) (f : Core → Core) : (modCore s c f).poison = s.poison := rfl
@[simp] theorem modCore_drainReq (s : State) (c : Nat) (f : Core → Core) : (modCore s c f).drainReq = s.drainReq := rfl
@[simp] theorem modCore_clusters (s : State) (c : Nat) (f : Core → Core) : (modCore s c f).clusters = s.clusters := rfl
@[simp] theorem modCore_dies (s : State) (c : Nat) (f : Core → Core) : (modCore s c f).dies = s.dies := rfl
@[simp] theorem modCore_remap (s : State) (c : Nat) (f : Core → Core) : (modCore s c f).remap = s.remap := rfl
@[simp] theorem modCore_swaps (s : State) (c : Nat) (f : Core → Core) : (modCore s c f).swaps = s.swaps := rfl
@[simp] theorem modCore_odcor (s : State) (c : Nat) (f : Core → Core) : (modCore s c f).odcor = s.odcor := rfl
@[simp] theorem modCore_shoots (s : State) (c : Nat) (f : Core → Core) : (modCore s c f).shoots = s.shoots := rfl
@[simp] theorem modCore_ctxs (s : State) (c : Nat) (f : Core → Core) : (modCore s c f).ctxs = s.ctxs := rfl
@[simp] theorem modCore_cells (s : State) (c : Nat) (f : Core → Core) : (modCore s c f).cells = s.cells := rfl
@[simp] theorem modCore_wakes (s : State) (c : Nat) (f : Core → Core) : (modCore s c f).wakes = s.wakes := rfl
@[simp] theorem modCore_starts (s : State) (c : Nat) (f : Core → Core) : (modCore s c f).starts = s.starts := rfl
@[simp] theorem modCore_packets (s : State) (c : Nat) (f : Core → Core) : (modCore s c f).packets = s.packets := rfl
@[simp] theorem modCore_ams (s : State) (c : Nat) (f : Core → Core) : (modCore s c f).ams = s.ams := rfl
@[simp] theorem modCore_scans (s : State) (c : Nat) (f : Core → Core) : (modCore s c f).scans = s.scans := rfl
@[simp] theorem modCore_probes (s : State) (c : Nat) (f : Core → Core) : (modCore s c f).probes = s.probes := rfl
@[simp] theorem modCore_ints (s : State) (c : Nat) (f : Core → Core) : (modCore s c f).ints = s.ints := rfl
@[simp] theorem modCore_tiles (s : State) (c : Nat) (f : Core → Core) : (modCore s c f).tiles = s.tiles := rfl
@[simp] theorem modCore_purges (s : State) (c : Nat) (f : Core → Core) : (modCore s c f).purges = s.purges := rfl
@[simp] theorem modCore_sups (s : State) (c : Nat) (f : Core → Core) : (modCore s c f).sups = s.sups := rfl
@[simp] theorem modCore_ue (s : State) (c : Nat) (f : Core → Core) : (modCore s c f).ue = s.ue := rfl
@[simp] theorem modCore_cxl (s : State) (c : Nat) (f : Core → Core) : (modCore s c f).cxl = s.cxl := rfl
@[simp] theorem modCore_routes (s : State) (c : Nat) (f : Core → Core) : (modCore s c f).routes = s.routes := rfl
@[simp] theorem modCore_quiet (s : State) (c : Nat) (f : Core → Core) : (modCore s c f).quiet = s.quiet := rfl
@[simp] theorem modCore_stage (s : State) (c : Nat) (f : Core → Core) : (modCore s c f).stage = s.stage := rfl
@[simp] theorem modCore_stkrdy (s : State) (c : Nat) (f : Core → Core) : (modCore s c f).stkrdy = s.stkrdy := rfl
@[simp] theorem modCore_stkwiped (s : State) (c : Nat) (f : Core → Core) : (modCore s c f).stkwiped = s.stkwiped := rfl
@[simp] theorem modCore_dierdy (s : State) (c : Nat) (f : Core → Core) : (modCore s c f).dierdy = s.dierdy := rfl
@[simp] theorem modCore_cxlrdy (s : State) (c : Nat) (f : Core → Core) : (modCore s c f).cxlrdy = s.cxlrdy := rfl
@[simp] theorem modCore_gated (s : State) (c : Nat) (f : Core → Core) : (modCore s c f).gated = s.gated := rfl
@[simp] theorem modCore_lcs (s : State) (c : Nat) (f : Core → Core) : (modCore s c f).lcs = s.lcs := rfl
@[simp] theorem modCore_lcsShown (s : State) (c : Nat) (f : Core → Core) : (modCore s c f).lcsShown = s.lcsShown := rfl
@[simp] theorem modCore_owner (s : State) (c : Nat) (f : Core → Core) : (modCore s c f).owner = s.owner := rfl
@[simp] theorem modCore_ownerFuse (s : State) (c : Nat) (f : Core → Core) : (modCore s c f).ownerFuse = s.ownerFuse := rfl
@[simp] theorem modCore_idkey (s : State) (c : Nat) (f : Core → Core) : (modCore s c f).idkey = s.idkey := rfl
@[simp] theorem modCore_fwOk (s : State) (c : Nat) (f : Core → Core) : (modCore s c f).fwOk = s.fwOk := rfl
@[simp] theorem modCore_fwFail (s : State) (c : Nat) (f : Core → Core) : (modCore s c f).fwFail = s.fwFail := rfl
@[simp] theorem modCore_hosts (s : State) (c : Nat) (f : Core → Core) : (modCore s c f).hosts = s.hosts := rfl
@[simp] theorem modCore_asked (s : State) (c : Nat) (f : Core → Core) : (modCore s c f).asked = s.asked := rfl
@[simp] theorem modCore_budget (s : State) (c : Nat) (f : Core → Core) : (modCore s c f).budget = s.budget := rfl
@[simp] theorem modCore_watts (s : State) (c : Nat) (f : Core → Core) : (modCore s c f).watts = s.watts := rfl
@[simp] theorem modCore_stepped (s : State) (c : Nat) (f : Core → Core) : (modCore s c f).stepped = s.stepped := rfl
@[simp] theorem modCore_stkPoint (s : State) (c : Nat) (f : Core → Core) : (modCore s c f).stkPoint = s.stkPoint := rfl
@[simp] theorem modCore_measure (s : State) (c : Nat) (f : Core → Core) : (modCore s c f).measure = s.measure := rfl
@[simp] theorem modCore_mlog (s : State) (c : Nat) (f : Core → Core) : (modCore s c f).mlog = s.mlog := rfl
@[simp] theorem modCore_attest (s : State) (c : Nat) (f : Core → Core) : (modCore s c f).attest = s.attest := rfl
@[simp] theorem modCore_attests (s : State) (c : Nat) (f : Core → Core) : (modCore s c f).attests = s.attests := rfl
@[simp] theorem modCore_hostOut (s : State) (c : Nat) (f : Core → Core) : (modCore s c f).hostOut = s.hostOut := rfl
@[simp] theorem modCore_linkOut (s : State) (c : Nat) (f : Core → Core) : (modCore s c f).linkOut = s.linkOut := rfl
@[simp] theorem modCore_agenda (s : State) (c : Nat) (f : Core → Core) : (modCore s c f).agenda = s.agenda := rfl
@[simp] theorem modCore_focus (s : State) (c : Nat) (f : Core → Core) : (modCore s c f).focus = s.focus := rfl
@[simp] theorem modCore_iss (s : State) (c : Nat) (f : Core → Core) : (modCore s c f).iss = s.iss := rfl
@[simp] theorem modCore_fresh (s : State) (c : Nat) (f : Core → Core) : (modCore s c f).fresh = s.fresh := rfl
@[simp] theorem modCore_free (s : State) (c : Nat) (f : Core → Core) : (modCore s c f).free = s.free := rfl

/-! ## setThr -/

@[simp] theorem setThr_number (s : State) (c t : Nat) (th : Thread) : (setThr s c t th).number = s.number := rfl
@[simp] theorem setThr_mem (s : State) (c t : Nat) (th : Thread) : (setThr s c t th).mem = s.mem := rfl
@[simp] theorem setThr_empties (s : State) (c t : Nat) (th : Thread) : (setThr s c t th).empties = s.empties := rfl
@[simp] theorem setThr_relrec (s : State) (c t : Nat) (th : Thread) : (setThr s c t th).relrec = s.relrec := rfl
@[simp] theorem setThr_feWait (s : State) (c t : Nat) (th : Thread) : (setThr s c t th).feWait = s.feWait := rfl
@[simp] theorem setThr_idents (s : State) (c t : Nat) (th : Thread) : (setThr s c t th).idents = s.idents := rfl
@[simp] theorem setThr_poison (s : State) (c t : Nat) (th : Thread) : (setThr s c t th).poison = s.poison := rfl
@[simp] theorem setThr_drainReq (s : State) (c t : Nat) (th : Thread) : (setThr s c t th).drainReq = s.drainReq := rfl
@[simp] theorem setThr_clusters (s : State) (c t : Nat) (th : Thread) : (setThr s c t th).clusters = s.clusters := rfl
@[simp] theorem setThr_dies (s : State) (c t : Nat) (th : Thread) : (setThr s c t th).dies = s.dies := rfl
@[simp] theorem setThr_remap (s : State) (c t : Nat) (th : Thread) : (setThr s c t th).remap = s.remap := rfl
@[simp] theorem setThr_swaps (s : State) (c t : Nat) (th : Thread) : (setThr s c t th).swaps = s.swaps := rfl
@[simp] theorem setThr_odcor (s : State) (c t : Nat) (th : Thread) : (setThr s c t th).odcor = s.odcor := rfl
@[simp] theorem setThr_shoots (s : State) (c t : Nat) (th : Thread) : (setThr s c t th).shoots = s.shoots := rfl
@[simp] theorem setThr_ctxs (s : State) (c t : Nat) (th : Thread) : (setThr s c t th).ctxs = s.ctxs := rfl
@[simp] theorem setThr_cells (s : State) (c t : Nat) (th : Thread) : (setThr s c t th).cells = s.cells := rfl
@[simp] theorem setThr_wakes (s : State) (c t : Nat) (th : Thread) : (setThr s c t th).wakes = s.wakes := rfl
@[simp] theorem setThr_starts (s : State) (c t : Nat) (th : Thread) : (setThr s c t th).starts = s.starts := rfl
@[simp] theorem setThr_packets (s : State) (c t : Nat) (th : Thread) : (setThr s c t th).packets = s.packets := rfl
@[simp] theorem setThr_ams (s : State) (c t : Nat) (th : Thread) : (setThr s c t th).ams = s.ams := rfl
@[simp] theorem setThr_scans (s : State) (c t : Nat) (th : Thread) : (setThr s c t th).scans = s.scans := rfl
@[simp] theorem setThr_probes (s : State) (c t : Nat) (th : Thread) : (setThr s c t th).probes = s.probes := rfl
@[simp] theorem setThr_ints (s : State) (c t : Nat) (th : Thread) : (setThr s c t th).ints = s.ints := rfl
@[simp] theorem setThr_tiles (s : State) (c t : Nat) (th : Thread) : (setThr s c t th).tiles = s.tiles := rfl
@[simp] theorem setThr_purges (s : State) (c t : Nat) (th : Thread) : (setThr s c t th).purges = s.purges := rfl
@[simp] theorem setThr_sups (s : State) (c t : Nat) (th : Thread) : (setThr s c t th).sups = s.sups := rfl
@[simp] theorem setThr_ue (s : State) (c t : Nat) (th : Thread) : (setThr s c t th).ue = s.ue := rfl
@[simp] theorem setThr_cxl (s : State) (c t : Nat) (th : Thread) : (setThr s c t th).cxl = s.cxl := rfl
@[simp] theorem setThr_routes (s : State) (c t : Nat) (th : Thread) : (setThr s c t th).routes = s.routes := rfl
@[simp] theorem setThr_quiet (s : State) (c t : Nat) (th : Thread) : (setThr s c t th).quiet = s.quiet := rfl
@[simp] theorem setThr_stage (s : State) (c t : Nat) (th : Thread) : (setThr s c t th).stage = s.stage := rfl
@[simp] theorem setThr_stkrdy (s : State) (c t : Nat) (th : Thread) : (setThr s c t th).stkrdy = s.stkrdy := rfl
@[simp] theorem setThr_stkwiped (s : State) (c t : Nat) (th : Thread) : (setThr s c t th).stkwiped = s.stkwiped := rfl
@[simp] theorem setThr_dierdy (s : State) (c t : Nat) (th : Thread) : (setThr s c t th).dierdy = s.dierdy := rfl
@[simp] theorem setThr_cxlrdy (s : State) (c t : Nat) (th : Thread) : (setThr s c t th).cxlrdy = s.cxlrdy := rfl
@[simp] theorem setThr_gated (s : State) (c t : Nat) (th : Thread) : (setThr s c t th).gated = s.gated := rfl
@[simp] theorem setThr_lcs (s : State) (c t : Nat) (th : Thread) : (setThr s c t th).lcs = s.lcs := rfl
@[simp] theorem setThr_lcsShown (s : State) (c t : Nat) (th : Thread) : (setThr s c t th).lcsShown = s.lcsShown := rfl
@[simp] theorem setThr_owner (s : State) (c t : Nat) (th : Thread) : (setThr s c t th).owner = s.owner := rfl
@[simp] theorem setThr_ownerFuse (s : State) (c t : Nat) (th : Thread) : (setThr s c t th).ownerFuse = s.ownerFuse := rfl
@[simp] theorem setThr_idkey (s : State) (c t : Nat) (th : Thread) : (setThr s c t th).idkey = s.idkey := rfl
@[simp] theorem setThr_fwOk (s : State) (c t : Nat) (th : Thread) : (setThr s c t th).fwOk = s.fwOk := rfl
@[simp] theorem setThr_fwFail (s : State) (c t : Nat) (th : Thread) : (setThr s c t th).fwFail = s.fwFail := rfl
@[simp] theorem setThr_hosts (s : State) (c t : Nat) (th : Thread) : (setThr s c t th).hosts = s.hosts := rfl
@[simp] theorem setThr_asked (s : State) (c t : Nat) (th : Thread) : (setThr s c t th).asked = s.asked := rfl
@[simp] theorem setThr_budget (s : State) (c t : Nat) (th : Thread) : (setThr s c t th).budget = s.budget := rfl
@[simp] theorem setThr_watts (s : State) (c t : Nat) (th : Thread) : (setThr s c t th).watts = s.watts := rfl
@[simp] theorem setThr_stepped (s : State) (c t : Nat) (th : Thread) : (setThr s c t th).stepped = s.stepped := rfl
@[simp] theorem setThr_stkPoint (s : State) (c t : Nat) (th : Thread) : (setThr s c t th).stkPoint = s.stkPoint := rfl
@[simp] theorem setThr_measure (s : State) (c t : Nat) (th : Thread) : (setThr s c t th).measure = s.measure := rfl
@[simp] theorem setThr_mlog (s : State) (c t : Nat) (th : Thread) : (setThr s c t th).mlog = s.mlog := rfl
@[simp] theorem setThr_attest (s : State) (c t : Nat) (th : Thread) : (setThr s c t th).attest = s.attest := rfl
@[simp] theorem setThr_attests (s : State) (c t : Nat) (th : Thread) : (setThr s c t th).attests = s.attests := rfl
@[simp] theorem setThr_hostOut (s : State) (c t : Nat) (th : Thread) : (setThr s c t th).hostOut = s.hostOut := rfl
@[simp] theorem setThr_linkOut (s : State) (c t : Nat) (th : Thread) : (setThr s c t th).linkOut = s.linkOut := rfl
@[simp] theorem setThr_agenda (s : State) (c t : Nat) (th : Thread) : (setThr s c t th).agenda = s.agenda := rfl
@[simp] theorem setThr_focus (s : State) (c t : Nat) (th : Thread) : (setThr s c t th).focus = s.focus := rfl
@[simp] theorem setThr_iss (s : State) (c t : Nat) (th : Thread) : (setThr s c t th).iss = s.iss := rfl
@[simp] theorem setThr_fresh (s : State) (c t : Nat) (th : Thread) : (setThr s c t th).fresh = s.fresh := rfl
@[simp] theorem setThr_free (s : State) (c t : Nat) (th : Thread) : (setThr s c t th).free = s.free := rfl

/-! ## modThr -/

@[simp] theorem modThr_number (s : State) (c t : Nat) (f : Thread → Thread) : (modThr s c t f).number = s.number := rfl
@[simp] theorem modThr_mem (s : State) (c t : Nat) (f : Thread → Thread) : (modThr s c t f).mem = s.mem := rfl
@[simp] theorem modThr_empties (s : State) (c t : Nat) (f : Thread → Thread) : (modThr s c t f).empties = s.empties := rfl
@[simp] theorem modThr_relrec (s : State) (c t : Nat) (f : Thread → Thread) : (modThr s c t f).relrec = s.relrec := rfl
@[simp] theorem modThr_feWait (s : State) (c t : Nat) (f : Thread → Thread) : (modThr s c t f).feWait = s.feWait := rfl
@[simp] theorem modThr_idents (s : State) (c t : Nat) (f : Thread → Thread) : (modThr s c t f).idents = s.idents := rfl
@[simp] theorem modThr_poison (s : State) (c t : Nat) (f : Thread → Thread) : (modThr s c t f).poison = s.poison := rfl
@[simp] theorem modThr_drainReq (s : State) (c t : Nat) (f : Thread → Thread) : (modThr s c t f).drainReq = s.drainReq := rfl
@[simp] theorem modThr_clusters (s : State) (c t : Nat) (f : Thread → Thread) : (modThr s c t f).clusters = s.clusters := rfl
@[simp] theorem modThr_dies (s : State) (c t : Nat) (f : Thread → Thread) : (modThr s c t f).dies = s.dies := rfl
@[simp] theorem modThr_remap (s : State) (c t : Nat) (f : Thread → Thread) : (modThr s c t f).remap = s.remap := rfl
@[simp] theorem modThr_swaps (s : State) (c t : Nat) (f : Thread → Thread) : (modThr s c t f).swaps = s.swaps := rfl
@[simp] theorem modThr_odcor (s : State) (c t : Nat) (f : Thread → Thread) : (modThr s c t f).odcor = s.odcor := rfl
@[simp] theorem modThr_shoots (s : State) (c t : Nat) (f : Thread → Thread) : (modThr s c t f).shoots = s.shoots := rfl
@[simp] theorem modThr_ctxs (s : State) (c t : Nat) (f : Thread → Thread) : (modThr s c t f).ctxs = s.ctxs := rfl
@[simp] theorem modThr_cells (s : State) (c t : Nat) (f : Thread → Thread) : (modThr s c t f).cells = s.cells := rfl
@[simp] theorem modThr_wakes (s : State) (c t : Nat) (f : Thread → Thread) : (modThr s c t f).wakes = s.wakes := rfl
@[simp] theorem modThr_starts (s : State) (c t : Nat) (f : Thread → Thread) : (modThr s c t f).starts = s.starts := rfl
@[simp] theorem modThr_packets (s : State) (c t : Nat) (f : Thread → Thread) : (modThr s c t f).packets = s.packets := rfl
@[simp] theorem modThr_ams (s : State) (c t : Nat) (f : Thread → Thread) : (modThr s c t f).ams = s.ams := rfl
@[simp] theorem modThr_scans (s : State) (c t : Nat) (f : Thread → Thread) : (modThr s c t f).scans = s.scans := rfl
@[simp] theorem modThr_probes (s : State) (c t : Nat) (f : Thread → Thread) : (modThr s c t f).probes = s.probes := rfl
@[simp] theorem modThr_ints (s : State) (c t : Nat) (f : Thread → Thread) : (modThr s c t f).ints = s.ints := rfl
@[simp] theorem modThr_tiles (s : State) (c t : Nat) (f : Thread → Thread) : (modThr s c t f).tiles = s.tiles := rfl
@[simp] theorem modThr_purges (s : State) (c t : Nat) (f : Thread → Thread) : (modThr s c t f).purges = s.purges := rfl
@[simp] theorem modThr_sups (s : State) (c t : Nat) (f : Thread → Thread) : (modThr s c t f).sups = s.sups := rfl
@[simp] theorem modThr_ue (s : State) (c t : Nat) (f : Thread → Thread) : (modThr s c t f).ue = s.ue := rfl
@[simp] theorem modThr_cxl (s : State) (c t : Nat) (f : Thread → Thread) : (modThr s c t f).cxl = s.cxl := rfl
@[simp] theorem modThr_routes (s : State) (c t : Nat) (f : Thread → Thread) : (modThr s c t f).routes = s.routes := rfl
@[simp] theorem modThr_quiet (s : State) (c t : Nat) (f : Thread → Thread) : (modThr s c t f).quiet = s.quiet := rfl
@[simp] theorem modThr_stage (s : State) (c t : Nat) (f : Thread → Thread) : (modThr s c t f).stage = s.stage := rfl
@[simp] theorem modThr_stkrdy (s : State) (c t : Nat) (f : Thread → Thread) : (modThr s c t f).stkrdy = s.stkrdy := rfl
@[simp] theorem modThr_stkwiped (s : State) (c t : Nat) (f : Thread → Thread) : (modThr s c t f).stkwiped = s.stkwiped := rfl
@[simp] theorem modThr_dierdy (s : State) (c t : Nat) (f : Thread → Thread) : (modThr s c t f).dierdy = s.dierdy := rfl
@[simp] theorem modThr_cxlrdy (s : State) (c t : Nat) (f : Thread → Thread) : (modThr s c t f).cxlrdy = s.cxlrdy := rfl
@[simp] theorem modThr_gated (s : State) (c t : Nat) (f : Thread → Thread) : (modThr s c t f).gated = s.gated := rfl
@[simp] theorem modThr_lcs (s : State) (c t : Nat) (f : Thread → Thread) : (modThr s c t f).lcs = s.lcs := rfl
@[simp] theorem modThr_lcsShown (s : State) (c t : Nat) (f : Thread → Thread) : (modThr s c t f).lcsShown = s.lcsShown := rfl
@[simp] theorem modThr_owner (s : State) (c t : Nat) (f : Thread → Thread) : (modThr s c t f).owner = s.owner := rfl
@[simp] theorem modThr_ownerFuse (s : State) (c t : Nat) (f : Thread → Thread) : (modThr s c t f).ownerFuse = s.ownerFuse := rfl
@[simp] theorem modThr_idkey (s : State) (c t : Nat) (f : Thread → Thread) : (modThr s c t f).idkey = s.idkey := rfl
@[simp] theorem modThr_fwOk (s : State) (c t : Nat) (f : Thread → Thread) : (modThr s c t f).fwOk = s.fwOk := rfl
@[simp] theorem modThr_fwFail (s : State) (c t : Nat) (f : Thread → Thread) : (modThr s c t f).fwFail = s.fwFail := rfl
@[simp] theorem modThr_hosts (s : State) (c t : Nat) (f : Thread → Thread) : (modThr s c t f).hosts = s.hosts := rfl
@[simp] theorem modThr_asked (s : State) (c t : Nat) (f : Thread → Thread) : (modThr s c t f).asked = s.asked := rfl
@[simp] theorem modThr_budget (s : State) (c t : Nat) (f : Thread → Thread) : (modThr s c t f).budget = s.budget := rfl
@[simp] theorem modThr_watts (s : State) (c t : Nat) (f : Thread → Thread) : (modThr s c t f).watts = s.watts := rfl
@[simp] theorem modThr_stepped (s : State) (c t : Nat) (f : Thread → Thread) : (modThr s c t f).stepped = s.stepped := rfl
@[simp] theorem modThr_stkPoint (s : State) (c t : Nat) (f : Thread → Thread) : (modThr s c t f).stkPoint = s.stkPoint := rfl
@[simp] theorem modThr_measure (s : State) (c t : Nat) (f : Thread → Thread) : (modThr s c t f).measure = s.measure := rfl
@[simp] theorem modThr_mlog (s : State) (c t : Nat) (f : Thread → Thread) : (modThr s c t f).mlog = s.mlog := rfl
@[simp] theorem modThr_attest (s : State) (c t : Nat) (f : Thread → Thread) : (modThr s c t f).attest = s.attest := rfl
@[simp] theorem modThr_attests (s : State) (c t : Nat) (f : Thread → Thread) : (modThr s c t f).attests = s.attests := rfl
@[simp] theorem modThr_hostOut (s : State) (c t : Nat) (f : Thread → Thread) : (modThr s c t f).hostOut = s.hostOut := rfl
@[simp] theorem modThr_linkOut (s : State) (c t : Nat) (f : Thread → Thread) : (modThr s c t f).linkOut = s.linkOut := rfl
@[simp] theorem modThr_agenda (s : State) (c t : Nat) (f : Thread → Thread) : (modThr s c t f).agenda = s.agenda := rfl
@[simp] theorem modThr_focus (s : State) (c t : Nat) (f : Thread → Thread) : (modThr s c t f).focus = s.focus := rfl
@[simp] theorem modThr_iss (s : State) (c t : Nat) (f : Thread → Thread) : (modThr s c t f).iss = s.iss := rfl
@[simp] theorem modThr_fresh (s : State) (c t : Nat) (f : Thread → Thread) : (modThr s c t f).fresh = s.fresh := rfl
@[simp] theorem modThr_free (s : State) (c t : Nat) (f : Thread → Thread) : (modThr s c t f).free = s.free := rfl

/-! ## modMe -/

@[simp] theorem modMe_number (s : State) (f : Thread → Thread) : (modMe s f).number = s.number := rfl
@[simp] theorem modMe_mem (s : State) (f : Thread → Thread) : (modMe s f).mem = s.mem := rfl
@[simp] theorem modMe_empties (s : State) (f : Thread → Thread) : (modMe s f).empties = s.empties := rfl
@[simp] theorem modMe_relrec (s : State) (f : Thread → Thread) : (modMe s f).relrec = s.relrec := rfl
@[simp] theorem modMe_feWait (s : State) (f : Thread → Thread) : (modMe s f).feWait = s.feWait := rfl
@[simp] theorem modMe_idents (s : State) (f : Thread → Thread) : (modMe s f).idents = s.idents := rfl
@[simp] theorem modMe_poison (s : State) (f : Thread → Thread) : (modMe s f).poison = s.poison := rfl
@[simp] theorem modMe_drainReq (s : State) (f : Thread → Thread) : (modMe s f).drainReq = s.drainReq := rfl
@[simp] theorem modMe_clusters (s : State) (f : Thread → Thread) : (modMe s f).clusters = s.clusters := rfl
@[simp] theorem modMe_dies (s : State) (f : Thread → Thread) : (modMe s f).dies = s.dies := rfl
@[simp] theorem modMe_remap (s : State) (f : Thread → Thread) : (modMe s f).remap = s.remap := rfl
@[simp] theorem modMe_swaps (s : State) (f : Thread → Thread) : (modMe s f).swaps = s.swaps := rfl
@[simp] theorem modMe_odcor (s : State) (f : Thread → Thread) : (modMe s f).odcor = s.odcor := rfl
@[simp] theorem modMe_shoots (s : State) (f : Thread → Thread) : (modMe s f).shoots = s.shoots := rfl
@[simp] theorem modMe_ctxs (s : State) (f : Thread → Thread) : (modMe s f).ctxs = s.ctxs := rfl
@[simp] theorem modMe_cells (s : State) (f : Thread → Thread) : (modMe s f).cells = s.cells := rfl
@[simp] theorem modMe_wakes (s : State) (f : Thread → Thread) : (modMe s f).wakes = s.wakes := rfl
@[simp] theorem modMe_starts (s : State) (f : Thread → Thread) : (modMe s f).starts = s.starts := rfl
@[simp] theorem modMe_packets (s : State) (f : Thread → Thread) : (modMe s f).packets = s.packets := rfl
@[simp] theorem modMe_ams (s : State) (f : Thread → Thread) : (modMe s f).ams = s.ams := rfl
@[simp] theorem modMe_scans (s : State) (f : Thread → Thread) : (modMe s f).scans = s.scans := rfl
@[simp] theorem modMe_probes (s : State) (f : Thread → Thread) : (modMe s f).probes = s.probes := rfl
@[simp] theorem modMe_ints (s : State) (f : Thread → Thread) : (modMe s f).ints = s.ints := rfl
@[simp] theorem modMe_tiles (s : State) (f : Thread → Thread) : (modMe s f).tiles = s.tiles := rfl
@[simp] theorem modMe_purges (s : State) (f : Thread → Thread) : (modMe s f).purges = s.purges := rfl
@[simp] theorem modMe_sups (s : State) (f : Thread → Thread) : (modMe s f).sups = s.sups := rfl
@[simp] theorem modMe_ue (s : State) (f : Thread → Thread) : (modMe s f).ue = s.ue := rfl
@[simp] theorem modMe_cxl (s : State) (f : Thread → Thread) : (modMe s f).cxl = s.cxl := rfl
@[simp] theorem modMe_routes (s : State) (f : Thread → Thread) : (modMe s f).routes = s.routes := rfl
@[simp] theorem modMe_quiet (s : State) (f : Thread → Thread) : (modMe s f).quiet = s.quiet := rfl
@[simp] theorem modMe_stage (s : State) (f : Thread → Thread) : (modMe s f).stage = s.stage := rfl
@[simp] theorem modMe_stkrdy (s : State) (f : Thread → Thread) : (modMe s f).stkrdy = s.stkrdy := rfl
@[simp] theorem modMe_stkwiped (s : State) (f : Thread → Thread) : (modMe s f).stkwiped = s.stkwiped := rfl
@[simp] theorem modMe_dierdy (s : State) (f : Thread → Thread) : (modMe s f).dierdy = s.dierdy := rfl
@[simp] theorem modMe_cxlrdy (s : State) (f : Thread → Thread) : (modMe s f).cxlrdy = s.cxlrdy := rfl
@[simp] theorem modMe_gated (s : State) (f : Thread → Thread) : (modMe s f).gated = s.gated := rfl
@[simp] theorem modMe_lcs (s : State) (f : Thread → Thread) : (modMe s f).lcs = s.lcs := rfl
@[simp] theorem modMe_lcsShown (s : State) (f : Thread → Thread) : (modMe s f).lcsShown = s.lcsShown := rfl
@[simp] theorem modMe_owner (s : State) (f : Thread → Thread) : (modMe s f).owner = s.owner := rfl
@[simp] theorem modMe_ownerFuse (s : State) (f : Thread → Thread) : (modMe s f).ownerFuse = s.ownerFuse := rfl
@[simp] theorem modMe_idkey (s : State) (f : Thread → Thread) : (modMe s f).idkey = s.idkey := rfl
@[simp] theorem modMe_fwOk (s : State) (f : Thread → Thread) : (modMe s f).fwOk = s.fwOk := rfl
@[simp] theorem modMe_fwFail (s : State) (f : Thread → Thread) : (modMe s f).fwFail = s.fwFail := rfl
@[simp] theorem modMe_hosts (s : State) (f : Thread → Thread) : (modMe s f).hosts = s.hosts := rfl
@[simp] theorem modMe_asked (s : State) (f : Thread → Thread) : (modMe s f).asked = s.asked := rfl
@[simp] theorem modMe_budget (s : State) (f : Thread → Thread) : (modMe s f).budget = s.budget := rfl
@[simp] theorem modMe_watts (s : State) (f : Thread → Thread) : (modMe s f).watts = s.watts := rfl
@[simp] theorem modMe_stepped (s : State) (f : Thread → Thread) : (modMe s f).stepped = s.stepped := rfl
@[simp] theorem modMe_stkPoint (s : State) (f : Thread → Thread) : (modMe s f).stkPoint = s.stkPoint := rfl
@[simp] theorem modMe_measure (s : State) (f : Thread → Thread) : (modMe s f).measure = s.measure := rfl
@[simp] theorem modMe_mlog (s : State) (f : Thread → Thread) : (modMe s f).mlog = s.mlog := rfl
@[simp] theorem modMe_attest (s : State) (f : Thread → Thread) : (modMe s f).attest = s.attest := rfl
@[simp] theorem modMe_attests (s : State) (f : Thread → Thread) : (modMe s f).attests = s.attests := rfl
@[simp] theorem modMe_hostOut (s : State) (f : Thread → Thread) : (modMe s f).hostOut = s.hostOut := rfl
@[simp] theorem modMe_linkOut (s : State) (f : Thread → Thread) : (modMe s f).linkOut = s.linkOut := rfl
@[simp] theorem modMe_agenda (s : State) (f : Thread → Thread) : (modMe s f).agenda = s.agenda := rfl
@[simp] theorem modMe_focus (s : State) (f : Thread → Thread) : (modMe s f).focus = s.focus := rfl
@[simp] theorem modMe_iss (s : State) (f : Thread → Thread) : (modMe s f).iss = s.iss := rfl
@[simp] theorem modMe_fresh (s : State) (f : Thread → Thread) : (modMe s f).fresh = s.fresh := rfl
@[simp] theorem modMe_free (s : State) (f : Thread → Thread) : (modMe s f).free = s.free := rfl

/-! ## modClu -/

@[simp] theorem modClu_number (s : State) (k : Nat) (f : Cluster → Cluster) : (modClu s k f).number = s.number := rfl
@[simp] theorem modClu_mem (s : State) (k : Nat) (f : Cluster → Cluster) : (modClu s k f).mem = s.mem := rfl
@[simp] theorem modClu_empties (s : State) (k : Nat) (f : Cluster → Cluster) : (modClu s k f).empties = s.empties := rfl
@[simp] theorem modClu_relrec (s : State) (k : Nat) (f : Cluster → Cluster) : (modClu s k f).relrec = s.relrec := rfl
@[simp] theorem modClu_feWait (s : State) (k : Nat) (f : Cluster → Cluster) : (modClu s k f).feWait = s.feWait := rfl
@[simp] theorem modClu_idents (s : State) (k : Nat) (f : Cluster → Cluster) : (modClu s k f).idents = s.idents := rfl
@[simp] theorem modClu_poison (s : State) (k : Nat) (f : Cluster → Cluster) : (modClu s k f).poison = s.poison := rfl
@[simp] theorem modClu_drainReq (s : State) (k : Nat) (f : Cluster → Cluster) : (modClu s k f).drainReq = s.drainReq := rfl
@[simp] theorem modClu_cores (s : State) (k : Nat) (f : Cluster → Cluster) : (modClu s k f).cores = s.cores := rfl
@[simp] theorem modClu_dies (s : State) (k : Nat) (f : Cluster → Cluster) : (modClu s k f).dies = s.dies := rfl
@[simp] theorem modClu_remap (s : State) (k : Nat) (f : Cluster → Cluster) : (modClu s k f).remap = s.remap := rfl
@[simp] theorem modClu_swaps (s : State) (k : Nat) (f : Cluster → Cluster) : (modClu s k f).swaps = s.swaps := rfl
@[simp] theorem modClu_odcor (s : State) (k : Nat) (f : Cluster → Cluster) : (modClu s k f).odcor = s.odcor := rfl
@[simp] theorem modClu_shoots (s : State) (k : Nat) (f : Cluster → Cluster) : (modClu s k f).shoots = s.shoots := rfl
@[simp] theorem modClu_ctxs (s : State) (k : Nat) (f : Cluster → Cluster) : (modClu s k f).ctxs = s.ctxs := rfl
@[simp] theorem modClu_cells (s : State) (k : Nat) (f : Cluster → Cluster) : (modClu s k f).cells = s.cells := rfl
@[simp] theorem modClu_wakes (s : State) (k : Nat) (f : Cluster → Cluster) : (modClu s k f).wakes = s.wakes := rfl
@[simp] theorem modClu_starts (s : State) (k : Nat) (f : Cluster → Cluster) : (modClu s k f).starts = s.starts := rfl
@[simp] theorem modClu_packets (s : State) (k : Nat) (f : Cluster → Cluster) : (modClu s k f).packets = s.packets := rfl
@[simp] theorem modClu_ams (s : State) (k : Nat) (f : Cluster → Cluster) : (modClu s k f).ams = s.ams := rfl
@[simp] theorem modClu_scans (s : State) (k : Nat) (f : Cluster → Cluster) : (modClu s k f).scans = s.scans := rfl
@[simp] theorem modClu_probes (s : State) (k : Nat) (f : Cluster → Cluster) : (modClu s k f).probes = s.probes := rfl
@[simp] theorem modClu_ints (s : State) (k : Nat) (f : Cluster → Cluster) : (modClu s k f).ints = s.ints := rfl
@[simp] theorem modClu_tiles (s : State) (k : Nat) (f : Cluster → Cluster) : (modClu s k f).tiles = s.tiles := rfl
@[simp] theorem modClu_purges (s : State) (k : Nat) (f : Cluster → Cluster) : (modClu s k f).purges = s.purges := rfl
@[simp] theorem modClu_sups (s : State) (k : Nat) (f : Cluster → Cluster) : (modClu s k f).sups = s.sups := rfl
@[simp] theorem modClu_ue (s : State) (k : Nat) (f : Cluster → Cluster) : (modClu s k f).ue = s.ue := rfl
@[simp] theorem modClu_cxl (s : State) (k : Nat) (f : Cluster → Cluster) : (modClu s k f).cxl = s.cxl := rfl
@[simp] theorem modClu_routes (s : State) (k : Nat) (f : Cluster → Cluster) : (modClu s k f).routes = s.routes := rfl
@[simp] theorem modClu_quiet (s : State) (k : Nat) (f : Cluster → Cluster) : (modClu s k f).quiet = s.quiet := rfl
@[simp] theorem modClu_stage (s : State) (k : Nat) (f : Cluster → Cluster) : (modClu s k f).stage = s.stage := rfl
@[simp] theorem modClu_stkrdy (s : State) (k : Nat) (f : Cluster → Cluster) : (modClu s k f).stkrdy = s.stkrdy := rfl
@[simp] theorem modClu_stkwiped (s : State) (k : Nat) (f : Cluster → Cluster) : (modClu s k f).stkwiped = s.stkwiped := rfl
@[simp] theorem modClu_dierdy (s : State) (k : Nat) (f : Cluster → Cluster) : (modClu s k f).dierdy = s.dierdy := rfl
@[simp] theorem modClu_cxlrdy (s : State) (k : Nat) (f : Cluster → Cluster) : (modClu s k f).cxlrdy = s.cxlrdy := rfl
@[simp] theorem modClu_gated (s : State) (k : Nat) (f : Cluster → Cluster) : (modClu s k f).gated = s.gated := rfl
@[simp] theorem modClu_lcs (s : State) (k : Nat) (f : Cluster → Cluster) : (modClu s k f).lcs = s.lcs := rfl
@[simp] theorem modClu_lcsShown (s : State) (k : Nat) (f : Cluster → Cluster) : (modClu s k f).lcsShown = s.lcsShown := rfl
@[simp] theorem modClu_owner (s : State) (k : Nat) (f : Cluster → Cluster) : (modClu s k f).owner = s.owner := rfl
@[simp] theorem modClu_ownerFuse (s : State) (k : Nat) (f : Cluster → Cluster) : (modClu s k f).ownerFuse = s.ownerFuse := rfl
@[simp] theorem modClu_idkey (s : State) (k : Nat) (f : Cluster → Cluster) : (modClu s k f).idkey = s.idkey := rfl
@[simp] theorem modClu_fwOk (s : State) (k : Nat) (f : Cluster → Cluster) : (modClu s k f).fwOk = s.fwOk := rfl
@[simp] theorem modClu_fwFail (s : State) (k : Nat) (f : Cluster → Cluster) : (modClu s k f).fwFail = s.fwFail := rfl
@[simp] theorem modClu_hosts (s : State) (k : Nat) (f : Cluster → Cluster) : (modClu s k f).hosts = s.hosts := rfl
@[simp] theorem modClu_asked (s : State) (k : Nat) (f : Cluster → Cluster) : (modClu s k f).asked = s.asked := rfl
@[simp] theorem modClu_budget (s : State) (k : Nat) (f : Cluster → Cluster) : (modClu s k f).budget = s.budget := rfl
@[simp] theorem modClu_watts (s : State) (k : Nat) (f : Cluster → Cluster) : (modClu s k f).watts = s.watts := rfl
@[simp] theorem modClu_stepped (s : State) (k : Nat) (f : Cluster → Cluster) : (modClu s k f).stepped = s.stepped := rfl
@[simp] theorem modClu_stkPoint (s : State) (k : Nat) (f : Cluster → Cluster) : (modClu s k f).stkPoint = s.stkPoint := rfl
@[simp] theorem modClu_measure (s : State) (k : Nat) (f : Cluster → Cluster) : (modClu s k f).measure = s.measure := rfl
@[simp] theorem modClu_mlog (s : State) (k : Nat) (f : Cluster → Cluster) : (modClu s k f).mlog = s.mlog := rfl
@[simp] theorem modClu_attest (s : State) (k : Nat) (f : Cluster → Cluster) : (modClu s k f).attest = s.attest := rfl
@[simp] theorem modClu_attests (s : State) (k : Nat) (f : Cluster → Cluster) : (modClu s k f).attests = s.attests := rfl
@[simp] theorem modClu_hostOut (s : State) (k : Nat) (f : Cluster → Cluster) : (modClu s k f).hostOut = s.hostOut := rfl
@[simp] theorem modClu_linkOut (s : State) (k : Nat) (f : Cluster → Cluster) : (modClu s k f).linkOut = s.linkOut := rfl
@[simp] theorem modClu_agenda (s : State) (k : Nat) (f : Cluster → Cluster) : (modClu s k f).agenda = s.agenda := rfl
@[simp] theorem modClu_focus (s : State) (k : Nat) (f : Cluster → Cluster) : (modClu s k f).focus = s.focus := rfl
@[simp] theorem modClu_iss (s : State) (k : Nat) (f : Cluster → Cluster) : (modClu s k f).iss = s.iss := rfl
@[simp] theorem modClu_fresh (s : State) (k : Nat) (f : Cluster → Cluster) : (modClu s k f).fresh = s.fresh := rfl
@[simp] theorem modClu_free (s : State) (k : Nat) (f : Cluster → Cluster) : (modClu s k f).free = s.free := rfl

/-! ## modArr -/

@[simp] theorem modArr_number (s : State) (k : Nat) (f : MtxArray → MtxArray) : (modArr s k f).number = s.number := rfl
@[simp] theorem modArr_mem (s : State) (k : Nat) (f : MtxArray → MtxArray) : (modArr s k f).mem = s.mem := rfl
@[simp] theorem modArr_empties (s : State) (k : Nat) (f : MtxArray → MtxArray) : (modArr s k f).empties = s.empties := rfl
@[simp] theorem modArr_relrec (s : State) (k : Nat) (f : MtxArray → MtxArray) : (modArr s k f).relrec = s.relrec := rfl
@[simp] theorem modArr_feWait (s : State) (k : Nat) (f : MtxArray → MtxArray) : (modArr s k f).feWait = s.feWait := rfl
@[simp] theorem modArr_idents (s : State) (k : Nat) (f : MtxArray → MtxArray) : (modArr s k f).idents = s.idents := rfl
@[simp] theorem modArr_poison (s : State) (k : Nat) (f : MtxArray → MtxArray) : (modArr s k f).poison = s.poison := rfl
@[simp] theorem modArr_drainReq (s : State) (k : Nat) (f : MtxArray → MtxArray) : (modArr s k f).drainReq = s.drainReq := rfl
@[simp] theorem modArr_cores (s : State) (k : Nat) (f : MtxArray → MtxArray) : (modArr s k f).cores = s.cores := rfl
@[simp] theorem modArr_dies (s : State) (k : Nat) (f : MtxArray → MtxArray) : (modArr s k f).dies = s.dies := rfl
@[simp] theorem modArr_remap (s : State) (k : Nat) (f : MtxArray → MtxArray) : (modArr s k f).remap = s.remap := rfl
@[simp] theorem modArr_swaps (s : State) (k : Nat) (f : MtxArray → MtxArray) : (modArr s k f).swaps = s.swaps := rfl
@[simp] theorem modArr_odcor (s : State) (k : Nat) (f : MtxArray → MtxArray) : (modArr s k f).odcor = s.odcor := rfl
@[simp] theorem modArr_shoots (s : State) (k : Nat) (f : MtxArray → MtxArray) : (modArr s k f).shoots = s.shoots := rfl
@[simp] theorem modArr_ctxs (s : State) (k : Nat) (f : MtxArray → MtxArray) : (modArr s k f).ctxs = s.ctxs := rfl
@[simp] theorem modArr_cells (s : State) (k : Nat) (f : MtxArray → MtxArray) : (modArr s k f).cells = s.cells := rfl
@[simp] theorem modArr_wakes (s : State) (k : Nat) (f : MtxArray → MtxArray) : (modArr s k f).wakes = s.wakes := rfl
@[simp] theorem modArr_starts (s : State) (k : Nat) (f : MtxArray → MtxArray) : (modArr s k f).starts = s.starts := rfl
@[simp] theorem modArr_packets (s : State) (k : Nat) (f : MtxArray → MtxArray) : (modArr s k f).packets = s.packets := rfl
@[simp] theorem modArr_ams (s : State) (k : Nat) (f : MtxArray → MtxArray) : (modArr s k f).ams = s.ams := rfl
@[simp] theorem modArr_scans (s : State) (k : Nat) (f : MtxArray → MtxArray) : (modArr s k f).scans = s.scans := rfl
@[simp] theorem modArr_probes (s : State) (k : Nat) (f : MtxArray → MtxArray) : (modArr s k f).probes = s.probes := rfl
@[simp] theorem modArr_ints (s : State) (k : Nat) (f : MtxArray → MtxArray) : (modArr s k f).ints = s.ints := rfl
@[simp] theorem modArr_tiles (s : State) (k : Nat) (f : MtxArray → MtxArray) : (modArr s k f).tiles = s.tiles := rfl
@[simp] theorem modArr_purges (s : State) (k : Nat) (f : MtxArray → MtxArray) : (modArr s k f).purges = s.purges := rfl
@[simp] theorem modArr_sups (s : State) (k : Nat) (f : MtxArray → MtxArray) : (modArr s k f).sups = s.sups := rfl
@[simp] theorem modArr_ue (s : State) (k : Nat) (f : MtxArray → MtxArray) : (modArr s k f).ue = s.ue := rfl
@[simp] theorem modArr_cxl (s : State) (k : Nat) (f : MtxArray → MtxArray) : (modArr s k f).cxl = s.cxl := rfl
@[simp] theorem modArr_routes (s : State) (k : Nat) (f : MtxArray → MtxArray) : (modArr s k f).routes = s.routes := rfl
@[simp] theorem modArr_quiet (s : State) (k : Nat) (f : MtxArray → MtxArray) : (modArr s k f).quiet = s.quiet := rfl
@[simp] theorem modArr_stage (s : State) (k : Nat) (f : MtxArray → MtxArray) : (modArr s k f).stage = s.stage := rfl
@[simp] theorem modArr_stkrdy (s : State) (k : Nat) (f : MtxArray → MtxArray) : (modArr s k f).stkrdy = s.stkrdy := rfl
@[simp] theorem modArr_stkwiped (s : State) (k : Nat) (f : MtxArray → MtxArray) : (modArr s k f).stkwiped = s.stkwiped := rfl
@[simp] theorem modArr_dierdy (s : State) (k : Nat) (f : MtxArray → MtxArray) : (modArr s k f).dierdy = s.dierdy := rfl
@[simp] theorem modArr_cxlrdy (s : State) (k : Nat) (f : MtxArray → MtxArray) : (modArr s k f).cxlrdy = s.cxlrdy := rfl
@[simp] theorem modArr_gated (s : State) (k : Nat) (f : MtxArray → MtxArray) : (modArr s k f).gated = s.gated := rfl
@[simp] theorem modArr_lcs (s : State) (k : Nat) (f : MtxArray → MtxArray) : (modArr s k f).lcs = s.lcs := rfl
@[simp] theorem modArr_lcsShown (s : State) (k : Nat) (f : MtxArray → MtxArray) : (modArr s k f).lcsShown = s.lcsShown := rfl
@[simp] theorem modArr_owner (s : State) (k : Nat) (f : MtxArray → MtxArray) : (modArr s k f).owner = s.owner := rfl
@[simp] theorem modArr_ownerFuse (s : State) (k : Nat) (f : MtxArray → MtxArray) : (modArr s k f).ownerFuse = s.ownerFuse := rfl
@[simp] theorem modArr_idkey (s : State) (k : Nat) (f : MtxArray → MtxArray) : (modArr s k f).idkey = s.idkey := rfl
@[simp] theorem modArr_fwOk (s : State) (k : Nat) (f : MtxArray → MtxArray) : (modArr s k f).fwOk = s.fwOk := rfl
@[simp] theorem modArr_fwFail (s : State) (k : Nat) (f : MtxArray → MtxArray) : (modArr s k f).fwFail = s.fwFail := rfl
@[simp] theorem modArr_hosts (s : State) (k : Nat) (f : MtxArray → MtxArray) : (modArr s k f).hosts = s.hosts := rfl
@[simp] theorem modArr_asked (s : State) (k : Nat) (f : MtxArray → MtxArray) : (modArr s k f).asked = s.asked := rfl
@[simp] theorem modArr_budget (s : State) (k : Nat) (f : MtxArray → MtxArray) : (modArr s k f).budget = s.budget := rfl
@[simp] theorem modArr_watts (s : State) (k : Nat) (f : MtxArray → MtxArray) : (modArr s k f).watts = s.watts := rfl
@[simp] theorem modArr_stepped (s : State) (k : Nat) (f : MtxArray → MtxArray) : (modArr s k f).stepped = s.stepped := rfl
@[simp] theorem modArr_stkPoint (s : State) (k : Nat) (f : MtxArray → MtxArray) : (modArr s k f).stkPoint = s.stkPoint := rfl
@[simp] theorem modArr_measure (s : State) (k : Nat) (f : MtxArray → MtxArray) : (modArr s k f).measure = s.measure := rfl
@[simp] theorem modArr_mlog (s : State) (k : Nat) (f : MtxArray → MtxArray) : (modArr s k f).mlog = s.mlog := rfl
@[simp] theorem modArr_attest (s : State) (k : Nat) (f : MtxArray → MtxArray) : (modArr s k f).attest = s.attest := rfl
@[simp] theorem modArr_attests (s : State) (k : Nat) (f : MtxArray → MtxArray) : (modArr s k f).attests = s.attests := rfl
@[simp] theorem modArr_hostOut (s : State) (k : Nat) (f : MtxArray → MtxArray) : (modArr s k f).hostOut = s.hostOut := rfl
@[simp] theorem modArr_linkOut (s : State) (k : Nat) (f : MtxArray → MtxArray) : (modArr s k f).linkOut = s.linkOut := rfl
@[simp] theorem modArr_agenda (s : State) (k : Nat) (f : MtxArray → MtxArray) : (modArr s k f).agenda = s.agenda := rfl
@[simp] theorem modArr_focus (s : State) (k : Nat) (f : MtxArray → MtxArray) : (modArr s k f).focus = s.focus := rfl
@[simp] theorem modArr_iss (s : State) (k : Nat) (f : MtxArray → MtxArray) : (modArr s k f).iss = s.iss := rfl
@[simp] theorem modArr_fresh (s : State) (k : Nat) (f : MtxArray → MtxArray) : (modArr s k f).fresh = s.fresh := rfl
@[simp] theorem modArr_free (s : State) (k : Nat) (f : MtxArray → MtxArray) : (modArr s k f).free = s.free := rfl

/-! ## modAgent -/

@[simp] theorem modAgent_number (s : State) (k : Nat) (f : NameAgent → NameAgent) : (modAgent s k f).number = s.number := rfl
@[simp] theorem modAgent_mem (s : State) (k : Nat) (f : NameAgent → NameAgent) : (modAgent s k f).mem = s.mem := rfl
@[simp] theorem modAgent_empties (s : State) (k : Nat) (f : NameAgent → NameAgent) : (modAgent s k f).empties = s.empties := rfl
@[simp] theorem modAgent_relrec (s : State) (k : Nat) (f : NameAgent → NameAgent) : (modAgent s k f).relrec = s.relrec := rfl
@[simp] theorem modAgent_feWait (s : State) (k : Nat) (f : NameAgent → NameAgent) : (modAgent s k f).feWait = s.feWait := rfl
@[simp] theorem modAgent_idents (s : State) (k : Nat) (f : NameAgent → NameAgent) : (modAgent s k f).idents = s.idents := rfl
@[simp] theorem modAgent_poison (s : State) (k : Nat) (f : NameAgent → NameAgent) : (modAgent s k f).poison = s.poison := rfl
@[simp] theorem modAgent_drainReq (s : State) (k : Nat) (f : NameAgent → NameAgent) : (modAgent s k f).drainReq = s.drainReq := rfl
@[simp] theorem modAgent_cores (s : State) (k : Nat) (f : NameAgent → NameAgent) : (modAgent s k f).cores = s.cores := rfl
@[simp] theorem modAgent_dies (s : State) (k : Nat) (f : NameAgent → NameAgent) : (modAgent s k f).dies = s.dies := rfl
@[simp] theorem modAgent_remap (s : State) (k : Nat) (f : NameAgent → NameAgent) : (modAgent s k f).remap = s.remap := rfl
@[simp] theorem modAgent_swaps (s : State) (k : Nat) (f : NameAgent → NameAgent) : (modAgent s k f).swaps = s.swaps := rfl
@[simp] theorem modAgent_odcor (s : State) (k : Nat) (f : NameAgent → NameAgent) : (modAgent s k f).odcor = s.odcor := rfl
@[simp] theorem modAgent_shoots (s : State) (k : Nat) (f : NameAgent → NameAgent) : (modAgent s k f).shoots = s.shoots := rfl
@[simp] theorem modAgent_ctxs (s : State) (k : Nat) (f : NameAgent → NameAgent) : (modAgent s k f).ctxs = s.ctxs := rfl
@[simp] theorem modAgent_cells (s : State) (k : Nat) (f : NameAgent → NameAgent) : (modAgent s k f).cells = s.cells := rfl
@[simp] theorem modAgent_wakes (s : State) (k : Nat) (f : NameAgent → NameAgent) : (modAgent s k f).wakes = s.wakes := rfl
@[simp] theorem modAgent_starts (s : State) (k : Nat) (f : NameAgent → NameAgent) : (modAgent s k f).starts = s.starts := rfl
@[simp] theorem modAgent_packets (s : State) (k : Nat) (f : NameAgent → NameAgent) : (modAgent s k f).packets = s.packets := rfl
@[simp] theorem modAgent_ams (s : State) (k : Nat) (f : NameAgent → NameAgent) : (modAgent s k f).ams = s.ams := rfl
@[simp] theorem modAgent_scans (s : State) (k : Nat) (f : NameAgent → NameAgent) : (modAgent s k f).scans = s.scans := rfl
@[simp] theorem modAgent_probes (s : State) (k : Nat) (f : NameAgent → NameAgent) : (modAgent s k f).probes = s.probes := rfl
@[simp] theorem modAgent_ints (s : State) (k : Nat) (f : NameAgent → NameAgent) : (modAgent s k f).ints = s.ints := rfl
@[simp] theorem modAgent_tiles (s : State) (k : Nat) (f : NameAgent → NameAgent) : (modAgent s k f).tiles = s.tiles := rfl
@[simp] theorem modAgent_purges (s : State) (k : Nat) (f : NameAgent → NameAgent) : (modAgent s k f).purges = s.purges := rfl
@[simp] theorem modAgent_sups (s : State) (k : Nat) (f : NameAgent → NameAgent) : (modAgent s k f).sups = s.sups := rfl
@[simp] theorem modAgent_ue (s : State) (k : Nat) (f : NameAgent → NameAgent) : (modAgent s k f).ue = s.ue := rfl
@[simp] theorem modAgent_cxl (s : State) (k : Nat) (f : NameAgent → NameAgent) : (modAgent s k f).cxl = s.cxl := rfl
@[simp] theorem modAgent_routes (s : State) (k : Nat) (f : NameAgent → NameAgent) : (modAgent s k f).routes = s.routes := rfl
@[simp] theorem modAgent_quiet (s : State) (k : Nat) (f : NameAgent → NameAgent) : (modAgent s k f).quiet = s.quiet := rfl
@[simp] theorem modAgent_stage (s : State) (k : Nat) (f : NameAgent → NameAgent) : (modAgent s k f).stage = s.stage := rfl
@[simp] theorem modAgent_stkrdy (s : State) (k : Nat) (f : NameAgent → NameAgent) : (modAgent s k f).stkrdy = s.stkrdy := rfl
@[simp] theorem modAgent_stkwiped (s : State) (k : Nat) (f : NameAgent → NameAgent) : (modAgent s k f).stkwiped = s.stkwiped := rfl
@[simp] theorem modAgent_dierdy (s : State) (k : Nat) (f : NameAgent → NameAgent) : (modAgent s k f).dierdy = s.dierdy := rfl
@[simp] theorem modAgent_cxlrdy (s : State) (k : Nat) (f : NameAgent → NameAgent) : (modAgent s k f).cxlrdy = s.cxlrdy := rfl
@[simp] theorem modAgent_gated (s : State) (k : Nat) (f : NameAgent → NameAgent) : (modAgent s k f).gated = s.gated := rfl
@[simp] theorem modAgent_lcs (s : State) (k : Nat) (f : NameAgent → NameAgent) : (modAgent s k f).lcs = s.lcs := rfl
@[simp] theorem modAgent_lcsShown (s : State) (k : Nat) (f : NameAgent → NameAgent) : (modAgent s k f).lcsShown = s.lcsShown := rfl
@[simp] theorem modAgent_owner (s : State) (k : Nat) (f : NameAgent → NameAgent) : (modAgent s k f).owner = s.owner := rfl
@[simp] theorem modAgent_ownerFuse (s : State) (k : Nat) (f : NameAgent → NameAgent) : (modAgent s k f).ownerFuse = s.ownerFuse := rfl
@[simp] theorem modAgent_idkey (s : State) (k : Nat) (f : NameAgent → NameAgent) : (modAgent s k f).idkey = s.idkey := rfl
@[simp] theorem modAgent_fwOk (s : State) (k : Nat) (f : NameAgent → NameAgent) : (modAgent s k f).fwOk = s.fwOk := rfl
@[simp] theorem modAgent_fwFail (s : State) (k : Nat) (f : NameAgent → NameAgent) : (modAgent s k f).fwFail = s.fwFail := rfl
@[simp] theorem modAgent_hosts (s : State) (k : Nat) (f : NameAgent → NameAgent) : (modAgent s k f).hosts = s.hosts := rfl
@[simp] theorem modAgent_asked (s : State) (k : Nat) (f : NameAgent → NameAgent) : (modAgent s k f).asked = s.asked := rfl
@[simp] theorem modAgent_budget (s : State) (k : Nat) (f : NameAgent → NameAgent) : (modAgent s k f).budget = s.budget := rfl
@[simp] theorem modAgent_watts (s : State) (k : Nat) (f : NameAgent → NameAgent) : (modAgent s k f).watts = s.watts := rfl
@[simp] theorem modAgent_stepped (s : State) (k : Nat) (f : NameAgent → NameAgent) : (modAgent s k f).stepped = s.stepped := rfl
@[simp] theorem modAgent_stkPoint (s : State) (k : Nat) (f : NameAgent → NameAgent) : (modAgent s k f).stkPoint = s.stkPoint := rfl
@[simp] theorem modAgent_measure (s : State) (k : Nat) (f : NameAgent → NameAgent) : (modAgent s k f).measure = s.measure := rfl
@[simp] theorem modAgent_mlog (s : State) (k : Nat) (f : NameAgent → NameAgent) : (modAgent s k f).mlog = s.mlog := rfl
@[simp] theorem modAgent_attest (s : State) (k : Nat) (f : NameAgent → NameAgent) : (modAgent s k f).attest = s.attest := rfl
@[simp] theorem modAgent_attests (s : State) (k : Nat) (f : NameAgent → NameAgent) : (modAgent s k f).attests = s.attests := rfl
@[simp] theorem modAgent_hostOut (s : State) (k : Nat) (f : NameAgent → NameAgent) : (modAgent s k f).hostOut = s.hostOut := rfl
@[simp] theorem modAgent_linkOut (s : State) (k : Nat) (f : NameAgent → NameAgent) : (modAgent s k f).linkOut = s.linkOut := rfl
@[simp] theorem modAgent_agenda (s : State) (k : Nat) (f : NameAgent → NameAgent) : (modAgent s k f).agenda = s.agenda := rfl
@[simp] theorem modAgent_focus (s : State) (k : Nat) (f : NameAgent → NameAgent) : (modAgent s k f).focus = s.focus := rfl
@[simp] theorem modAgent_iss (s : State) (k : Nat) (f : NameAgent → NameAgent) : (modAgent s k f).iss = s.iss := rfl
@[simp] theorem modAgent_fresh (s : State) (k : Nat) (f : NameAgent → NameAgent) : (modAgent s k f).fresh = s.fresh := rfl
@[simp] theorem modAgent_free (s : State) (k : Nat) (f : NameAgent → NameAgent) : (modAgent s k f).free = s.free := rfl

/-! ## modDie -/

@[simp] theorem modDie_number (s : State) (d : Nat) (f : Die → Die) : (modDie s d f).number = s.number := rfl
@[simp] theorem modDie_mem (s : State) (d : Nat) (f : Die → Die) : (modDie s d f).mem = s.mem := rfl
@[simp] theorem modDie_empties (s : State) (d : Nat) (f : Die → Die) : (modDie s d f).empties = s.empties := rfl
@[simp] theorem modDie_relrec (s : State) (d : Nat) (f : Die → Die) : (modDie s d f).relrec = s.relrec := rfl
@[simp] theorem modDie_feWait (s : State) (d : Nat) (f : Die → Die) : (modDie s d f).feWait = s.feWait := rfl
@[simp] theorem modDie_idents (s : State) (d : Nat) (f : Die → Die) : (modDie s d f).idents = s.idents := rfl
@[simp] theorem modDie_poison (s : State) (d : Nat) (f : Die → Die) : (modDie s d f).poison = s.poison := rfl
@[simp] theorem modDie_drainReq (s : State) (d : Nat) (f : Die → Die) : (modDie s d f).drainReq = s.drainReq := rfl
@[simp] theorem modDie_cores (s : State) (d : Nat) (f : Die → Die) : (modDie s d f).cores = s.cores := rfl
@[simp] theorem modDie_clusters (s : State) (d : Nat) (f : Die → Die) : (modDie s d f).clusters = s.clusters := rfl
@[simp] theorem modDie_remap (s : State) (d : Nat) (f : Die → Die) : (modDie s d f).remap = s.remap := rfl
@[simp] theorem modDie_swaps (s : State) (d : Nat) (f : Die → Die) : (modDie s d f).swaps = s.swaps := rfl
@[simp] theorem modDie_odcor (s : State) (d : Nat) (f : Die → Die) : (modDie s d f).odcor = s.odcor := rfl
@[simp] theorem modDie_shoots (s : State) (d : Nat) (f : Die → Die) : (modDie s d f).shoots = s.shoots := rfl
@[simp] theorem modDie_ctxs (s : State) (d : Nat) (f : Die → Die) : (modDie s d f).ctxs = s.ctxs := rfl
@[simp] theorem modDie_cells (s : State) (d : Nat) (f : Die → Die) : (modDie s d f).cells = s.cells := rfl
@[simp] theorem modDie_wakes (s : State) (d : Nat) (f : Die → Die) : (modDie s d f).wakes = s.wakes := rfl
@[simp] theorem modDie_starts (s : State) (d : Nat) (f : Die → Die) : (modDie s d f).starts = s.starts := rfl
@[simp] theorem modDie_packets (s : State) (d : Nat) (f : Die → Die) : (modDie s d f).packets = s.packets := rfl
@[simp] theorem modDie_ams (s : State) (d : Nat) (f : Die → Die) : (modDie s d f).ams = s.ams := rfl
@[simp] theorem modDie_scans (s : State) (d : Nat) (f : Die → Die) : (modDie s d f).scans = s.scans := rfl
@[simp] theorem modDie_probes (s : State) (d : Nat) (f : Die → Die) : (modDie s d f).probes = s.probes := rfl
@[simp] theorem modDie_ints (s : State) (d : Nat) (f : Die → Die) : (modDie s d f).ints = s.ints := rfl
@[simp] theorem modDie_tiles (s : State) (d : Nat) (f : Die → Die) : (modDie s d f).tiles = s.tiles := rfl
@[simp] theorem modDie_purges (s : State) (d : Nat) (f : Die → Die) : (modDie s d f).purges = s.purges := rfl
@[simp] theorem modDie_sups (s : State) (d : Nat) (f : Die → Die) : (modDie s d f).sups = s.sups := rfl
@[simp] theorem modDie_ue (s : State) (d : Nat) (f : Die → Die) : (modDie s d f).ue = s.ue := rfl
@[simp] theorem modDie_cxl (s : State) (d : Nat) (f : Die → Die) : (modDie s d f).cxl = s.cxl := rfl
@[simp] theorem modDie_routes (s : State) (d : Nat) (f : Die → Die) : (modDie s d f).routes = s.routes := rfl
@[simp] theorem modDie_quiet (s : State) (d : Nat) (f : Die → Die) : (modDie s d f).quiet = s.quiet := rfl
@[simp] theorem modDie_stage (s : State) (d : Nat) (f : Die → Die) : (modDie s d f).stage = s.stage := rfl
@[simp] theorem modDie_stkrdy (s : State) (d : Nat) (f : Die → Die) : (modDie s d f).stkrdy = s.stkrdy := rfl
@[simp] theorem modDie_stkwiped (s : State) (d : Nat) (f : Die → Die) : (modDie s d f).stkwiped = s.stkwiped := rfl
@[simp] theorem modDie_dierdy (s : State) (d : Nat) (f : Die → Die) : (modDie s d f).dierdy = s.dierdy := rfl
@[simp] theorem modDie_cxlrdy (s : State) (d : Nat) (f : Die → Die) : (modDie s d f).cxlrdy = s.cxlrdy := rfl
@[simp] theorem modDie_gated (s : State) (d : Nat) (f : Die → Die) : (modDie s d f).gated = s.gated := rfl
@[simp] theorem modDie_lcs (s : State) (d : Nat) (f : Die → Die) : (modDie s d f).lcs = s.lcs := rfl
@[simp] theorem modDie_lcsShown (s : State) (d : Nat) (f : Die → Die) : (modDie s d f).lcsShown = s.lcsShown := rfl
@[simp] theorem modDie_owner (s : State) (d : Nat) (f : Die → Die) : (modDie s d f).owner = s.owner := rfl
@[simp] theorem modDie_ownerFuse (s : State) (d : Nat) (f : Die → Die) : (modDie s d f).ownerFuse = s.ownerFuse := rfl
@[simp] theorem modDie_idkey (s : State) (d : Nat) (f : Die → Die) : (modDie s d f).idkey = s.idkey := rfl
@[simp] theorem modDie_fwOk (s : State) (d : Nat) (f : Die → Die) : (modDie s d f).fwOk = s.fwOk := rfl
@[simp] theorem modDie_fwFail (s : State) (d : Nat) (f : Die → Die) : (modDie s d f).fwFail = s.fwFail := rfl
@[simp] theorem modDie_hosts (s : State) (d : Nat) (f : Die → Die) : (modDie s d f).hosts = s.hosts := rfl
@[simp] theorem modDie_asked (s : State) (d : Nat) (f : Die → Die) : (modDie s d f).asked = s.asked := rfl
@[simp] theorem modDie_budget (s : State) (d : Nat) (f : Die → Die) : (modDie s d f).budget = s.budget := rfl
@[simp] theorem modDie_watts (s : State) (d : Nat) (f : Die → Die) : (modDie s d f).watts = s.watts := rfl
@[simp] theorem modDie_stepped (s : State) (d : Nat) (f : Die → Die) : (modDie s d f).stepped = s.stepped := rfl
@[simp] theorem modDie_stkPoint (s : State) (d : Nat) (f : Die → Die) : (modDie s d f).stkPoint = s.stkPoint := rfl
@[simp] theorem modDie_measure (s : State) (d : Nat) (f : Die → Die) : (modDie s d f).measure = s.measure := rfl
@[simp] theorem modDie_mlog (s : State) (d : Nat) (f : Die → Die) : (modDie s d f).mlog = s.mlog := rfl
@[simp] theorem modDie_attest (s : State) (d : Nat) (f : Die → Die) : (modDie s d f).attest = s.attest := rfl
@[simp] theorem modDie_attests (s : State) (d : Nat) (f : Die → Die) : (modDie s d f).attests = s.attests := rfl
@[simp] theorem modDie_hostOut (s : State) (d : Nat) (f : Die → Die) : (modDie s d f).hostOut = s.hostOut := rfl
@[simp] theorem modDie_linkOut (s : State) (d : Nat) (f : Die → Die) : (modDie s d f).linkOut = s.linkOut := rfl
@[simp] theorem modDie_agenda (s : State) (d : Nat) (f : Die → Die) : (modDie s d f).agenda = s.agenda := rfl
@[simp] theorem modDie_focus (s : State) (d : Nat) (f : Die → Die) : (modDie s d f).focus = s.focus := rfl
@[simp] theorem modDie_iss (s : State) (d : Nat) (f : Die → Die) : (modDie s d f).iss = s.iss := rfl
@[simp] theorem modDie_fresh (s : State) (d : Nat) (f : Die → Die) : (modDie s d f).fresh = s.fresh := rfl
@[simp] theorem modDie_free (s : State) (d : Nat) (f : Die → Die) : (modDie s d f).free = s.free := rfl

/-! ## modCtx -/

@[simp] theorem modCtx_number (s : State) (n : Nat) (f : Ctx → Ctx) : (modCtx s n f).number = s.number := rfl
@[simp] theorem modCtx_mem (s : State) (n : Nat) (f : Ctx → Ctx) : (modCtx s n f).mem = s.mem := rfl
@[simp] theorem modCtx_empties (s : State) (n : Nat) (f : Ctx → Ctx) : (modCtx s n f).empties = s.empties := rfl
@[simp] theorem modCtx_relrec (s : State) (n : Nat) (f : Ctx → Ctx) : (modCtx s n f).relrec = s.relrec := rfl
@[simp] theorem modCtx_feWait (s : State) (n : Nat) (f : Ctx → Ctx) : (modCtx s n f).feWait = s.feWait := rfl
@[simp] theorem modCtx_idents (s : State) (n : Nat) (f : Ctx → Ctx) : (modCtx s n f).idents = s.idents := rfl
@[simp] theorem modCtx_poison (s : State) (n : Nat) (f : Ctx → Ctx) : (modCtx s n f).poison = s.poison := rfl
@[simp] theorem modCtx_drainReq (s : State) (n : Nat) (f : Ctx → Ctx) : (modCtx s n f).drainReq = s.drainReq := rfl
@[simp] theorem modCtx_cores (s : State) (n : Nat) (f : Ctx → Ctx) : (modCtx s n f).cores = s.cores := rfl
@[simp] theorem modCtx_clusters (s : State) (n : Nat) (f : Ctx → Ctx) : (modCtx s n f).clusters = s.clusters := rfl
@[simp] theorem modCtx_dies (s : State) (n : Nat) (f : Ctx → Ctx) : (modCtx s n f).dies = s.dies := rfl
@[simp] theorem modCtx_remap (s : State) (n : Nat) (f : Ctx → Ctx) : (modCtx s n f).remap = s.remap := rfl
@[simp] theorem modCtx_swaps (s : State) (n : Nat) (f : Ctx → Ctx) : (modCtx s n f).swaps = s.swaps := rfl
@[simp] theorem modCtx_odcor (s : State) (n : Nat) (f : Ctx → Ctx) : (modCtx s n f).odcor = s.odcor := rfl
@[simp] theorem modCtx_shoots (s : State) (n : Nat) (f : Ctx → Ctx) : (modCtx s n f).shoots = s.shoots := rfl
@[simp] theorem modCtx_cells (s : State) (n : Nat) (f : Ctx → Ctx) : (modCtx s n f).cells = s.cells := rfl
@[simp] theorem modCtx_wakes (s : State) (n : Nat) (f : Ctx → Ctx) : (modCtx s n f).wakes = s.wakes := rfl
@[simp] theorem modCtx_starts (s : State) (n : Nat) (f : Ctx → Ctx) : (modCtx s n f).starts = s.starts := rfl
@[simp] theorem modCtx_packets (s : State) (n : Nat) (f : Ctx → Ctx) : (modCtx s n f).packets = s.packets := rfl
@[simp] theorem modCtx_ams (s : State) (n : Nat) (f : Ctx → Ctx) : (modCtx s n f).ams = s.ams := rfl
@[simp] theorem modCtx_scans (s : State) (n : Nat) (f : Ctx → Ctx) : (modCtx s n f).scans = s.scans := rfl
@[simp] theorem modCtx_probes (s : State) (n : Nat) (f : Ctx → Ctx) : (modCtx s n f).probes = s.probes := rfl
@[simp] theorem modCtx_ints (s : State) (n : Nat) (f : Ctx → Ctx) : (modCtx s n f).ints = s.ints := rfl
@[simp] theorem modCtx_tiles (s : State) (n : Nat) (f : Ctx → Ctx) : (modCtx s n f).tiles = s.tiles := rfl
@[simp] theorem modCtx_purges (s : State) (n : Nat) (f : Ctx → Ctx) : (modCtx s n f).purges = s.purges := rfl
@[simp] theorem modCtx_sups (s : State) (n : Nat) (f : Ctx → Ctx) : (modCtx s n f).sups = s.sups := rfl
@[simp] theorem modCtx_ue (s : State) (n : Nat) (f : Ctx → Ctx) : (modCtx s n f).ue = s.ue := rfl
@[simp] theorem modCtx_cxl (s : State) (n : Nat) (f : Ctx → Ctx) : (modCtx s n f).cxl = s.cxl := rfl
@[simp] theorem modCtx_routes (s : State) (n : Nat) (f : Ctx → Ctx) : (modCtx s n f).routes = s.routes := rfl
@[simp] theorem modCtx_quiet (s : State) (n : Nat) (f : Ctx → Ctx) : (modCtx s n f).quiet = s.quiet := rfl
@[simp] theorem modCtx_stage (s : State) (n : Nat) (f : Ctx → Ctx) : (modCtx s n f).stage = s.stage := rfl
@[simp] theorem modCtx_stkrdy (s : State) (n : Nat) (f : Ctx → Ctx) : (modCtx s n f).stkrdy = s.stkrdy := rfl
@[simp] theorem modCtx_stkwiped (s : State) (n : Nat) (f : Ctx → Ctx) : (modCtx s n f).stkwiped = s.stkwiped := rfl
@[simp] theorem modCtx_dierdy (s : State) (n : Nat) (f : Ctx → Ctx) : (modCtx s n f).dierdy = s.dierdy := rfl
@[simp] theorem modCtx_cxlrdy (s : State) (n : Nat) (f : Ctx → Ctx) : (modCtx s n f).cxlrdy = s.cxlrdy := rfl
@[simp] theorem modCtx_gated (s : State) (n : Nat) (f : Ctx → Ctx) : (modCtx s n f).gated = s.gated := rfl
@[simp] theorem modCtx_lcs (s : State) (n : Nat) (f : Ctx → Ctx) : (modCtx s n f).lcs = s.lcs := rfl
@[simp] theorem modCtx_lcsShown (s : State) (n : Nat) (f : Ctx → Ctx) : (modCtx s n f).lcsShown = s.lcsShown := rfl
@[simp] theorem modCtx_owner (s : State) (n : Nat) (f : Ctx → Ctx) : (modCtx s n f).owner = s.owner := rfl
@[simp] theorem modCtx_ownerFuse (s : State) (n : Nat) (f : Ctx → Ctx) : (modCtx s n f).ownerFuse = s.ownerFuse := rfl
@[simp] theorem modCtx_idkey (s : State) (n : Nat) (f : Ctx → Ctx) : (modCtx s n f).idkey = s.idkey := rfl
@[simp] theorem modCtx_fwOk (s : State) (n : Nat) (f : Ctx → Ctx) : (modCtx s n f).fwOk = s.fwOk := rfl
@[simp] theorem modCtx_fwFail (s : State) (n : Nat) (f : Ctx → Ctx) : (modCtx s n f).fwFail = s.fwFail := rfl
@[simp] theorem modCtx_hosts (s : State) (n : Nat) (f : Ctx → Ctx) : (modCtx s n f).hosts = s.hosts := rfl
@[simp] theorem modCtx_asked (s : State) (n : Nat) (f : Ctx → Ctx) : (modCtx s n f).asked = s.asked := rfl
@[simp] theorem modCtx_budget (s : State) (n : Nat) (f : Ctx → Ctx) : (modCtx s n f).budget = s.budget := rfl
@[simp] theorem modCtx_watts (s : State) (n : Nat) (f : Ctx → Ctx) : (modCtx s n f).watts = s.watts := rfl
@[simp] theorem modCtx_stepped (s : State) (n : Nat) (f : Ctx → Ctx) : (modCtx s n f).stepped = s.stepped := rfl
@[simp] theorem modCtx_stkPoint (s : State) (n : Nat) (f : Ctx → Ctx) : (modCtx s n f).stkPoint = s.stkPoint := rfl
@[simp] theorem modCtx_measure (s : State) (n : Nat) (f : Ctx → Ctx) : (modCtx s n f).measure = s.measure := rfl
@[simp] theorem modCtx_mlog (s : State) (n : Nat) (f : Ctx → Ctx) : (modCtx s n f).mlog = s.mlog := rfl
@[simp] theorem modCtx_attest (s : State) (n : Nat) (f : Ctx → Ctx) : (modCtx s n f).attest = s.attest := rfl
@[simp] theorem modCtx_attests (s : State) (n : Nat) (f : Ctx → Ctx) : (modCtx s n f).attests = s.attests := rfl
@[simp] theorem modCtx_hostOut (s : State) (n : Nat) (f : Ctx → Ctx) : (modCtx s n f).hostOut = s.hostOut := rfl
@[simp] theorem modCtx_linkOut (s : State) (n : Nat) (f : Ctx → Ctx) : (modCtx s n f).linkOut = s.linkOut := rfl
@[simp] theorem modCtx_agenda (s : State) (n : Nat) (f : Ctx → Ctx) : (modCtx s n f).agenda = s.agenda := rfl
@[simp] theorem modCtx_focus (s : State) (n : Nat) (f : Ctx → Ctx) : (modCtx s n f).focus = s.focus := rfl
@[simp] theorem modCtx_iss (s : State) (n : Nat) (f : Ctx → Ctx) : (modCtx s n f).iss = s.iss := rfl
@[simp] theorem modCtx_fresh (s : State) (n : Nat) (f : Ctx → Ctx) : (modCtx s n f).fresh = s.fresh := rfl
@[simp] theorem modCtx_free (s : State) (n : Nat) (f : Ctx → Ctx) : (modCtx s n f).free = s.free := rfl

/-! ## modUe -/

@[simp] theorem modUe_number (s : State) (p : Nat) (f : UePort → UePort) : (modUe s p f).number = s.number := rfl
@[simp] theorem modUe_mem (s : State) (p : Nat) (f : UePort → UePort) : (modUe s p f).mem = s.mem := rfl
@[simp] theorem modUe_empties (s : State) (p : Nat) (f : UePort → UePort) : (modUe s p f).empties = s.empties := rfl
@[simp] theorem modUe_relrec (s : State) (p : Nat) (f : UePort → UePort) : (modUe s p f).relrec = s.relrec := rfl
@[simp] theorem modUe_feWait (s : State) (p : Nat) (f : UePort → UePort) : (modUe s p f).feWait = s.feWait := rfl
@[simp] theorem modUe_idents (s : State) (p : Nat) (f : UePort → UePort) : (modUe s p f).idents = s.idents := rfl
@[simp] theorem modUe_poison (s : State) (p : Nat) (f : UePort → UePort) : (modUe s p f).poison = s.poison := rfl
@[simp] theorem modUe_drainReq (s : State) (p : Nat) (f : UePort → UePort) : (modUe s p f).drainReq = s.drainReq := rfl
@[simp] theorem modUe_cores (s : State) (p : Nat) (f : UePort → UePort) : (modUe s p f).cores = s.cores := rfl
@[simp] theorem modUe_clusters (s : State) (p : Nat) (f : UePort → UePort) : (modUe s p f).clusters = s.clusters := rfl
@[simp] theorem modUe_dies (s : State) (p : Nat) (f : UePort → UePort) : (modUe s p f).dies = s.dies := rfl
@[simp] theorem modUe_remap (s : State) (p : Nat) (f : UePort → UePort) : (modUe s p f).remap = s.remap := rfl
@[simp] theorem modUe_swaps (s : State) (p : Nat) (f : UePort → UePort) : (modUe s p f).swaps = s.swaps := rfl
@[simp] theorem modUe_odcor (s : State) (p : Nat) (f : UePort → UePort) : (modUe s p f).odcor = s.odcor := rfl
@[simp] theorem modUe_shoots (s : State) (p : Nat) (f : UePort → UePort) : (modUe s p f).shoots = s.shoots := rfl
@[simp] theorem modUe_ctxs (s : State) (p : Nat) (f : UePort → UePort) : (modUe s p f).ctxs = s.ctxs := rfl
@[simp] theorem modUe_cells (s : State) (p : Nat) (f : UePort → UePort) : (modUe s p f).cells = s.cells := rfl
@[simp] theorem modUe_wakes (s : State) (p : Nat) (f : UePort → UePort) : (modUe s p f).wakes = s.wakes := rfl
@[simp] theorem modUe_starts (s : State) (p : Nat) (f : UePort → UePort) : (modUe s p f).starts = s.starts := rfl
@[simp] theorem modUe_packets (s : State) (p : Nat) (f : UePort → UePort) : (modUe s p f).packets = s.packets := rfl
@[simp] theorem modUe_ams (s : State) (p : Nat) (f : UePort → UePort) : (modUe s p f).ams = s.ams := rfl
@[simp] theorem modUe_scans (s : State) (p : Nat) (f : UePort → UePort) : (modUe s p f).scans = s.scans := rfl
@[simp] theorem modUe_probes (s : State) (p : Nat) (f : UePort → UePort) : (modUe s p f).probes = s.probes := rfl
@[simp] theorem modUe_ints (s : State) (p : Nat) (f : UePort → UePort) : (modUe s p f).ints = s.ints := rfl
@[simp] theorem modUe_tiles (s : State) (p : Nat) (f : UePort → UePort) : (modUe s p f).tiles = s.tiles := rfl
@[simp] theorem modUe_purges (s : State) (p : Nat) (f : UePort → UePort) : (modUe s p f).purges = s.purges := rfl
@[simp] theorem modUe_sups (s : State) (p : Nat) (f : UePort → UePort) : (modUe s p f).sups = s.sups := rfl
@[simp] theorem modUe_cxl (s : State) (p : Nat) (f : UePort → UePort) : (modUe s p f).cxl = s.cxl := rfl
@[simp] theorem modUe_routes (s : State) (p : Nat) (f : UePort → UePort) : (modUe s p f).routes = s.routes := rfl
@[simp] theorem modUe_quiet (s : State) (p : Nat) (f : UePort → UePort) : (modUe s p f).quiet = s.quiet := rfl
@[simp] theorem modUe_stage (s : State) (p : Nat) (f : UePort → UePort) : (modUe s p f).stage = s.stage := rfl
@[simp] theorem modUe_stkrdy (s : State) (p : Nat) (f : UePort → UePort) : (modUe s p f).stkrdy = s.stkrdy := rfl
@[simp] theorem modUe_stkwiped (s : State) (p : Nat) (f : UePort → UePort) : (modUe s p f).stkwiped = s.stkwiped := rfl
@[simp] theorem modUe_dierdy (s : State) (p : Nat) (f : UePort → UePort) : (modUe s p f).dierdy = s.dierdy := rfl
@[simp] theorem modUe_cxlrdy (s : State) (p : Nat) (f : UePort → UePort) : (modUe s p f).cxlrdy = s.cxlrdy := rfl
@[simp] theorem modUe_gated (s : State) (p : Nat) (f : UePort → UePort) : (modUe s p f).gated = s.gated := rfl
@[simp] theorem modUe_lcs (s : State) (p : Nat) (f : UePort → UePort) : (modUe s p f).lcs = s.lcs := rfl
@[simp] theorem modUe_lcsShown (s : State) (p : Nat) (f : UePort → UePort) : (modUe s p f).lcsShown = s.lcsShown := rfl
@[simp] theorem modUe_owner (s : State) (p : Nat) (f : UePort → UePort) : (modUe s p f).owner = s.owner := rfl
@[simp] theorem modUe_ownerFuse (s : State) (p : Nat) (f : UePort → UePort) : (modUe s p f).ownerFuse = s.ownerFuse := rfl
@[simp] theorem modUe_idkey (s : State) (p : Nat) (f : UePort → UePort) : (modUe s p f).idkey = s.idkey := rfl
@[simp] theorem modUe_fwOk (s : State) (p : Nat) (f : UePort → UePort) : (modUe s p f).fwOk = s.fwOk := rfl
@[simp] theorem modUe_fwFail (s : State) (p : Nat) (f : UePort → UePort) : (modUe s p f).fwFail = s.fwFail := rfl
@[simp] theorem modUe_hosts (s : State) (p : Nat) (f : UePort → UePort) : (modUe s p f).hosts = s.hosts := rfl
@[simp] theorem modUe_asked (s : State) (p : Nat) (f : UePort → UePort) : (modUe s p f).asked = s.asked := rfl
@[simp] theorem modUe_budget (s : State) (p : Nat) (f : UePort → UePort) : (modUe s p f).budget = s.budget := rfl
@[simp] theorem modUe_watts (s : State) (p : Nat) (f : UePort → UePort) : (modUe s p f).watts = s.watts := rfl
@[simp] theorem modUe_stepped (s : State) (p : Nat) (f : UePort → UePort) : (modUe s p f).stepped = s.stepped := rfl
@[simp] theorem modUe_stkPoint (s : State) (p : Nat) (f : UePort → UePort) : (modUe s p f).stkPoint = s.stkPoint := rfl
@[simp] theorem modUe_measure (s : State) (p : Nat) (f : UePort → UePort) : (modUe s p f).measure = s.measure := rfl
@[simp] theorem modUe_mlog (s : State) (p : Nat) (f : UePort → UePort) : (modUe s p f).mlog = s.mlog := rfl
@[simp] theorem modUe_attest (s : State) (p : Nat) (f : UePort → UePort) : (modUe s p f).attest = s.attest := rfl
@[simp] theorem modUe_attests (s : State) (p : Nat) (f : UePort → UePort) : (modUe s p f).attests = s.attests := rfl
@[simp] theorem modUe_hostOut (s : State) (p : Nat) (f : UePort → UePort) : (modUe s p f).hostOut = s.hostOut := rfl
@[simp] theorem modUe_linkOut (s : State) (p : Nat) (f : UePort → UePort) : (modUe s p f).linkOut = s.linkOut := rfl
@[simp] theorem modUe_agenda (s : State) (p : Nat) (f : UePort → UePort) : (modUe s p f).agenda = s.agenda := rfl
@[simp] theorem modUe_focus (s : State) (p : Nat) (f : UePort → UePort) : (modUe s p f).focus = s.focus := rfl
@[simp] theorem modUe_iss (s : State) (p : Nat) (f : UePort → UePort) : (modUe s p f).iss = s.iss := rfl
@[simp] theorem modUe_fresh (s : State) (p : Nat) (f : UePort → UePort) : (modUe s p f).fresh = s.fresh := rfl
@[simp] theorem modUe_free (s : State) (p : Nat) (f : UePort → UePort) : (modUe s p f).free = s.free := rfl

/-! ## modCxl -/

@[simp] theorem modCxl_number (s : State) (p : Nat) (f : CxlPort → CxlPort) : (modCxl s p f).number = s.number := rfl
@[simp] theorem modCxl_mem (s : State) (p : Nat) (f : CxlPort → CxlPort) : (modCxl s p f).mem = s.mem := rfl
@[simp] theorem modCxl_empties (s : State) (p : Nat) (f : CxlPort → CxlPort) : (modCxl s p f).empties = s.empties := rfl
@[simp] theorem modCxl_relrec (s : State) (p : Nat) (f : CxlPort → CxlPort) : (modCxl s p f).relrec = s.relrec := rfl
@[simp] theorem modCxl_feWait (s : State) (p : Nat) (f : CxlPort → CxlPort) : (modCxl s p f).feWait = s.feWait := rfl
@[simp] theorem modCxl_idents (s : State) (p : Nat) (f : CxlPort → CxlPort) : (modCxl s p f).idents = s.idents := rfl
@[simp] theorem modCxl_poison (s : State) (p : Nat) (f : CxlPort → CxlPort) : (modCxl s p f).poison = s.poison := rfl
@[simp] theorem modCxl_drainReq (s : State) (p : Nat) (f : CxlPort → CxlPort) : (modCxl s p f).drainReq = s.drainReq := rfl
@[simp] theorem modCxl_cores (s : State) (p : Nat) (f : CxlPort → CxlPort) : (modCxl s p f).cores = s.cores := rfl
@[simp] theorem modCxl_clusters (s : State) (p : Nat) (f : CxlPort → CxlPort) : (modCxl s p f).clusters = s.clusters := rfl
@[simp] theorem modCxl_dies (s : State) (p : Nat) (f : CxlPort → CxlPort) : (modCxl s p f).dies = s.dies := rfl
@[simp] theorem modCxl_remap (s : State) (p : Nat) (f : CxlPort → CxlPort) : (modCxl s p f).remap = s.remap := rfl
@[simp] theorem modCxl_swaps (s : State) (p : Nat) (f : CxlPort → CxlPort) : (modCxl s p f).swaps = s.swaps := rfl
@[simp] theorem modCxl_odcor (s : State) (p : Nat) (f : CxlPort → CxlPort) : (modCxl s p f).odcor = s.odcor := rfl
@[simp] theorem modCxl_shoots (s : State) (p : Nat) (f : CxlPort → CxlPort) : (modCxl s p f).shoots = s.shoots := rfl
@[simp] theorem modCxl_ctxs (s : State) (p : Nat) (f : CxlPort → CxlPort) : (modCxl s p f).ctxs = s.ctxs := rfl
@[simp] theorem modCxl_cells (s : State) (p : Nat) (f : CxlPort → CxlPort) : (modCxl s p f).cells = s.cells := rfl
@[simp] theorem modCxl_wakes (s : State) (p : Nat) (f : CxlPort → CxlPort) : (modCxl s p f).wakes = s.wakes := rfl
@[simp] theorem modCxl_starts (s : State) (p : Nat) (f : CxlPort → CxlPort) : (modCxl s p f).starts = s.starts := rfl
@[simp] theorem modCxl_packets (s : State) (p : Nat) (f : CxlPort → CxlPort) : (modCxl s p f).packets = s.packets := rfl
@[simp] theorem modCxl_ams (s : State) (p : Nat) (f : CxlPort → CxlPort) : (modCxl s p f).ams = s.ams := rfl
@[simp] theorem modCxl_scans (s : State) (p : Nat) (f : CxlPort → CxlPort) : (modCxl s p f).scans = s.scans := rfl
@[simp] theorem modCxl_probes (s : State) (p : Nat) (f : CxlPort → CxlPort) : (modCxl s p f).probes = s.probes := rfl
@[simp] theorem modCxl_ints (s : State) (p : Nat) (f : CxlPort → CxlPort) : (modCxl s p f).ints = s.ints := rfl
@[simp] theorem modCxl_tiles (s : State) (p : Nat) (f : CxlPort → CxlPort) : (modCxl s p f).tiles = s.tiles := rfl
@[simp] theorem modCxl_purges (s : State) (p : Nat) (f : CxlPort → CxlPort) : (modCxl s p f).purges = s.purges := rfl
@[simp] theorem modCxl_sups (s : State) (p : Nat) (f : CxlPort → CxlPort) : (modCxl s p f).sups = s.sups := rfl
@[simp] theorem modCxl_ue (s : State) (p : Nat) (f : CxlPort → CxlPort) : (modCxl s p f).ue = s.ue := rfl
@[simp] theorem modCxl_routes (s : State) (p : Nat) (f : CxlPort → CxlPort) : (modCxl s p f).routes = s.routes := rfl
@[simp] theorem modCxl_quiet (s : State) (p : Nat) (f : CxlPort → CxlPort) : (modCxl s p f).quiet = s.quiet := rfl
@[simp] theorem modCxl_stage (s : State) (p : Nat) (f : CxlPort → CxlPort) : (modCxl s p f).stage = s.stage := rfl
@[simp] theorem modCxl_stkrdy (s : State) (p : Nat) (f : CxlPort → CxlPort) : (modCxl s p f).stkrdy = s.stkrdy := rfl
@[simp] theorem modCxl_stkwiped (s : State) (p : Nat) (f : CxlPort → CxlPort) : (modCxl s p f).stkwiped = s.stkwiped := rfl
@[simp] theorem modCxl_dierdy (s : State) (p : Nat) (f : CxlPort → CxlPort) : (modCxl s p f).dierdy = s.dierdy := rfl
@[simp] theorem modCxl_cxlrdy (s : State) (p : Nat) (f : CxlPort → CxlPort) : (modCxl s p f).cxlrdy = s.cxlrdy := rfl
@[simp] theorem modCxl_gated (s : State) (p : Nat) (f : CxlPort → CxlPort) : (modCxl s p f).gated = s.gated := rfl
@[simp] theorem modCxl_lcs (s : State) (p : Nat) (f : CxlPort → CxlPort) : (modCxl s p f).lcs = s.lcs := rfl
@[simp] theorem modCxl_lcsShown (s : State) (p : Nat) (f : CxlPort → CxlPort) : (modCxl s p f).lcsShown = s.lcsShown := rfl
@[simp] theorem modCxl_owner (s : State) (p : Nat) (f : CxlPort → CxlPort) : (modCxl s p f).owner = s.owner := rfl
@[simp] theorem modCxl_ownerFuse (s : State) (p : Nat) (f : CxlPort → CxlPort) : (modCxl s p f).ownerFuse = s.ownerFuse := rfl
@[simp] theorem modCxl_idkey (s : State) (p : Nat) (f : CxlPort → CxlPort) : (modCxl s p f).idkey = s.idkey := rfl
@[simp] theorem modCxl_fwOk (s : State) (p : Nat) (f : CxlPort → CxlPort) : (modCxl s p f).fwOk = s.fwOk := rfl
@[simp] theorem modCxl_fwFail (s : State) (p : Nat) (f : CxlPort → CxlPort) : (modCxl s p f).fwFail = s.fwFail := rfl
@[simp] theorem modCxl_hosts (s : State) (p : Nat) (f : CxlPort → CxlPort) : (modCxl s p f).hosts = s.hosts := rfl
@[simp] theorem modCxl_asked (s : State) (p : Nat) (f : CxlPort → CxlPort) : (modCxl s p f).asked = s.asked := rfl
@[simp] theorem modCxl_budget (s : State) (p : Nat) (f : CxlPort → CxlPort) : (modCxl s p f).budget = s.budget := rfl
@[simp] theorem modCxl_watts (s : State) (p : Nat) (f : CxlPort → CxlPort) : (modCxl s p f).watts = s.watts := rfl
@[simp] theorem modCxl_stepped (s : State) (p : Nat) (f : CxlPort → CxlPort) : (modCxl s p f).stepped = s.stepped := rfl
@[simp] theorem modCxl_stkPoint (s : State) (p : Nat) (f : CxlPort → CxlPort) : (modCxl s p f).stkPoint = s.stkPoint := rfl
@[simp] theorem modCxl_measure (s : State) (p : Nat) (f : CxlPort → CxlPort) : (modCxl s p f).measure = s.measure := rfl
@[simp] theorem modCxl_mlog (s : State) (p : Nat) (f : CxlPort → CxlPort) : (modCxl s p f).mlog = s.mlog := rfl
@[simp] theorem modCxl_attest (s : State) (p : Nat) (f : CxlPort → CxlPort) : (modCxl s p f).attest = s.attest := rfl
@[simp] theorem modCxl_attests (s : State) (p : Nat) (f : CxlPort → CxlPort) : (modCxl s p f).attests = s.attests := rfl
@[simp] theorem modCxl_hostOut (s : State) (p : Nat) (f : CxlPort → CxlPort) : (modCxl s p f).hostOut = s.hostOut := rfl
@[simp] theorem modCxl_linkOut (s : State) (p : Nat) (f : CxlPort → CxlPort) : (modCxl s p f).linkOut = s.linkOut := rfl
@[simp] theorem modCxl_agenda (s : State) (p : Nat) (f : CxlPort → CxlPort) : (modCxl s p f).agenda = s.agenda := rfl
@[simp] theorem modCxl_focus (s : State) (p : Nat) (f : CxlPort → CxlPort) : (modCxl s p f).focus = s.focus := rfl
@[simp] theorem modCxl_iss (s : State) (p : Nat) (f : CxlPort → CxlPort) : (modCxl s p f).iss = s.iss := rfl
@[simp] theorem modCxl_fresh (s : State) (p : Nat) (f : CxlPort → CxlPort) : (modCxl s p f).fresh = s.fresh := rfl
@[simp] theorem modCxl_free (s : State) (p : Nat) (f : CxlPort → CxlPort) : (modCxl s p f).free = s.free := rfl

/-! ## writeByte -/

@[simp] theorem writeByte_number (s : State) (l : Nat) (b : BitVec 8) : (writeByte s l b).number = s.number := rfl
@[simp] theorem writeByte_empties (s : State) (l : Nat) (b : BitVec 8) : (writeByte s l b).empties = s.empties := rfl
@[simp] theorem writeByte_relrec (s : State) (l : Nat) (b : BitVec 8) : (writeByte s l b).relrec = s.relrec := rfl
@[simp] theorem writeByte_feWait (s : State) (l : Nat) (b : BitVec 8) : (writeByte s l b).feWait = s.feWait := rfl
@[simp] theorem writeByte_idents (s : State) (l : Nat) (b : BitVec 8) : (writeByte s l b).idents = s.idents := rfl
@[simp] theorem writeByte_poison (s : State) (l : Nat) (b : BitVec 8) : (writeByte s l b).poison = s.poison := rfl
@[simp] theorem writeByte_drainReq (s : State) (l : Nat) (b : BitVec 8) : (writeByte s l b).drainReq = s.drainReq := rfl
@[simp] theorem writeByte_cores (s : State) (l : Nat) (b : BitVec 8) : (writeByte s l b).cores = s.cores := rfl
@[simp] theorem writeByte_clusters (s : State) (l : Nat) (b : BitVec 8) : (writeByte s l b).clusters = s.clusters := rfl
@[simp] theorem writeByte_dies (s : State) (l : Nat) (b : BitVec 8) : (writeByte s l b).dies = s.dies := rfl
@[simp] theorem writeByte_remap (s : State) (l : Nat) (b : BitVec 8) : (writeByte s l b).remap = s.remap := rfl
@[simp] theorem writeByte_swaps (s : State) (l : Nat) (b : BitVec 8) : (writeByte s l b).swaps = s.swaps := rfl
@[simp] theorem writeByte_odcor (s : State) (l : Nat) (b : BitVec 8) : (writeByte s l b).odcor = s.odcor := rfl
@[simp] theorem writeByte_shoots (s : State) (l : Nat) (b : BitVec 8) : (writeByte s l b).shoots = s.shoots := rfl
@[simp] theorem writeByte_ctxs (s : State) (l : Nat) (b : BitVec 8) : (writeByte s l b).ctxs = s.ctxs := rfl
@[simp] theorem writeByte_cells (s : State) (l : Nat) (b : BitVec 8) : (writeByte s l b).cells = s.cells := rfl
@[simp] theorem writeByte_wakes (s : State) (l : Nat) (b : BitVec 8) : (writeByte s l b).wakes = s.wakes := rfl
@[simp] theorem writeByte_starts (s : State) (l : Nat) (b : BitVec 8) : (writeByte s l b).starts = s.starts := rfl
@[simp] theorem writeByte_packets (s : State) (l : Nat) (b : BitVec 8) : (writeByte s l b).packets = s.packets := rfl
@[simp] theorem writeByte_ams (s : State) (l : Nat) (b : BitVec 8) : (writeByte s l b).ams = s.ams := rfl
@[simp] theorem writeByte_scans (s : State) (l : Nat) (b : BitVec 8) : (writeByte s l b).scans = s.scans := rfl
@[simp] theorem writeByte_probes (s : State) (l : Nat) (b : BitVec 8) : (writeByte s l b).probes = s.probes := rfl
@[simp] theorem writeByte_ints (s : State) (l : Nat) (b : BitVec 8) : (writeByte s l b).ints = s.ints := rfl
@[simp] theorem writeByte_tiles (s : State) (l : Nat) (b : BitVec 8) : (writeByte s l b).tiles = s.tiles := rfl
@[simp] theorem writeByte_purges (s : State) (l : Nat) (b : BitVec 8) : (writeByte s l b).purges = s.purges := rfl
@[simp] theorem writeByte_sups (s : State) (l : Nat) (b : BitVec 8) : (writeByte s l b).sups = s.sups := rfl
@[simp] theorem writeByte_ue (s : State) (l : Nat) (b : BitVec 8) : (writeByte s l b).ue = s.ue := rfl
@[simp] theorem writeByte_cxl (s : State) (l : Nat) (b : BitVec 8) : (writeByte s l b).cxl = s.cxl := rfl
@[simp] theorem writeByte_routes (s : State) (l : Nat) (b : BitVec 8) : (writeByte s l b).routes = s.routes := rfl
@[simp] theorem writeByte_quiet (s : State) (l : Nat) (b : BitVec 8) : (writeByte s l b).quiet = s.quiet := rfl
@[simp] theorem writeByte_stage (s : State) (l : Nat) (b : BitVec 8) : (writeByte s l b).stage = s.stage := rfl
@[simp] theorem writeByte_stkrdy (s : State) (l : Nat) (b : BitVec 8) : (writeByte s l b).stkrdy = s.stkrdy := rfl
@[simp] theorem writeByte_stkwiped (s : State) (l : Nat) (b : BitVec 8) : (writeByte s l b).stkwiped = s.stkwiped := rfl
@[simp] theorem writeByte_dierdy (s : State) (l : Nat) (b : BitVec 8) : (writeByte s l b).dierdy = s.dierdy := rfl
@[simp] theorem writeByte_cxlrdy (s : State) (l : Nat) (b : BitVec 8) : (writeByte s l b).cxlrdy = s.cxlrdy := rfl
@[simp] theorem writeByte_gated (s : State) (l : Nat) (b : BitVec 8) : (writeByte s l b).gated = s.gated := rfl
@[simp] theorem writeByte_lcs (s : State) (l : Nat) (b : BitVec 8) : (writeByte s l b).lcs = s.lcs := rfl
@[simp] theorem writeByte_lcsShown (s : State) (l : Nat) (b : BitVec 8) : (writeByte s l b).lcsShown = s.lcsShown := rfl
@[simp] theorem writeByte_owner (s : State) (l : Nat) (b : BitVec 8) : (writeByte s l b).owner = s.owner := rfl
@[simp] theorem writeByte_ownerFuse (s : State) (l : Nat) (b : BitVec 8) : (writeByte s l b).ownerFuse = s.ownerFuse := rfl
@[simp] theorem writeByte_idkey (s : State) (l : Nat) (b : BitVec 8) : (writeByte s l b).idkey = s.idkey := rfl
@[simp] theorem writeByte_fwOk (s : State) (l : Nat) (b : BitVec 8) : (writeByte s l b).fwOk = s.fwOk := rfl
@[simp] theorem writeByte_fwFail (s : State) (l : Nat) (b : BitVec 8) : (writeByte s l b).fwFail = s.fwFail := rfl
@[simp] theorem writeByte_hosts (s : State) (l : Nat) (b : BitVec 8) : (writeByte s l b).hosts = s.hosts := rfl
@[simp] theorem writeByte_asked (s : State) (l : Nat) (b : BitVec 8) : (writeByte s l b).asked = s.asked := rfl
@[simp] theorem writeByte_budget (s : State) (l : Nat) (b : BitVec 8) : (writeByte s l b).budget = s.budget := rfl
@[simp] theorem writeByte_watts (s : State) (l : Nat) (b : BitVec 8) : (writeByte s l b).watts = s.watts := rfl
@[simp] theorem writeByte_stepped (s : State) (l : Nat) (b : BitVec 8) : (writeByte s l b).stepped = s.stepped := rfl
@[simp] theorem writeByte_stkPoint (s : State) (l : Nat) (b : BitVec 8) : (writeByte s l b).stkPoint = s.stkPoint := rfl
@[simp] theorem writeByte_measure (s : State) (l : Nat) (b : BitVec 8) : (writeByte s l b).measure = s.measure := rfl
@[simp] theorem writeByte_mlog (s : State) (l : Nat) (b : BitVec 8) : (writeByte s l b).mlog = s.mlog := rfl
@[simp] theorem writeByte_attest (s : State) (l : Nat) (b : BitVec 8) : (writeByte s l b).attest = s.attest := rfl
@[simp] theorem writeByte_attests (s : State) (l : Nat) (b : BitVec 8) : (writeByte s l b).attests = s.attests := rfl
@[simp] theorem writeByte_hostOut (s : State) (l : Nat) (b : BitVec 8) : (writeByte s l b).hostOut = s.hostOut := rfl
@[simp] theorem writeByte_linkOut (s : State) (l : Nat) (b : BitVec 8) : (writeByte s l b).linkOut = s.linkOut := rfl
@[simp] theorem writeByte_agenda (s : State) (l : Nat) (b : BitVec 8) : (writeByte s l b).agenda = s.agenda := rfl
@[simp] theorem writeByte_focus (s : State) (l : Nat) (b : BitVec 8) : (writeByte s l b).focus = s.focus := rfl
@[simp] theorem writeByte_iss (s : State) (l : Nat) (b : BitVec 8) : (writeByte s l b).iss = s.iss := rfl
@[simp] theorem writeByte_fresh (s : State) (l : Nat) (b : BitVec 8) : (writeByte s l b).fresh = s.fresh := rfl
@[simp] theorem writeByte_free (s : State) (l : Nat) (b : BitVec 8) : (writeByte s l b).free = s.free := rfl

/-! ## setFull -/

@[simp] theorem setFull_number (s : State) (w : Nat) : (setFull s w).number = s.number := rfl
@[simp] theorem setFull_mem (s : State) (w : Nat) : (setFull s w).mem = s.mem := rfl
@[simp] theorem setFull_relrec (s : State) (w : Nat) : (setFull s w).relrec = s.relrec := rfl
@[simp] theorem setFull_feWait (s : State) (w : Nat) : (setFull s w).feWait = s.feWait := rfl
@[simp] theorem setFull_idents (s : State) (w : Nat) : (setFull s w).idents = s.idents := rfl
@[simp] theorem setFull_poison (s : State) (w : Nat) : (setFull s w).poison = s.poison := rfl
@[simp] theorem setFull_drainReq (s : State) (w : Nat) : (setFull s w).drainReq = s.drainReq := rfl
@[simp] theorem setFull_cores (s : State) (w : Nat) : (setFull s w).cores = s.cores := rfl
@[simp] theorem setFull_clusters (s : State) (w : Nat) : (setFull s w).clusters = s.clusters := rfl
@[simp] theorem setFull_dies (s : State) (w : Nat) : (setFull s w).dies = s.dies := rfl
@[simp] theorem setFull_remap (s : State) (w : Nat) : (setFull s w).remap = s.remap := rfl
@[simp] theorem setFull_swaps (s : State) (w : Nat) : (setFull s w).swaps = s.swaps := rfl
@[simp] theorem setFull_odcor (s : State) (w : Nat) : (setFull s w).odcor = s.odcor := rfl
@[simp] theorem setFull_shoots (s : State) (w : Nat) : (setFull s w).shoots = s.shoots := rfl
@[simp] theorem setFull_ctxs (s : State) (w : Nat) : (setFull s w).ctxs = s.ctxs := rfl
@[simp] theorem setFull_cells (s : State) (w : Nat) : (setFull s w).cells = s.cells := rfl
@[simp] theorem setFull_wakes (s : State) (w : Nat) : (setFull s w).wakes = s.wakes := rfl
@[simp] theorem setFull_starts (s : State) (w : Nat) : (setFull s w).starts = s.starts := rfl
@[simp] theorem setFull_packets (s : State) (w : Nat) : (setFull s w).packets = s.packets := rfl
@[simp] theorem setFull_ams (s : State) (w : Nat) : (setFull s w).ams = s.ams := rfl
@[simp] theorem setFull_scans (s : State) (w : Nat) : (setFull s w).scans = s.scans := rfl
@[simp] theorem setFull_probes (s : State) (w : Nat) : (setFull s w).probes = s.probes := rfl
@[simp] theorem setFull_ints (s : State) (w : Nat) : (setFull s w).ints = s.ints := rfl
@[simp] theorem setFull_tiles (s : State) (w : Nat) : (setFull s w).tiles = s.tiles := rfl
@[simp] theorem setFull_purges (s : State) (w : Nat) : (setFull s w).purges = s.purges := rfl
@[simp] theorem setFull_sups (s : State) (w : Nat) : (setFull s w).sups = s.sups := rfl
@[simp] theorem setFull_ue (s : State) (w : Nat) : (setFull s w).ue = s.ue := rfl
@[simp] theorem setFull_cxl (s : State) (w : Nat) : (setFull s w).cxl = s.cxl := rfl
@[simp] theorem setFull_routes (s : State) (w : Nat) : (setFull s w).routes = s.routes := rfl
@[simp] theorem setFull_quiet (s : State) (w : Nat) : (setFull s w).quiet = s.quiet := rfl
@[simp] theorem setFull_stage (s : State) (w : Nat) : (setFull s w).stage = s.stage := rfl
@[simp] theorem setFull_stkrdy (s : State) (w : Nat) : (setFull s w).stkrdy = s.stkrdy := rfl
@[simp] theorem setFull_stkwiped (s : State) (w : Nat) : (setFull s w).stkwiped = s.stkwiped := rfl
@[simp] theorem setFull_dierdy (s : State) (w : Nat) : (setFull s w).dierdy = s.dierdy := rfl
@[simp] theorem setFull_cxlrdy (s : State) (w : Nat) : (setFull s w).cxlrdy = s.cxlrdy := rfl
@[simp] theorem setFull_gated (s : State) (w : Nat) : (setFull s w).gated = s.gated := rfl
@[simp] theorem setFull_lcs (s : State) (w : Nat) : (setFull s w).lcs = s.lcs := rfl
@[simp] theorem setFull_lcsShown (s : State) (w : Nat) : (setFull s w).lcsShown = s.lcsShown := rfl
@[simp] theorem setFull_owner (s : State) (w : Nat) : (setFull s w).owner = s.owner := rfl
@[simp] theorem setFull_ownerFuse (s : State) (w : Nat) : (setFull s w).ownerFuse = s.ownerFuse := rfl
@[simp] theorem setFull_idkey (s : State) (w : Nat) : (setFull s w).idkey = s.idkey := rfl
@[simp] theorem setFull_fwOk (s : State) (w : Nat) : (setFull s w).fwOk = s.fwOk := rfl
@[simp] theorem setFull_fwFail (s : State) (w : Nat) : (setFull s w).fwFail = s.fwFail := rfl
@[simp] theorem setFull_hosts (s : State) (w : Nat) : (setFull s w).hosts = s.hosts := rfl
@[simp] theorem setFull_asked (s : State) (w : Nat) : (setFull s w).asked = s.asked := rfl
@[simp] theorem setFull_budget (s : State) (w : Nat) : (setFull s w).budget = s.budget := rfl
@[simp] theorem setFull_watts (s : State) (w : Nat) : (setFull s w).watts = s.watts := rfl
@[simp] theorem setFull_stepped (s : State) (w : Nat) : (setFull s w).stepped = s.stepped := rfl
@[simp] theorem setFull_stkPoint (s : State) (w : Nat) : (setFull s w).stkPoint = s.stkPoint := rfl
@[simp] theorem setFull_measure (s : State) (w : Nat) : (setFull s w).measure = s.measure := rfl
@[simp] theorem setFull_mlog (s : State) (w : Nat) : (setFull s w).mlog = s.mlog := rfl
@[simp] theorem setFull_attest (s : State) (w : Nat) : (setFull s w).attest = s.attest := rfl
@[simp] theorem setFull_attests (s : State) (w : Nat) : (setFull s w).attests = s.attests := rfl
@[simp] theorem setFull_hostOut (s : State) (w : Nat) : (setFull s w).hostOut = s.hostOut := rfl
@[simp] theorem setFull_linkOut (s : State) (w : Nat) : (setFull s w).linkOut = s.linkOut := rfl
@[simp] theorem setFull_agenda (s : State) (w : Nat) : (setFull s w).agenda = s.agenda := rfl
@[simp] theorem setFull_focus (s : State) (w : Nat) : (setFull s w).focus = s.focus := rfl
@[simp] theorem setFull_iss (s : State) (w : Nat) : (setFull s w).iss = s.iss := rfl
@[simp] theorem setFull_fresh (s : State) (w : Nat) : (setFull s w).fresh = s.fresh := rfl
@[simp] theorem setFull_free (s : State) (w : Nat) : (setFull s w).free = s.free := rfl

/-! ## addFlags -/

@[simp] theorem addFlags_number (s : State) (f : BitVec 5) : (addFlags s f).number = s.number := rfl
@[simp] theorem addFlags_mem (s : State) (f : BitVec 5) : (addFlags s f).mem = s.mem := rfl
@[simp] theorem addFlags_empties (s : State) (f : BitVec 5) : (addFlags s f).empties = s.empties := rfl
@[simp] theorem addFlags_relrec (s : State) (f : BitVec 5) : (addFlags s f).relrec = s.relrec := rfl
@[simp] theorem addFlags_feWait (s : State) (f : BitVec 5) : (addFlags s f).feWait = s.feWait := rfl
@[simp] theorem addFlags_idents (s : State) (f : BitVec 5) : (addFlags s f).idents = s.idents := rfl
@[simp] theorem addFlags_poison (s : State) (f : BitVec 5) : (addFlags s f).poison = s.poison := rfl
@[simp] theorem addFlags_drainReq (s : State) (f : BitVec 5) : (addFlags s f).drainReq = s.drainReq := rfl
@[simp] theorem addFlags_cores (s : State) (f : BitVec 5) : (addFlags s f).cores = s.cores := rfl
@[simp] theorem addFlags_clusters (s : State) (f : BitVec 5) : (addFlags s f).clusters = s.clusters := rfl
@[simp] theorem addFlags_dies (s : State) (f : BitVec 5) : (addFlags s f).dies = s.dies := rfl
@[simp] theorem addFlags_remap (s : State) (f : BitVec 5) : (addFlags s f).remap = s.remap := rfl
@[simp] theorem addFlags_swaps (s : State) (f : BitVec 5) : (addFlags s f).swaps = s.swaps := rfl
@[simp] theorem addFlags_odcor (s : State) (f : BitVec 5) : (addFlags s f).odcor = s.odcor := rfl
@[simp] theorem addFlags_shoots (s : State) (f : BitVec 5) : (addFlags s f).shoots = s.shoots := rfl
@[simp] theorem addFlags_ctxs (s : State) (f : BitVec 5) : (addFlags s f).ctxs = s.ctxs := rfl
@[simp] theorem addFlags_cells (s : State) (f : BitVec 5) : (addFlags s f).cells = s.cells := rfl
@[simp] theorem addFlags_wakes (s : State) (f : BitVec 5) : (addFlags s f).wakes = s.wakes := rfl
@[simp] theorem addFlags_starts (s : State) (f : BitVec 5) : (addFlags s f).starts = s.starts := rfl
@[simp] theorem addFlags_packets (s : State) (f : BitVec 5) : (addFlags s f).packets = s.packets := rfl
@[simp] theorem addFlags_ams (s : State) (f : BitVec 5) : (addFlags s f).ams = s.ams := rfl
@[simp] theorem addFlags_scans (s : State) (f : BitVec 5) : (addFlags s f).scans = s.scans := rfl
@[simp] theorem addFlags_probes (s : State) (f : BitVec 5) : (addFlags s f).probes = s.probes := rfl
@[simp] theorem addFlags_ints (s : State) (f : BitVec 5) : (addFlags s f).ints = s.ints := rfl
@[simp] theorem addFlags_tiles (s : State) (f : BitVec 5) : (addFlags s f).tiles = s.tiles := rfl
@[simp] theorem addFlags_purges (s : State) (f : BitVec 5) : (addFlags s f).purges = s.purges := rfl
@[simp] theorem addFlags_sups (s : State) (f : BitVec 5) : (addFlags s f).sups = s.sups := rfl
@[simp] theorem addFlags_ue (s : State) (f : BitVec 5) : (addFlags s f).ue = s.ue := rfl
@[simp] theorem addFlags_cxl (s : State) (f : BitVec 5) : (addFlags s f).cxl = s.cxl := rfl
@[simp] theorem addFlags_routes (s : State) (f : BitVec 5) : (addFlags s f).routes = s.routes := rfl
@[simp] theorem addFlags_quiet (s : State) (f : BitVec 5) : (addFlags s f).quiet = s.quiet := rfl
@[simp] theorem addFlags_stage (s : State) (f : BitVec 5) : (addFlags s f).stage = s.stage := rfl
@[simp] theorem addFlags_stkrdy (s : State) (f : BitVec 5) : (addFlags s f).stkrdy = s.stkrdy := rfl
@[simp] theorem addFlags_stkwiped (s : State) (f : BitVec 5) : (addFlags s f).stkwiped = s.stkwiped := rfl
@[simp] theorem addFlags_dierdy (s : State) (f : BitVec 5) : (addFlags s f).dierdy = s.dierdy := rfl
@[simp] theorem addFlags_cxlrdy (s : State) (f : BitVec 5) : (addFlags s f).cxlrdy = s.cxlrdy := rfl
@[simp] theorem addFlags_gated (s : State) (f : BitVec 5) : (addFlags s f).gated = s.gated := rfl
@[simp] theorem addFlags_lcs (s : State) (f : BitVec 5) : (addFlags s f).lcs = s.lcs := rfl
@[simp] theorem addFlags_lcsShown (s : State) (f : BitVec 5) : (addFlags s f).lcsShown = s.lcsShown := rfl
@[simp] theorem addFlags_owner (s : State) (f : BitVec 5) : (addFlags s f).owner = s.owner := rfl
@[simp] theorem addFlags_ownerFuse (s : State) (f : BitVec 5) : (addFlags s f).ownerFuse = s.ownerFuse := rfl
@[simp] theorem addFlags_idkey (s : State) (f : BitVec 5) : (addFlags s f).idkey = s.idkey := rfl
@[simp] theorem addFlags_fwOk (s : State) (f : BitVec 5) : (addFlags s f).fwOk = s.fwOk := rfl
@[simp] theorem addFlags_fwFail (s : State) (f : BitVec 5) : (addFlags s f).fwFail = s.fwFail := rfl
@[simp] theorem addFlags_hosts (s : State) (f : BitVec 5) : (addFlags s f).hosts = s.hosts := rfl
@[simp] theorem addFlags_asked (s : State) (f : BitVec 5) : (addFlags s f).asked = s.asked := rfl
@[simp] theorem addFlags_budget (s : State) (f : BitVec 5) : (addFlags s f).budget = s.budget := rfl
@[simp] theorem addFlags_watts (s : State) (f : BitVec 5) : (addFlags s f).watts = s.watts := rfl
@[simp] theorem addFlags_stepped (s : State) (f : BitVec 5) : (addFlags s f).stepped = s.stepped := rfl
@[simp] theorem addFlags_stkPoint (s : State) (f : BitVec 5) : (addFlags s f).stkPoint = s.stkPoint := rfl
@[simp] theorem addFlags_measure (s : State) (f : BitVec 5) : (addFlags s f).measure = s.measure := rfl
@[simp] theorem addFlags_mlog (s : State) (f : BitVec 5) : (addFlags s f).mlog = s.mlog := rfl
@[simp] theorem addFlags_attest (s : State) (f : BitVec 5) : (addFlags s f).attest = s.attest := rfl
@[simp] theorem addFlags_attests (s : State) (f : BitVec 5) : (addFlags s f).attests = s.attests := rfl
@[simp] theorem addFlags_hostOut (s : State) (f : BitVec 5) : (addFlags s f).hostOut = s.hostOut := rfl
@[simp] theorem addFlags_linkOut (s : State) (f : BitVec 5) : (addFlags s f).linkOut = s.linkOut := rfl
@[simp] theorem addFlags_agenda (s : State) (f : BitVec 5) : (addFlags s f).agenda = s.agenda := rfl
@[simp] theorem addFlags_focus (s : State) (f : BitVec 5) : (addFlags s f).focus = s.focus := rfl
@[simp] theorem addFlags_fresh (s : State) (f : BitVec 5) : (addFlags s f).fresh = s.fresh := rfl
@[simp] theorem addFlags_free (s : State) (f : BitVec 5) : (addFlags s f).free = s.free := rfl

end Sys2Proof.Machine
end

