-- ==== Sys2Proof/Laws/Lanes.lean ====
section
/-!
SUPPORT. Lanes: what a lane of a vector packed from lanes is, and what a write under a mask gives (R132 to R136).
-/

namespace Sys2Proof.Machine

theorem packLanes_lt (w : Nat) (l : List Nat) : packLanes w l < 2 ^ (w * l.length) := by
  induction l with
  | nil => simp [packLanes]
  | cons x r ih =>
    have h1 : x % 2 ^ w < 2 ^ w := Nat.mod_lt _ (Nat.two_pow_pos w)
    have h2 : 2 ^ w * (packLanes w r + 1) ≤ 2 ^ w * 2 ^ (w * r.length) := Nat.mul_le_mul_left _ ih
    rw [packLanes, List.length_cons, Nat.mul_succ, Nat.add_comm (w * r.length), Nat.pow_add]
    rw [Nat.mul_succ] at h2
    omega

/-- A lane of a vector packed from lanes. -/
theorem packLanes_lane (w : Nat) (l : List Nat) (k : Nat) (h : k < l.length) :
    packLanes w l / 2 ^ (w * k) % 2 ^ w = l[k] % 2 ^ w := by
  induction l generalizing k with
  | nil => simp at h
  | cons x r ih =>
    have hx : x % 2 ^ w < 2 ^ w := Nat.mod_lt _ (Nat.two_pow_pos w)
    cases k with
    | zero => simp [packLanes, Nat.add_mul_mod_self_left]
    | succ k =>
      have hk : k < r.length := by simpa using h
      rw [packLanes, Nat.mul_succ, Nat.add_comm (w * k), Nat.pow_add, ← Nat.div_div_eq_div_mul,
        Nat.add_mul_div_left _ _ (Nat.two_pow_pos w), Nat.div_eq_of_lt hx, Nat.zero_add, ih k hk]
      rfl

theorem lane_lt (v : W256) (w k : Nat) : lane v w k < 2 ^ w := Nat.mod_lt _ (Nat.two_pow_pos w)

/-- A write under a mask: active lanes take the new value, the others keep the old one (R134). -/
theorem lane_mergeLanes (old : W256) (w n : Nat) (m : BitVec 32) (f : Nat → Nat) (k : Nat) (hn : w * n ≤ 256) (hk : k < n)
    (hf : on m k = true → f k < 2 ^ w) : lane (mergeLanes old w n m f) w k = if on m k then f k else lane old w k := by
  have hl : ((List.range n).map (fun i => if on m i then f i else lane old w i)).length = n := by simp
  have hlt : packLanes w ((List.range n).map (fun i => if on m i then f i else lane old w i)) < 2 ^ 256 :=
    Nat.lt_of_lt_of_le (packLanes_lt w _) (by rw [hl]; exact Nat.pow_le_pow_right (by omega) hn)
  unfold mergeLanes
  rw [lane, BitVec.toNat_ofNat, Nat.mod_eq_of_lt hlt, packLanes_lane w _ k (by rw [hl]; exact hk)]
  simp only [List.getElem_map, List.getElem_range]
  split
  · next h => exact Nat.mod_eq_of_lt (hf h)
  · exact Nat.mod_eq_of_lt (lane_lt old w k)

/-- The flags of a vector instruction are those of its active lanes (R136). -/
theorem orFlags_bit (n : Nat) (m : BitVec 32) (f : Nat → Flags) (b : Nat) :
    (orFlags n m f).getLsbD b = (List.range n).any (fun k => on m k && (f k).getLsbD b) := by
  have key : ∀ (l : List Nat) (a : Flags), (l.foldl (fun a i => if on m i then a ||| f i else a) a).getLsbD b =
      (a.getLsbD b || l.any (fun k => on m k && (f k).getLsbD b)) := by
    intro l
    induction l with
    | nil => simp
    | cons x r ih =>
      intro a
      rw [List.foldl_cons, ih]
      cases h : on m x <;> simp [h, Bool.or_assoc]
  rw [orFlags, key]
  simp

end Sys2Proof.Machine
end

