-- ==== Sys2Proof/Laws/Tbl.lean ====
section
/-!
SUPPORT. Tables: a read after a write at the same key gives the value written, a write leaves every other key alone, and
writing keeps the canonical form.
-/

namespace Sys2Proof.Machine

@[simp] theorem tget_nil {α : Type} (d : α) (k : Nat) : tget d [] k = d := rfl

@[simp] theorem tget_tput_same {α : Type} (d : α) (t : Tbl α) (k : Nat) (v : α) : tget d (tput t k v) k = v := by
  induction t with
  | nil => simp [tput, tget]
  | cons p r ih =>
    obtain ⟨k', v'⟩ := p
    simp only [tput]
    split
    · simp [tget]
    · split
      · simp [tget]
      · rename_i h1 h2
        simp [tget, h2, ih]

theorem tget_tput_ne {α : Type} (d : α) (t : Tbl α) (k j : Nat) (v : α) (h : j ≠ k) :
    tget d (tput t k v) j = tget d t j := by
  induction t with
  | nil => simp [tput, tget, Ne.symm h]
  | cons p r ih =>
    obtain ⟨k', v'⟩ := p
    simp only [tput]
    split
    · simp [tget, Ne.symm h]
    · split
      · rename_i h1 h2
        subst h2
        simp [tget, Ne.symm h]
      · simp [tget, ih]

@[simp] theorem tget_tdel_same {α : Type} (d : α) (t : Tbl α) (k : Nat) : tget d (tdel t k) k = d := by
  induction t with
  | nil => rfl
  | cons p r ih =>
    obtain ⟨k', v'⟩ := p
    by_cases h : k' = k
    · subst h
      simpa [tdel] using ih
    · have : tdel ((k', v') :: r) k = (k', v') :: tdel r k := by simp [tdel, h]
      rw [this]
      simp [tget, h, ih]

theorem tget_tdel_ne {α : Type} (d : α) (t : Tbl α) (k j : Nat) (h : j ≠ k) :
    tget d (tdel t k) j = tget d t j := by
  induction t with
  | nil => rfl
  | cons p r ih =>
    obtain ⟨k', v'⟩ := p
    by_cases h' : k' = k
    · subst h'
      have : tdel ((k', v') :: r) k' = tdel r k' := by simp [tdel]
      rw [this]
      simp [tget, Ne.symm h, ih]
    · have : tdel ((k', v') :: r) k = (k', v') :: tdel r k := by simp [tdel, h']
      rw [this]
      simp [tget, ih]

@[simp] theorem tget_tset_same {α : Type} [DecidableEq α] (d : α) (t : Tbl α) (k : Nat) (v : α) :
    tget d (tset d t k v) k = v := by
  unfold tset
  split
  · rename_i h
    simp [h]
  · simp

theorem tget_tset_ne {α : Type} [DecidableEq α] (d : α) (t : Tbl α) (k j : Nat) (v : α) (h : j ≠ k) :
    tget d (tset d t k v) j = tget d t j := by
  unfold tset
  split
  · exact tget_tdel_ne d t k j h
  · exact tget_tput_ne d t k j v h

theorem tsorted_mono {α : Type} (t : Tbl α) (a b : Nat) (h : a ≤ b) (ht : tsorted b t = true) : tsorted a t = true := by
  cases t with
  | nil => rfl
  | cons p r =>
    obtain ⟨k, v⟩ := p
    simp only [tsorted, Bool.and_eq_true, decide_eq_true_eq] at ht ⊢
    exact ⟨by omega, ht.2⟩

theorem tsorted_tput {α : Type} (t : Tbl α) (lo k : Nat) (v : α) (hk : lo ≤ k) (ht : tsorted lo t = true) :
    tsorted lo (tput t k v) = true := by
  induction t generalizing lo with
  | nil => simp [tput, tsorted, hk]
  | cons p r ih =>
    obtain ⟨k', v'⟩ := p
    simp only [tsorted, Bool.and_eq_true, decide_eq_true_eq] at ht
    simp only [tput]
    split
    · simp only [tsorted, Bool.and_eq_true, decide_eq_true_eq]
      exact ⟨hk, by omega, ht.2⟩
    · split
      · rename_i h
        subst h
        simp only [tsorted, Bool.and_eq_true, decide_eq_true_eq]
        exact ht
      · simp only [tsorted, Bool.and_eq_true, decide_eq_true_eq]
        exact ⟨ht.1, ih (k' + 1) (by omega) ht.2⟩

theorem tsorted_tdel {α : Type} (t : Tbl α) (lo k : Nat) (ht : tsorted lo t = true) : tsorted lo (tdel t k) = true := by
  induction t generalizing lo with
  | nil => rfl
  | cons p r ih =>
    obtain ⟨k', v'⟩ := p
    simp only [tsorted, Bool.and_eq_true, decide_eq_true_eq] at ht
    by_cases h : k' = k
    · subst h
      have : tdel ((k', v') :: r) k' = tdel r k' := by simp [tdel]
      rw [this]
      exact tsorted_mono _ lo (k' + 1) (by omega) (ih (k' + 1) ht.2)
    · have : tdel ((k', v') :: r) k = (k', v') :: tdel r k := by simp [tdel, h]
      rw [this]
      simp only [tsorted, Bool.and_eq_true, decide_eq_true_eq]
      exact ⟨ht.1, ih (k' + 1) ht.2⟩

theorem tput_all {α : Type} (t : Tbl α) (k : Nat) (v : α) (p : Nat × α → Bool) (hv : p (k, v) = true)
    (ht : t.all p = true) : (tput t k v).all p = true := by
  induction t with
  | nil => simp [tput, hv]
  | cons q r ih =>
    obtain ⟨k', v'⟩ := q
    simp only [List.all_cons, Bool.and_eq_true] at ht
    simp only [tput]
    split
    · simp only [List.all_cons, hv, ht.1, ht.2, Bool.and_self]
    · split
      · simp only [List.all_cons, hv, ht.2, Bool.and_self]
      · simp only [List.all_cons, ht.1, ih ht.2, Bool.and_self]

/-- Writing keeps the canonical form. -/
theorem twf_tset {α : Type} [DecidableEq α] (d : α) (t : Tbl α) (k : Nat) (v : α) (h : twf d t = true) :
    twf d (tset d t k v) = true := by
  simp only [twf, Bool.and_eq_true] at h ⊢
  unfold tset
  split
  · refine ⟨tsorted_tdel t 0 k h.1, ?_⟩
    simp only [tdel, List.all_eq_true, List.mem_filter] at h ⊢
    exact fun x hx => h.2 x hx.1
  · rename_i hv
    exact ⟨tsorted_tput t 0 k v (Nat.zero_le _) h.1, tput_all t k v _ (by simp [hv]) h.2⟩

end Sys2Proof.Machine
end

