-- ==== Sys2Proof/Laws/Lens.lean ====
section
/-!
SUPPORT. Parts of the state: a read of a part after it was changed gives the change, and a read of another part what it was.
-/

namespace Sys2Proof.Machine

/-! ## Cores and threads -/

@[simp] theorem coreAt_setCore_same (s : State) (c : Nat) (k : Core) : coreAt (setCore s c k) c = k := by
  simp [coreAt, setCore]

theorem coreAt_setCore_ne (s : State) (c d : Nat) (k : Core) (h : d ≠ c) : coreAt (setCore s c k) d = coreAt s d := by
  simp [coreAt, setCore, tget_tput_ne _ _ _ _ _ h]

theorem coreAt_setCore (s : State) (c d : Nat) (k : Core) : coreAt (setCore s c k) d = if d = c then k else coreAt s d := by
  split
  · next h => subst h; simp
  · next h => exact coreAt_setCore_ne s c d k h

theorem coreAt_modCore (s : State) (c d : Nat) (f : Core → Core) :
    coreAt (modCore s c f) d = if d = c then f (coreAt s c) else coreAt s d := by
  simp only [modCore, coreAt_setCore]

@[simp] theorem coreAt_modCore_same (s : State) (c : Nat) (f : Core → Core) : coreAt (modCore s c f) c = f (coreAt s c) := by
  simp [coreAt_modCore]

theorem thrOf_setThrOf (k : Core) (t u : Nat) (th : Thread) : thrOf (setThrOf k t th) u = if u = t then th else thrOf k u := by
  simp only [thrOf, setThrOf]
  split
  · next h => subst h; simp
  · next h => exact tget_tput_ne _ _ _ _ _ h

theorem thrAt_modCore_ne (s : State) (c d u : Nat) (f : Core → Core) (h : d ≠ c) : thrAt (modCore s c f) d u = thrAt s d u := by
  simp [thrAt, coreAt_modCore, h]

theorem thrAt_modThr (s : State) (c t d u : Nat) (f : Thread → Thread) :
    thrAt (modThr s c t f) d u = if d = c ∧ u = t then f (thrAt s c t) else thrAt s d u := by
  simp only [thrAt, modThr, setThr, coreAt_modCore]
  by_cases hd : d = c
  · subst hd
    by_cases hu : u = t
    · subst hu; simp [thrOf_setThrOf]
    · simp [thrOf_setThrOf, hu]
  · simp [hd]

@[simp] theorem thrAt_modThr_same (s : State) (c t : Nat) (f : Thread → Thread) : thrAt (modThr s c t f) c t = f (thrAt s c t) := by
  simp [thrAt_modThr]

@[simp] theorem me_modMe (s : State) (f : Thread → Thread) : me (modMe s f) = f (me s) := by
  simp [me, modMe]

/-- A change of one thread changes no other part of its core. -/
theorem coreAt_modThr (s : State) (c t : Nat) (f : Thread → Thread) :
    { coreAt (modThr s c t f) c with threads := (coreAt s c).threads } = coreAt s c := by
  simp [modThr, setThr, setThrOf]

/-! ## Clusters, dies, contexts, ports -/

theorem cluAt_modClu (s : State) (k j : Nat) (f : Cluster → Cluster) :
    cluAt (modClu s k f) j = if j = k then f (cluAt s k) else cluAt s j := by
  simp only [cluAt, modClu]
  split
  · next h => subst h; simp
  · next h => exact tget_tput_ne _ _ _ _ _ h

@[simp] theorem cluAt_modClu_same (s : State) (k : Nat) (f : Cluster → Cluster) : cluAt (modClu s k f) k = f (cluAt s k) := by
  simp [cluAt_modClu]

theorem dieAt_modDie (s : State) (d e : Nat) (f : Die → Die) : dieAt (modDie s d f) e = if e = d then f (dieAt s d) else dieAt s e := by
  simp only [dieAt, modDie]
  split
  · next h => subst h; simp
  · next h => exact tget_tput_ne _ _ _ _ _ h

theorem ctxAt_modCtx (s : State) (n m : Nat) (f : Ctx → Ctx) : ctxAt (modCtx s n f) m = if m = n then f (ctxAt s n) else ctxAt s m := by
  simp only [ctxAt, modCtx]
  split
  · next h => subst h; simp
  · next h => exact tget_tput_ne _ _ _ _ _ h

@[simp] theorem ctxAt_modCtx_same (s : State) (n : Nat) (f : Ctx → Ctx) : ctxAt (modCtx s n f) n = f (ctxAt s n) := by
  simp [ctxAt_modCtx]

theorem ueAt_modUe (s : State) (p q : Nat) (f : UePort → UePort) : ueAt (modUe s p f) q = if q = p then f (ueAt s p) else ueAt s q := by
  simp only [ueAt, modUe]
  split
  · next h => subst h; simp
  · next h => exact tget_tput_ne _ _ _ _ _ h

theorem cxlAt_modCxl (s : State) (p q : Nat) (f : CxlPort → CxlPort) :
    cxlAt (modCxl s p f) q = if q = p then f (cxlAt s p) else cxlAt s q := by
  simp only [cxlAt, modCxl]
  split
  · next h => subst h; simp
  · next h => exact tget_tput_ne _ _ _ _ _ h

/-! ## Parts that an update does not reach -/

@[simp] theorem coreAt_modClu (s : State) (k c : Nat) (f : Cluster → Cluster) : coreAt (modClu s k f) c = coreAt s c := rfl
@[simp] theorem coreAt_modCtx (s : State) (n c : Nat) (f : Ctx → Ctx) : coreAt (modCtx s n f) c = coreAt s c := rfl
@[simp] theorem coreAt_modDie (s : State) (d c : Nat) (f : Die → Die) : coreAt (modDie s d f) c = coreAt s c := rfl
@[simp] theorem coreAt_modUe (s : State) (p c : Nat) (f : UePort → UePort) : coreAt (modUe s p f) c = coreAt s c := rfl
@[simp] theorem coreAt_modCxl (s : State) (p c : Nat) (f : CxlPort → CxlPort) : coreAt (modCxl s p f) c = coreAt s c := rfl
@[simp] theorem coreAt_writeByte (s : State) (l c : Nat) (b : BitVec 8) : coreAt (writeByte s l b) c = coreAt s c := rfl
@[simp] theorem cluAt_modCore (s : State) (c k : Nat) (f : Core → Core) : cluAt (modCore s c f) k = cluAt s k := rfl
@[simp] theorem cluAt_modThr (s : State) (c t k : Nat) (f : Thread → Thread) : cluAt (modThr s c t f) k = cluAt s k := rfl
@[simp] theorem dieAt_modCore (s : State) (c d : Nat) (f : Core → Core) : dieAt (modCore s c f) d = dieAt s d := rfl
@[simp] theorem dieAt_modThr (s : State) (c t d : Nat) (f : Thread → Thread) : dieAt (modThr s c t f) d = dieAt s d := rfl
@[simp] theorem ctxAt_modCore (s : State) (c n : Nat) (f : Core → Core) : ctxAt (modCore s c f) n = ctxAt s n := rfl
@[simp] theorem ctxAt_modThr (s : State) (c t n : Nat) (f : Thread → Thread) : ctxAt (modThr s c t f) n = ctxAt s n := rfl
@[simp] theorem readByte_modCore (s : State) (c l : Nat) (f : Core → Core) : readByte (modCore s c f) l = readByte s l := rfl
@[simp] theorem readByte_modThr (s : State) (c t l : Nat) (f : Thread → Thread) : readByte (modThr s c t f) l = readByte s l := rfl
@[simp] theorem readByte_modMe (s : State) (l : Nat) (f : Thread → Thread) : readByte (modMe s f) l = readByte s l := rfl
@[simp] theorem readByte_modClu (s : State) (k l : Nat) (f : Cluster → Cluster) : readByte (modClu s k f) l = readByte s l := rfl
@[simp] theorem readByte_modCtx (s : State) (n l : Nat) (f : Ctx → Ctx) : readByte (modCtx s n f) l = readByte s l := rfl
@[simp] theorem readByte_setFull (s : State) (w l : Nat) : readByte (setFull s w) l = readByte s l := rfl

end Sys2Proof.Machine
end

