-- ==== Sys2Proof/Laws/Memory.lean ====
section
/-!
SUPPORT. Memory: a read after a write to the same byte gives the value written, a write leaves every other byte alone, and every
operation of Mem.lean keeps the canonical form.
-/

namespace Sys2Proof.Machine

/-! ## One byte -/

@[simp] theorem readByte_writeByte_same (s : State) (l : Nat) (b : BitVec 8) : readByte (writeByte s l b) l = b := by
  simp [readByte, writeByte]

theorem readByte_writeByte_ne (s : State) (l a : Nat) (b : BitVec 8) (h : a ≠ l) : readByte (writeByte s l b) a = readByte s a := by
  simp [readByte, writeByte, tget_tset_ne _ _ _ _ _ h]

/-! ## Bytes in a row -/

/-- A run of bytes written leaves every byte outside it. -/
theorem readByte_writeBytes_ne (n : Nat) (s : State) (l v a : Nat) (h : a < l ∨ l + n ≤ a) :
    readByte (writeBytes s l n v) a = readByte s a := by
  induction n generalizing s l v with
  | zero => rfl
  | succ n ih =>
    rw [writeBytes, ih _ _ _ (by omega), readByte_writeByte_ne _ _ _ _ (by omega)]

/-- The byte of a run of bytes written. -/
theorem readByte_writeBytes_at (n : Nat) (s : State) (l v i : Nat) (h : i < n) :
    readByte (writeBytes s l n v) (l + i) = BitVec.ofNat 8 (v / 256 ^ i) := by
  induction n generalizing s l v i with
  | zero => omega
  | succ n ih =>
    rw [writeBytes]
    cases i with
    | zero =>
      rw [readByte_writeBytes_ne _ _ _ _ _ (by omega)]
      simp
    | succ i =>
      have := ih (writeByte s l (BitVec.ofNat 8 v)) (l + 1) (v / 256) i (by omega)
      rw [show l + (i + 1) = l + 1 + i by omega, this, Nat.div_div_eq_div_mul, Nat.pow_succ, Nat.mul_comm]

/-- Reads depend only on the bytes they touch. -/
theorem readBytes_congr (n : Nat) (s t : State) (l : Nat) (h : ∀ i < n, readByte t (l + i) = readByte s (l + i)) :
    readBytes t l n = readBytes s l n := by
  induction n generalizing l with
  | zero => rfl
  | succ n ih =>
    have h0 := h 0 (by omega)
    simp only [Nat.add_zero] at h0
    rw [readBytes, readBytes, h0, ih (l + 1) (fun i hi => by
      have := h (i + 1) (by omega)
      rwa [show l + (i + 1) = l + 1 + i by omega] at this)]

theorem readBytes_lt (n : Nat) (s : State) (l : Nat) : readBytes s l n < 256 ^ n := by
  induction n generalizing l with
  | zero => simp [readBytes]
  | succ n ih =>
    rw [readBytes, Nat.pow_succ]
    have h1 := (readByte s l).isLt
    have h2 := ih (l + 1)
    omega

/-! ## The canonical form -/

/-- A change that leaves memory keeps its form. -/
theorem wf_of_mem (s t : State) (h : t.mem = s.mem) (hs : Memory.wf s) : Memory.wf t := by
  rw [Memory.wf, h]
  exact hs

theorem wf_writeByte (s : State) (l : Nat) (b : BitVec 8) (h : Memory.wf s) : Memory.wf (writeByte s l b) :=
  twf_tset _ _ _ _ h

theorem wf_writeBytes (n : Nat) (s : State) (l v : Nat) (h : Memory.wf s) : Memory.wf (writeBytes s l n v) := by
  induction n generalizing s l v with
  | zero => exact h
  | succ n ih => exact ih _ _ _ (wf_writeByte _ _ _ h)

theorem wf_writeList (l : List (BitVec 8)) (s : State) (a : Nat) (h : Memory.wf s) : Memory.wf (writeList s a l) := by
  induction l generalizing s a with
  | nil => exact h
  | cons b r ih => exact ih _ _ (wf_writeByte _ _ _ h)

theorem mem_setEmpty (s : State) (w : Nat) : (setEmpty s w).mem = (writeBytes s (w * 8) 8 0).mem := by
  unfold setEmpty
  rfl

theorem wf_setEmpty (s : State) (w : Nat) (h : Memory.wf s) : Memory.wf (setEmpty s w) :=
  wf_of_mem (writeBytes s (w * 8) 8 0) _ (mem_setEmpty s w) (wf_writeBytes 8 s (w * 8) 0 h)

theorem wf_setFull (s : State) (w : Nat) (h : Memory.wf s) : Memory.wf (setFull s w) := wf_of_mem s _ rfl h

theorem wf_modThr (s : State) (c t : Nat) (f : Thread → Thread) (h : Memory.wf s) : Memory.wf (modThr s c t f) := wf_of_mem s _ rfl h

theorem mem_touchRecord (s : State) (w c : Nat) : (touchRecord s w c).mem = s.mem := by
  unfold touchRecord
  split
  · split <;> rfl
  · rfl

theorem wf_touchRecord (s : State) (w c : Nat) (h : Memory.wf s) : Memory.wf (touchRecord s w c) :=
  wf_of_mem s _ (mem_touchRecord s w c) h

theorem mem_setRecord (s : State) (w c : Nat) : (setRecord s w c).mem = s.mem := rfl

theorem mem_recordWrite (b : Bool) (s : State) (w c : Nat) : (recordWrite b s w c).mem = s.mem := by
  unfold recordWrite
  split
  · rfl
  · exact mem_touchRecord s w c

theorem wf_recordWrite (b : Bool) (s : State) (w c : Nat) (h : Memory.wf s) : Memory.wf (recordWrite b s w c) :=
  wf_of_mem s _ (mem_recordWrite b s w c) h

theorem mem_askDrain (s : State) (w : Nat) (o : Order) : (askDrain s w o).mem = s.mem := by
  unfold askDrain
  split
  · split <;> rfl
  · rfl

/-! ## Stamps leave memory (R29) -/

theorem mem_stampOf (s : State) (u : Clk) : (stampOf s u).2.mem = s.mem := by cases u <;> rfl
theorem mem_receiveAt (s : State) (u : Clk) (m : W64) : (receiveAt s u m).mem = s.mem := by cases u <;> rfl
theorem mem_carry (s : State) (u v : Clk) : (carry s u v).mem = s.mem := (mem_receiveAt _ v _).trans (mem_stampOf s u)

/-- A fold of changes that leave memory leaves it. -/
theorem mem_foldl {α : Type} (f : State → α → State) (hf : ∀ s a, (f s a).mem = s.mem) (l : List α) (s : State) :
    (l.foldl f s).mem = s.mem := by
  induction l generalizing s with
  | nil => rfl
  | cons a r ih => exact (ih _).trans (hf s a)

theorem mem_answered (s : State) (c : Nat) (a : Access) : (answered s c a).mem = s.mem :=
  mem_foldl _ (fun s u => by cases u with
    | none => exact mem_receiveAt ..
    | some u => exact mem_carry ..) _ s

theorem mem_wakeThr (s : State) (c t : Nat) : (wakeThr s c t).mem = s.mem := by
  unfold wakeThr
  split <;> rfl

theorem mem_answer (s : State) (c t : Nat) (v : W64) : (answer s c t v).mem = s.mem := by
  rw [answer, mem_wakeThr]
  rfl

theorem mem_answerFe (s : State) (c t u i n v : Nat) : (answerFe s c t u i n v).mem = s.mem := by
  unfold answerFe
  split
  · split
    · rfl
    · dsimp only
      split
      · exact mem_answered ..
      · split <;> first | exact mem_answered .. | (rw [mem_answer]; exact mem_answered ..)
  · rfl

theorem wf_fillBytes (s : State) (l n v : Nat) (h : Memory.wf s) : Memory.wf (fillBytes s l n v) := by
  unfold fillBytes
  split
  · exact wf_writeBytes _ _ _ _ (wf_writeBytes _ _ _ _ h)
  · exact wf_writeBytes _ _ _ _ h

theorem mem_holdIdentity (s : State) (d c t : Nat) (m : W64) (v e : Nat) : (holdIdentity s d c t m v e).mem = s.mem := rfl

theorem wf_fillWaiter (s : State) (q : FeWaiter) (h : Memory.wf s) : Memory.wf (fillWaiter s q) := by
  have h1 := wf_recordWrite (isRelCore (orderOf s q.core q.slot q.id)) _ (wordNo q.loc) q.core
    (wf_setFull _ (wordNo q.loc) (wf_fillBytes s q.loc q.size q.data h))
  unfold fillWaiter
  dsimp only
  split
  · exact wf_of_mem _ _ (mem_holdIdentity ..) h1
  · exact h1

/-- Serving a word's waiters keeps the form. -/
theorem wf_walk (n : Nat) (s : State) (w : Nat) (h : Memory.wf s) : Memory.wf (walk n s w) := by
  induction n generalizing s with
  | zero => exact h
  | succ n ih =>
    unfold walk
    split
    · exact h
    · rename_i r _
      have h1 : ∀ (q : State) (o : Order), q.mem = s.mem → Memory.wf (answerFe (askDrain q w o) r.core r.slot r.uid r.id r.size
          (readBytes (askDrain q w o) r.loc r.size)) := fun q o hq =>
        wf_of_mem s _ (by rw [mem_answerFe, mem_askDrain, hq]) h
      dsimp only
      split
      · split
        · exact wf_touchRecord _ _ _ (wf_setEmpty _ _ (h1 _ _ rfl))
        · refine ih _ (wf_of_mem _ _ (mem_answerFe ..) (wf_fillWaiter _ _ ?_))
          exact wf_of_mem _ _ rfl (wf_touchRecord _ _ _ (wf_setEmpty _ _ (h1 _ _ rfl)))
      · exact ih _ (h1 _ _ rfl)

theorem wf_walkReaders (s : State) (w : Nat) (h : Memory.wf s) : Memory.wf (walkReaders s w) := wf_walk _ s w h

theorem wf_wakeWriter (s : State) (w : Nat) (h : Memory.wf s) : Memory.wf (wakeWriter s w) := by
  unfold wakeWriter
  split
  · exact h
  · exact wf_walkReaders _ _ (wf_of_mem _ _ (mem_answerFe ..) (wf_fillWaiter _ _ (wf_of_mem s _ rfl h)))

theorem wf_fill (s : State) (c l n v : Nat) (b : Bool) (h : Memory.wf s) : Memory.wf (fill s c l n v b) := by
  have h1 := wf_recordWrite b _ (wordNo l) c (wf_setFull _ (wordNo l) (wf_fillBytes s l n v h))
  unfold fill
  dsimp only
  split
  · exact wf_walkReaders _ _ h1
  · exact h1

theorem wf_emptyWord (s : State) (c w : Nat) (h : Memory.wf s) : Memory.wf (emptyWord s c w) :=
  wf_wakeWriter _ _ (wf_touchRecord _ _ _ (wf_setEmpty _ _ h))

theorem wf_storePiece (by_ : Option Nat) (b : Bool) (s : State) (l n v : Nat) (h : Memory.wf s) : Memory.wf (storePiece by_ b s l n v) := by
  have h0 := wf_writeBytes n s l v h
  have h1 : Memory.wf (match by_ with
      | some c => recordWrite b (writeBytes s l n v) (wordNo l) c
      | none => writeBytes s l n v) := by
    cases by_ with
    | none => exact h0
    | some c => exact wf_recordWrite _ _ _ _ h0
  unfold storePiece
  dsimp only
  split
  · exact wf_walkReaders _ _ (wf_setFull _ _ h1)
  · exact h1

/-- A fold of operations that keep the form keeps it. -/
theorem wf_foldl {α : Type} (f : State → α → State) (hf : ∀ s a, Memory.wf s → Memory.wf (f s a)) (l : List α) (s : State)
    (h : Memory.wf s) : Memory.wf (l.foldl f s) := by
  induction l generalizing s with
  | nil => exact h
  | cons a r ih => exact ih _ (hf s a h)

theorem tsorted_filter {α : Type} (p : Nat × α → Bool) (t : Tbl α) (lo : Nat) (h : tsorted lo t = true) :
    tsorted lo (t.filter p) = true := by
  induction t generalizing lo with
  | nil => rfl
  | cons q r ih =>
    obtain ⟨k, v⟩ := q
    simp only [tsorted, Bool.and_eq_true, decide_eq_true_eq] at h
    simp only [List.filter_cons]
    split
    · simp only [tsorted, Bool.and_eq_true, decide_eq_true_eq]
      exact ⟨h.1, ih _ h.2⟩
    · exact tsorted_mono _ lo (k + 1) (by omega) (ih _ h.2)

theorem twf_filter {α : Type} [DecidableEq α] (d : α) (p : Nat × α → Bool) (t : Tbl α) (h : twf d t = true) :
    twf d (t.filter p) = true := by
  simp only [twf, Bool.and_eq_true, List.all_eq_true, List.mem_filter] at h ⊢
  exact ⟨tsorted_filter p t 0 h.1, fun x hx => h.2 x hx.1⟩

theorem readByte_wipe (s : State) (l n a : Nat) :
    readByte (wipe s l n) a = if l ≤ a ∧ a < l + n then 0 else readByte s a := by
  unfold readByte wipe
  dsimp only
  induction s.mem with
  | nil => simp [tget, memDefault]
  | cons p r ih =>
    obtain ⟨k, v⟩ := p
    simp only [List.filter_cons]
    by_cases hk : l ≤ k ∧ k < l + n
    · rw [if_neg (by simp [hk.1, hk.2]), ih]
      by_cases ha : l ≤ a ∧ a < l + n
      · simp [ha]
      · have : k ≠ a := fun e => ha (e ▸ hk)
        simp [ha, tget, this]
    · rw [if_pos (by simp; omega)]
      simp only [tget]
      by_cases he : k = a
      · subst he
        simp [hk]
      · simp only [he, if_false]
        exact ih

/-- An ordinary write keeps the form. -/
theorem wf_storeAt (by_ : Option Nat) (s : State) (l n v : Nat) (b : Bool) (h : Memory.wf s) : Memory.wf (storeAt by_ s l n v b) :=
  wf_foldl (fun s (p : Nat × Nat × Nat) => storePiece by_ b s p.1 p.2.1 (v / 256 ^ p.2.2 % 256 ^ p.2.1))
    (fun s p hs => wf_storePiece by_ b s p.1 p.2.1 _ hs) _ s h

/-- A wipe keeps the form. -/
theorem wf_wipe (s : State) (l n : Nat) (h : Memory.wf s) : Memory.wf (wipe s l n) := twf_filter _ _ _ h

/-- An AMO at its owner keeps the form. -/
theorem wf_amoAt (c : Nat) (s : State) (l n op b d : Nat) (r : Bool) (h : Memory.wf s) : Memory.wf (amoAt c s l n op b d r).2 := by
  unfold amoAt
  dsimp only
  split
  · exact wf_storeAt _ _ _ _ _ _ h
  · exact h

/-- The reset memory is in its canonical form. -/
theorem wf_reset : Memory.wf State.reset := rfl

end Sys2Proof.Machine
end

