-- ==== Sys2Proof/Laws/Ops.lean ====
section
/-!
SUPPORT. One lemma per shared operation that says once what it answers, so that no proof unfolds it: parks and waits, privilege, the
effects of a twin, fences, page, bank, link and host requests.
-/

namespace Sys2Proof.Machine

/-! ## Answers -/

theorem hold_eq (s : State) (r : Reason) (o a : W64) : hold s r o a = .next (holdMe s r o a) := rfl
theorem wait_eq (s : State) (r : Reason) (o a : W64) : wait s r o a = .next (parkMe s r o a) := rfl
theorem trapC_eq (s : State) (k : Nat) (e : W64) : trapC s k e = .next (takeTrap s 0 k e) := rfl
theorem trapA_eq (s : State) (k : Nat) (e : W64) : trapA s k e = .next (takeTrap s 1 k e) := rfl
theorem status_eq (s : State) (rd : Reg) (n : Nat) : status s rd n = .next (writeX s rd (BitVec.ofNat 64 n)) := rfl

/-! ## Parks (R82, R242) -/

/-- A park changes the thread of the bundle, and the phase. -/
theorem thrAt_parkMe (s : State) (r : Reason) (o a : W64) (d u : Nat) :
    thrAt (parkMe s r o a) d u = if d = s.iss.core ∧ u = s.iss.slot then
      { me s with pc := s.iss.pc, slot := .parked, park := some ⟨r, (coreAt s s.iss.core).time, o, a⟩ } else thrAt s d u := by
  have hc : coreAt (parkMe s r o a) d = coreAt (parkThr (modMe s (fun th => { th with pc := s.iss.pc })) s.iss.core s.iss.slot r o a) d := rfl
  simp only [thrAt, hc]
  change thrAt (parkThr (modMe s (fun th => { th with pc := s.iss.pc })) s.iss.core s.iss.slot r o a) d u = _
  simp only [parkThr, modMe, thrAt_modThr]
  split
  · simp [me, modThr, setThr, setThrOf, thrAt]
  · rfl

@[simp] theorem iss_parkMe (s : State) (r : Reason) (o a : W64) : (parkMe s r o a).iss = { s.iss with phase := .parked } := rfl
@[simp] theorem mem_parkMe (s : State) (r : Reason) (o a : W64) : (parkMe s r o a).mem = s.mem := rfl
@[simp] theorem mem_holdMe (s : State) (r : Reason) (o a : W64) : (holdMe s r o a).mem = s.mem := rfl
@[simp] theorem iss_holdMe (s : State) (r : Reason) (o a : W64) : (holdMe s r o a).iss = { s.iss with phase := .held } := rfl

/-! ## Privilege (R12) -/

theorem privOnly_privileged (s : State) (k : State → Out) (h : privileged s (was s) = true) : privOnly s k = k s := by
  simp [privOnly, h]

theorem privOnly_user (s : State) (k : State → Out) (h : privileged s (was s) = false) :
    privOnly s k = .next (takeTrap s 0 cPRIV 0) := by
  simp [privOnly, h, trapC_eq]

/-! ## Effects of a twin (R259) -/

/-- Outside a twin an effect is made at once. -/
theorem once_alone (s : State) (rd : Option Reg) (a : W64) (n o d : Nat) (k : State → Out) (h : isTwin (me s) = false) :
    once s rd a n o d k = k s := by
  simp [once, h]

/-- Outside a twin a value is read by the thread itself. -/
theorem shared_alone (s : State) (v : W256) (k : State → W256 → Out) (h : isTwin (me s) = false) : shared s v k = k s v := by
  simp [shared, h]

/-- Outside a twin a push goes through the port. -/
theorem pushPort_alone (s : State) (p : Nat) (e : W128) (h : isTwin (me s) = false) :
    pushPort s p e = portPush s s.iss.core s.iss.slot p e := by
  simp [pushPort, h]

/-- Outside a twin a trap enters the handler. -/
theorem takeTrap_alone (s : State) (w k : Nat) (e : W64) (h : isTwin (me s) = false) :
    takeTrap s w k e = { enterTrap s s.iss.core s.iss.slot w k e s.iss.pc with
      iss := { (enterTrap s s.iss.core s.iss.slot w k e s.iss.pc).iss with phase := .trapped } } := by
  simp [takeTrap, takeTrapAs, h]

/-! ## Fences (R174) -/

theorem forceThr_none (s : State) (c t : Nat) (p : Access → Bool) (h : (thrAt s c t).accs = []) : forceThr s c t p = s := by
  simp [forceThr, h]

theorem drainAll_none (s : State) (c : Nat) (h : (coreAt s c).loose = []) : drainAll s c = s := by
  simp [drainAll, h, drainN]

/-- A fence of a thread with nothing outstanding and no store at a comparator, on a core with nothing buffered, goes on at once. -/
theorem fenced_idle (s : State) (sc : Scope) (k : State → Out) (hp : storePending (me s) = false) (ha : (me s).accs = []) (hl : (coreAt s s.iss.core).loose = []) :
    fenced s sc k = k s := by
  have h1 : forceThread s s.iss.core s.iss.slot = s := forceThr_none _ _ _ _ ha
  simp only [fenced, myCore, mySlot, h1]
  simp [hp, ha, drained, myCore, drainAll_none s _ hl, hl]

/-! ## Answers of units (R242) -/

/-- A request to a unit is sent: its thread waits ENGINE, its reply marking that the request is out. -/
theorem unitAnswers_sent (s : State) (k : State → Out) (h : (me s).reply = none) :
    unitAnswers s k = .next (holdMe (modMe s (fun th => { th with reply := some 0 })) .engine 0 6) := by
  simp [unitAnswers, h, hold_eq]

/-- With the answer the meaning goes on. -/
theorem unitAnswers_came (s : State) (k : State → Out) (v : W64) (h : (me s).reply = some v) :
    unitAnswers s k = k (modMe s (fun th => { th with reply := none })) := by
  simp [unitAnswers, h]

/-! ## Page and bank requests (R339, R352) -/

/-- The order in which a page instruction of a privileged thread, in no twin, goes on. -/
theorem pageOp_alone (s : State) (rd ra rb : Reg) (f : Bool) (k : State → Out) (hp : privileged s (was s) = true)
    (ht : isTwin (me s) = false) : pageOp s rd ra rb f k =
    match (me s).reply with
    | some v => .next (takeReply s (some rd) v)
    | none =>
      if s.shoots.any (fun q => q.core == myCore s && q.slot == mySlot s && q.uid == (me s).uid)
          || s.swaps.any (fun q => q.issuer == some (myCore s, mySlot s, (me s).uid)) then hold s .engine 0 3
      else if s.shoots.any (fun q => q.ctx == twCtx (readX s ra)) then hold s .engine 0 5
      else if f then fenced s .device k else k s := by
  rw [pageOp, privOnly_privileged s _ hp, once_alone s _ _ _ _ _ _ ht] <;> rfl

/-- A bank instruction of a privileged thread, in no twin. -/
theorem bankOp_alone (s : State) (rd ra : Reg) (k : State → Out) (hp : privileged s (was s) = true) (ht : isTwin (me s) = false) :
    bankOp s rd ra k =
    match (if bankOk (readX s ra) then unitCluster (bwKind (readX s ra)) (bwUnit (readX s ra)) else none) with
    | some c =>
      if (cluAt s c).vigil ≠ 0 then hold (leaveVigil s c) .engine 0 5
      else if (cluAt s c).stopped then hold s .engine 0 6
      else bankAsked s (readX s ra) k
    | none => bankAsked s (readX s ra) k := by
  rw [bankOp, privOnly_privileged s _ hp, once_alone s _ _ _ _ _ _ ht] <;> rfl

/-! ## Link requests (R387) -/

/-- LKCTL of a privileged thread, in no twin. -/
theorem lkctl_alone (s : State) (rd ra rb : Reg) (op : Nat) (objs : List Nat) (ok : W64 → Bool) (f : State → W64 → W64 → W64 × State)
    (hp : privileged s (was s) = true) (ht : isTwin (me s) = false) : lkctl s rd ra rb op objs ok f =
    unitAnswers s (fun s' => if lkOp (readX s ra) = op ∧ selectorOk (readX s ra) objs ∧ ok (readX s rb) then
      .next (writeX (f s' (readX s ra) (readX s rb)).2 rd (f s' (readX s ra) (readX s rb)).1)
    else .next (writeX s' rd lkBad)) := by
  rw [lkctl, privOnly_privileged s _ hp, once_alone s _ _ _ _ _ _ ht]

/-- LKQ of a privileged thread, in no twin. -/
theorem lkq_alone (s : State) (rd ra : Reg) (op : Nat) (objs : List Nat) (f : State → W64 → W64)
    (hp : privileged s (was s) = true) (ht : isTwin (me s) = false) : lkq s rd ra op objs f =
    unitAnswers s (fun s' => .next (writeX s' rd (if lkOp (readX s ra) = op ∧ selectorOk (readX s ra) objs then f s' (readX s ra) else lkBad))) := by
  rw [lkq, privOnly_privileged s _ hp, once_alone s _ _ _ _ _ _ ht]

/-! ## Host requests (R385) -/

/-- The device once the link agent of a request's port has received its stamp. -/
def received (s : State) (y : Ycp) : State := receiveAt s (.clu (uePortCluster y.port)) y.stamp

/-- What a request answers: nothing on a port that is not UP; 3 for a session that may not ask, 2 for a body of another length, else its
own. -/
theorem ycp_eq (s : State) (y : Ycp) (op : Nat) (a : Bool) (len : Nat → Bool) (k : State → Out) :
    ycp s y op a len k =
    if 16 ≤ y.port ∨ (ueAt s y.port).st ≠ .up then .next s
    else if a = false then .next (ycpReply (received s y) y op 3 [])
    else if len y.body.length = false ∨ 512 < y.body.length then .next (ycpReply (received s y) y op 2 [])
    else k (received s y) := by
  simp only [ycp, reply, received]
  cases a <;> cases len y.body.length <;> simp

end Sys2Proof.Machine
end

