-- ==== Sys2Proof/Tests/Slice0.lean ====
section
/-!
SUPPORT. Tests: words written out from the encoding tables of the spec, ill-formed terms that WellFormed refuses, single steps on
small states, and for each statement a state that meets its hypotheses.
-/

namespace Sys2Proof.Tests

set_option Elab.async false

open Sys2Proof.Machine

/-! ## Words (the encoding tables of the spec) -/

/-- Each word, as the C-word of a bundle beside ANOP, decodes to its instruction. -/
noncomputable def inC (l : List (BitVec 32 × Instr)) : Bool :=
  l.all (fun p => decide ((decodeBundle false (0#32 ++ p.1)).toOption = some ⟨false, p.2, .anop⟩))

/-- Each word, as the A-word of a bundle beside NOP, decodes to its instruction. -/
noncomputable def inA (l : List (BitVec 32 × Instr)) : Bool :=
  l.all (fun p => decide ((decodeBundle false (p.1 ++ 0#32)).toOption = some ⟨false, .nop, p.2⟩))

/-- Each bundle, its C-word first, decodes to the switch marker and the two instructions. -/
noncomputable def both (l : List (BitVec 32 × BitVec 32 × Bool × Instr × Instr)) : Bool :=
  l.all (fun p => decide ((decodeBundle false (p.2.1 ++ p.1)).toOption = some ⟨p.2.2.1, p.2.2.2.1, p.2.2.2.2⟩))

/-- R121 to R127. -/
theorem test_words_system : inC [
   (0x00000000, .nop), (0x01246800, .trap 0x1234), (0x01000001, .rett), (0x01182202, .gets 3 .fenab), (0x01181203, .sets .tagerr 3),
    (0x01180004, .tstamp 3), (0x01194005, .waitev 3 5), (0x01000006, .yield)] = true := by decide +kernel

/-- R117 to R119. -/
theorem test_words_branch : inC [
   (0x0229C006, .beq 5 7 6), (0x0329C006, .bne 5 7 6), (0x0429C006, .blt 5 7 6), (0x0529C006, .bge 5 7 6), (0x0629C006, .bltu 5 7 6),
    (0x0729C006, .bgeu 5 7 6), (0x08000006, .br 6 none), (0x08800006, .call 6 none), (0x09014000, .jr 5), (0x09014001, .callr 5)] = true := by decide +kernel

/-- R155, R159, R160. -/
theorem test_words_load_store : inC [
   (0x0A1A4002, .ldb 3 9 (.short 2) .plain), (0x0B1A4002, .ldbu 3 9 (.short 2) .plain), (0x0C1A4002, .ldh 3 9 (.short 2) .plain),
    (0x0D1A4002, .ldhu 3 9 (.short 2) .plain), (0x0E1A4002, .ldw 3 9 (.short 2) .plain), (0x0F1A4002, .ldwu 3 9 (.short 2) .plain),
    (0x101A4002, .ldd 3 9 (.short 2) .plain), (0x111A4002, .ldv 3 9 (.short 2) .plain), (0x121A4002, .stb 3 9 (.short 2) .plain),
    (0x131A4002, .sth 3 9 (.short 2) .plain), (0x141A4002, .stw 3 9 (.short 2) .plain), (0x151A4002, .std 3 9 (.short 2) .plain),
    (0x161A4002, .stv 3 9 (.short 2) .plain)] = true := by decide +kernel

/-- R164. -/
theorem test_words_full_empty : inC [
   (0x17194000, .ldwF 3 5 .plain none), (0x17194061, .lddF 3 5 (.acq .cluster) none), (0x17194002, .ldwT 3 5 .plain none),
    (0x17194003, .lddT 3 5 .plain none), (0x18194000, .stwE 3 5 .plain none), (0x18194161, .stdE 3 5 (.rel .system) none),
    (0x18194162, .stwX 3 5 (.rel .system) none), (0x18194003, .stdX 3 5 .plain none), (0x18014004, .fempty 5 .plain none),
    (0x18194005, .fstat 3 5 .plain none)] = true := by decide +kernel

/-- R169. -/
theorem test_words_amo : inC [
   (0x19194E70, .amoadd 3 5 7 (.acq .cluster) true none), (0x19194E11, .amoand 3 5 7 .plain true none), (0x19194E12, .amoor 3 5 7 .plain true none),
    (0x19194E13, .amoxor 3 5 7 .plain true none), (0x19194E14, .amomin 3 5 7 .plain true none), (0x19194E15, .amomax 3 5 7 .plain true none),
    (0x19194E16, .amominu 3 5 7 .plain true none), (0x19194E17, .amomaxu 3 5 7 .plain true none), (0x19194E18, .amoswap 3 5 7 .plain true none),
    (0x19194E19, .amocas 3 5 7 .plain true none)] = true := by decide +kernel

/-- R174 to R178. -/
theorem test_words_memory : inC [
   (0x1B000003, .fence .device), (0x1C026803, .xfence 9 20 .device), (0x1D194E12, .vgath 3 5 7 .plain 2 1 none),
    (0x1D194E13, .vscat 3 5 7 .plain 2 1 none), (0x1E194000, .sptst 3 5), (0x1E194001, .spcast 3 5), (0x1E19401A, .vpin 3 5 3)] = true := by decide +kernel

/-- R181, R184, R185, R367. -/
theorem test_words_engine : inC [
   (0x1F194EE9, .cpy 3 5 7 3 41), (0x1F194FE9, .cpys 3 5 7 3 41), (0x20194000, .cpwaitany 3 5), (0x20014001, .cpwaitall 5),
    (0x20194002, .cpfirst 3 5), (0x20014003, .cpclr 5), (0x22014029, .scanq 5 41), (0x211800A9, .retrc 3 41)] = true := by decide +kernel

/-- R263, R272, R274. -/
theorem test_words_queue : inC [
   (0x23194E03, .portUnbind 3 3 5 7), (0x23180043, .qstat 3 3), (0x24194E18, .rinit 3 5 7 .device), (0x24194019, .racq 3 5 .device),
    (0x2419401A, .rcommit 3 5 .device), (0x2419401B, .rpeek 3 5 .device), (0x2401401C, .rrel 5 .device)] = true := by decide +kernel

/-- R188, R202, R203. -/
theorem test_words_matrix : inC [
   (0x25000000, .lease), (0x25000001, .lrel), (0x25014E02, .mhset 5 7), (0x25014003, .rowdone 5)] = true := by decide +kernel

/-- R284, R295. -/
theorem test_words_kernel : inC [
   (0x26194E00, .spawn 3 5 7 none), (0x26000001, .quit), (0x26014003, .join 5), (0x26014004, .migr 5), (0x26014005, .anchor 5),
    (0x29014E29, .amsend 5 7 41 none)] = true := by decide +kernel

/-- R313. -/
theorem test_words_barrier : inC [
   (0x27194E00, .barinit 3 5 7), (0x27194E01, .bararr 3 5 7), (0x27194E02, .barwait 3 5 7), (0x27194E03, .baraw 3 5 7), (0x27194004, .semp 3 5),
    (0x27014E05, .semv 5 7)] = true := by decide +kernel

/-- R260. -/
theorem test_words_mode : inC [
   (0x28180000, .gang 3), (0x28000001, .ungang), (0x28180002, .twin 3), (0x28000003, .untwin)] = true := by decide +kernel

/-- R250, R339, R352, R371, R386: the PRIV words; words with one encoding decode to the first of their rows (log 11, DEDUCED). -/
theorem test_words_privileged : inC [
   (0x2A194E20, .killThread 3 5 7), (0x2A194021, .wake 3 5), (0x2A194E22, .resumeRetry 3 5 7), (0x2A194023, .preempt 3 5),
    (0x2A194E00, .mapset 3 5 7), (0x2A194E01, .mapinvUnmap 3 5 7), (0x2A194E02, .pghotRead 3 5 7), (0x2A194E03, .tlbflPage 3 5 7),
    (0x2A194010, .bankret 3 5), (0x2A194011, .bankq 3 5), (0x2A194E18, .lkctlEnable 3 5 7), (0x2A194019, .lkqStatus 3 5),
    (0x2A194E1C, .namerouteWriteRoute 3 5 7)] = true := by decide +kernel

/-- R79. -/
theorem test_words_anop : inA [
   (0x00000000, .anop)] = true := by decide +kernel

/-- R106, R107. -/
theorem test_words_alu : inA [
   (0x04653800, .add 3 5 7), (0x04653801, .sub 3 5 7), (0x04653802, .and 3 5 7), (0x04653803, .or 3 5 7), (0x04653804, .xor 3 5 7),
    (0x04653805, .shl 3 5 7), (0x04653806, .shr 3 5 7), (0x04653807, .sar 3 5 7), (0x04653808, .rol 3 5 7), (0x04653809, .min 3 5 7),
    (0x0465380A, .max 3 5 7), (0x0465380B, .minu 3 5 7), (0x0465380C, .maxu 3 5 7), (0x0465380D, .slt 3 5 7), (0x0465380E, .sltu 3 5 7),
    (0x0465380F, .seq 3 5 7), (0x04653C09, .csel 3 9 5 7)] = true := by decide +kernel

/-- R108. -/
theorem test_words_muldiv : inA [
   (0x08653800, .mul 3 5 7), (0x08653801, .mulh 3 5 7), (0x08653802, .mulhu 3 5 7), (0x08653803, .div 3 5 7), (0x08653804, .divu 3 5 7),
    (0x08653805, .rem 3 5 7), (0x08653806, .remu 3 5 7)] = true := by decide +kernel

/-- R110. -/
theorem test_words_bit : inA [
   (0x0C650000, .clz 3 5), (0x0C650001, .ctz 3 5), (0x0C650002, .popc 3 5), (0x0C653803, .ext 3 5 7), (0x0C653804, .ins 3 5 7), (0x0C650005, .abs 3 5)] = true := by decide +kernel

/-- R111. -/
theorem test_words_immediate : inA [
   (0x10658001, .addi 3 5 0x8001), (0x14658001, .andi 3 5 0x8001), (0x18658001, .ori 3 5 0x8001), (0x1C658001, .xori 3 5 0x8001),
    (0x20650025, .shli 3 5 37), (0x20650065, .shri 3 5 37), (0x206500A5, .sari 3 5 37), (0x24608001, .movi 3 0x8001),
    (0x28628001, .movhi 3 2 0x8001), (0x2C658001, .slti 3 5 0x8001)] = true := by decide +kernel

/-- R113 to R115. -/
theorem test_words_fps : inA [
   (0x30653C00, .fadd 3 5 7 .bf16), (0x30653C01, .fsub 3 5 7 .bf16), (0x30653C02, .fmul 3 5 7 .bf16), (0x30653C93, .ffma 3 5 7 9 .bf16),
    (0x30653C04, .fmin 3 5 7 .bf16), (0x30653C05, .fmax 3 5 7 .bf16), (0x30653C06, .fcmpeq 3 5 7 .bf16), (0x30653C07, .fcmplt 3 5 7 .bf16),
    (0x30653C08, .fcmple 3 5 7 .bf16), (0x30653C19, .fsgn 3 5 7 .bf16 1), (0x3465178A, .fcvt 3 5 (.b8 true true 4) .fp32 true)] = true := by decide +kernel

/-- R151, R152. -/
theorem test_words_sfu : inA [
   (0x38650400, .fexp2 3 5 .bf16), (0x38650401, .flog2 3 5 .bf16), (0x38650402, .frcp 3 5 .bf16), (0x38650403, .frsq 3 5 .bf16),
    (0x38650404, .fsqrt 3 5 .bf16), (0x38650405, .ftanh 3 5 .bf16), (0x38650406, .fsin 3 5 .bf16), (0x38650407, .fcos 3 5 .bf16),
    (0x3C650240, .vfexp2 3 5 1 .fp16), (0x3C650241, .vflog2 3 5 1 .fp16), (0x3C650242, .vfrcp 3 5 1 .fp16), (0x3C650243, .vfrsq 3 5 1 .fp16),
    (0x3C650244, .vfsqrt 3 5 1 .fp16), (0x3C650245, .vftanh 3 5 1 .fp16), (0x3C650246, .vfsin 3 5 1 .fp16), (0x3C650247, .vfcos 3 5 1 .fp16)] = true := by decide +kernel

/-- R137. -/
theorem test_words_vint : inA [
   (0x40653A08, .vadd 3 5 7 1 .int16), (0x40653A09, .vsub 3 5 7 1 .int16), (0x40653A0A, .vmul 3 5 7 1 .int16), (0x40653A0B, .vmulh 3 5 7 1 .int16),
    (0x40653A0C, .vmin 3 5 7 1 .int16), (0x40653A0D, .vmax 3 5 7 1 .int16), (0x4065020E, .vabs 3 5 1 .int16), (0x40653A0F, .vsadd 3 5 7 1 .int16)] = true := by decide +kernel

/-- R138. -/
theorem test_words_vlog : inA [
   (0x44653A08, .vand 3 5 7 1 .int16), (0x44653A09, .vor 3 5 7 1 .int16), (0x44653A0A, .vxor 3 5 7 1 .int16), (0x44653A0B, .vandn 3 5 7 1 .int16),
    (0x4465020C, .vnot 3 5 1 .int16), (0x44653A0D, .vshl 3 5 7 1 .int16), (0x44653A0E, .vshr 3 5 7 1 .int16), (0x44653A0F, .vsar 3 5 7 1 .int16)] = true := by decide +kernel

/-- R139. -/
theorem test_words_vfp : inA [
   (0x48653A40, .vfadd 3 5 7 1 .fp16), (0x48653A41, .vfsub 3 5 7 1 .fp16), (0x48653A42, .vfmul 3 5 7 1 .fp16), (0x48653A43, .vfma 3 5 7 1 .fp16),
    (0x48653A44, .vfmin 3 5 7 1 .fp16), (0x48653A45, .vfmax 3 5 7 1 .fp16), (0x48650246, .vfabs 3 5 1 .fp16), (0x48650247, .vfneg 3 5 1 .fp16)] = true := by decide +kernel

/-- R140. -/
theorem test_words_vcmp : inA [
   (0x4C453A08, .vcmpEq 2 5 7 1 .int16), (0x4C453A09, .vcmpNe 2 5 7 1 .int16), (0x4C453A0A, .vcmpLt 2 5 7 1 .int16),
    (0x4C453A0B, .vcmpLe 2 5 7 1 .int16), (0x4C453A0C, .vcmpLtu 2 5 7 1 .int16), (0x4C453A0D, .vcmpLeu 2 5 7 1 .int16),
    (0x4C453A46, .vcmpFlt 2 5 7 1 .fp16), (0x4C453A47, .vcmpFle 2 5 7 1 .fp16)] = true := by decide +kernel

/-- R141. -/
theorem test_words_vperm : inA [
   (0x50653A08, .vsel 3 5 7 1 .int16), (0x50650209, .vsplat 3 5 1 .int16), (0x50653A0A, .vperm 3 5 7 1 .int16), (0x5065020B, .vcomp 3 5 1 .int16),
    (0x5065020C, .vexpd 3 5 1 .int16), (0x50653A0D, .vshuf 3 5 7 1 .int16), (0x50653A0E, .vrot 3 5 7 1 .int16), (0x5065020F, .vrev 3 5 1 .int16)] = true := by decide +kernel

/-- R142, R144, R147. -/
theorem test_words_vred : inA [
   (0x54650208, .vredadd 3 5 1 .int16), (0x54650209, .vredmax 3 5 1 .int16), (0x5465020A, .vredmin 3 5 1 .int16),
    (0x5465020B, .vredand 3 5 1 .int16), (0x5465020C, .vredor 3 5 1 .int16), (0x58650A55, .vcvt 3 5 false .int16 1 .fp32 true 1),
    (0x5C653A00, .vdot4 3 5 7 1 .int8), (0x5C653A01, .vdota 3 5 7 1 .int8)] = true := by decide +kernel

/-- R148. -/
theorem test_words_lane : inA [
   (0x60653008, .vgetl 3 5 6 .int16), (0x60653009, .vsetl 3 5 6 .int16)] = true := by decide +kernel

/-- R207 to R210. -/
theorem test_words_blocksum : inA [
   (0x68650080, .bsalign 3 5), (0x68653A51, .scaccL 3 5 7 1), (0x68653A52, .scaccH 3 5 7 1), (0x68650253, .bsnormL 3 5 1),
    (0x68650254, .bsnormH 3 5 1), (0x68650255, .bsnormR 3 5 1)] = true := by decide +kernel

/-- R212. -/
theorem test_words_ppa : inA [
   (0x6C650000, .ppinit 3 5), (0x6C653851, .ppmul 3 5 7), (0x6C653A52, .ppmulv 3 5 7 1), (0x6C653853, .ppdiv 3 5 7), (0x6C653804, .ppmerge 3 5 7),
    (0x6C651255, .pprd 3 5 2 1), (0x6C651256, .ppld 3 5 2 1), (0x6C650007, .ppexp 3 5), (0x6C60000F, .ppnorm 3)] = true := by decide +kernel

/-- R149. -/
theorem test_words_mask : inA [
   (0x70411800, .mand 2 1 3), (0x70411801, .mor 2 1 3), (0x70410002, .mnot 2 1), (0x70610023, .mpopc 3 1 2), (0x70610024, .mfirst 3 1 2),
    (0x70450005, .mset 2 5), (0x70610006, .mget 3 1)] = true := by decide +kernel
/-! ## The spec's own worked encodings -/

/-- R112, R155, R157, R169, R276, R284: examples of chapters 4 to 12. -/
theorem test_examples_c : both [
    (0x4E224002, 0, true, .ldw 4 9 (.short 2) .plain, .anop), (0x8E224000, 0x00010000, false, .ldw 4 9 (.long 0x10000) .plain, .anop),
    (0xAB200001, 0x89ABCDEF, false, .movlU 4 0x89ABCDEF, .anop), (0xAB200002, 0x01234567, false, .movlH 4 0x01234567, .anop),
    (0xAB200000, 0xFFFFFFFE, false, .movl 4 0xFFFFFFFE, .anop),
    (0x15224E02, 0, false, .std 4 9 (.short 2) (.rel .device), .anop), (0x19214C10, 0, false, .amoadd 4 5 6 .plain true none, .anop),
    (0x25000000, 0, false, .lease, .anop), (0x25000001, 0, false, .lrel, .anop), (0x25008003, 0, false, .rowdone 2, .anop),
    (0x25010A02, 0, false, .mhset 4 5, .anop), (0x2A214C22, 0, false, .resumeRetry 4 5 6, .anop), (0x28200000, 0, false, .gang 4, .anop),
    (0x23214C01, 0, false, .portUnbind 4 1 5 6, .anop), (0x23380042, 0, false, .qstat 7 2, .anop), (0x2421400A, 0, false, .rcommit 4 5 .cluster, .anop),
    (0x26214C00, 0, false, .spawn 4 5 6 none, .anop), (0x26000001, 0, false, .quit, .anop), (0x26008003, 0, false, .join 2, .anop),
    (0x26018004, 0, false, .migr 6, .anop), (0x26010005, 0, false, .anchor 4, .anop), (0xA600860A, 0x10, false, .fork 2 3 .cluster 0x10, .anop),
    (0x29010A07, 0, false, .amsend 4 5 7 none, .anop), (0x27214C03, 0, false, .baraw 4 5 6, .anop), (0x2710C004, 0, false, .semp 2 3, .anop),
    (0x27014C05, 0, false, .semv 5 6, .anop)] = true := by decide +kernel

/-- R339, R352, R367, R371, R386: examples of chapters 15 to 18. -/
theorem test_examples_privileged : both [
    (0x2A214C00, 0, false, .mapset 4 5 6, .anop), (0x2A10CE03, 0, false, .tlbflPage 2 3 7, .anop), (0x2A214010, 0, false, .bankret 4 5, .anop),
    (0x2A314011, 0, false, .bankq 6 5, .anop), (0xA1214C00, 0x00001000, false, .annc 4 5 6 0x1000, .anop),
    (0xA1014C49, 0x000800C8, false, .want 5 6 9 0x800C8, .anop), (0x21200089, 0, false, .retrc 4 9, .anop),
    (0x2A214C1C, 0, false, .namerouteWriteRoute 4 5 6, .anop), (0x2A214C18, 0, false, .lkctlEnable 4 5 6, .anop),
    (0x2A214019, 0, false, .lkqStatus 4 5, .anop)] = true := by decide +kernel

/-- R109, R139, R145, R207, R213: examples of A-words. -/
theorem test_examples_a : inA [(0x08400803, .div 2 0 1), (0x48400A53, .vfma 2 0 1 1 .fp32), (0x584151E0, .vcvt 2 1 false .fp32 0 (.b8 true true 4) false 0),
    (0x68642851, .scaccL 3 4 5 0), (0x6C221A52, .ppmulv 1 2 3 1)] = true := by decide +kernel

/-- The tables of the worked programs of chapters 20 and 21. -/
theorem test_examples_programs_1 : both [
    (0xA631C000, 0x0000000F, false, .spawn 6 7 0 (some 15), .anop), (0x59288610, 0, true, .amoadd 5 2 3 .plain true none, .anop),
    (0x03043FFE, 0, false, .bne 0 16 0x3FFE, .anop), (0x4E314000, 0, true, .ldw 6 5 (.short 0) .plain, .anop), (0x1E288012, 0, false, .vpin 5 2 2, .anop),
    (0x27310603, 0, false, .baraw 6 4 3, .anop), (0, 0x049D8003, false, .nop, .or 4 29 16), (0x1522803F, 0, false, .std 4 10 (.short 63) .plain, .anop),
    (0x08000048, 0, false, .br 72 none, .anop), (0, 0x08453003, false, .nop, .div 2 5 6), (0x01284A02, 0x10840008, false, .gets 5 .eaddr1, .addi 4 4 8),
    (0x152A8002, 0x24400000, false, .std 5 10 (.short 2) .plain, .movi 2 0), (0x01204203, 0, false, .sets .epc1 4, .anop), (0x01000001, 0, false, .rett, .anop),
    (0, 0x443DE819, false, .nop, .vor 1 29 29 0 .int64), (0x2A3B5600, 0, false, .mapset 7 13 11, .anop),
    (0x2A396022, 0, false, .resumeRetry 7 5 16, .anop)] = true := by decide +kernel

/-- Those of chapter 22. -/
theorem test_examples_programs_2 : both [
    (0, 0x08201004, false, .nop, .divu 1 0 2), (0x18010004, 0x10A50001, false, .fempty 4 .plain none, .addi 5 5 1),
    (0x98010004, 8, false, .fempty 4 .plain (some 8), .anop), (0x0428BFFE, 0x04843000, false, .blt 5 2 0x3FFE, .add 4 4 6),
    (0x4E594000, 0x10A50004, true, .ldw 11 5 (.short 0) .plain, .addi 5 5 4), (0x18610000, 0, false, .stwE 12 4 .plain none, .anop),
    (0x98590000, 8, false, .stwE 11 4 .plain (some 8), .anop), (0x02040002, 0x05C46801, false, .beq 0 16 2, .sub 14 4 13),
    (0xD7638000, 8, true, .ldwF 12 14 .plain (some 8), .anop), (0, 0x316B68E3, false, .nop, .ffma 11 11 13 14 .fp32),
    (0x145940FF, 0x114AFFFF, false, .stw 11 5 (.short 0xFF) .plain, .addi 10 10 0xFFFF)] = true := by decide +kernel

/-- Those of chapters 23 and 24. -/
theorem test_examples_programs_3 : both [
    (0x2420C001, 0, false, .racq 4 3 .core, .anop), (0x0880002B, 0, false, .call 43 none, .anop), (0x57010003, 0, true, .lddT 0 4 .plain none, .anop),
    (0x1F00A141, 0, false, .cpys 0 2 16 1 1, .anop), (0x1F006182, 0, false, .cpys 0 1 16 2 2, .anop), (0, 0x47E73819, false, .nop, .vor 31 7 7 0 .int64),
    (0x20004001, 0, false, .cpwaitall 1, .anop), (0, 0x68640851, false, .nop, .scaccL 3 4 1 0), (0, 0x58C35000, false, .nop, .vcvt 6 3 false .fp32 0 .int8 false 0),
    (0xD9390CF0, 24, true, .amoadd 7 4 6 (.rel .core) true (some 24), .anop), (0xA1014C41, 0x000203E8, false, .want 5 6 1 0x203E8, .anop),
    (0, 0x6C000852, false, .nop, .ppmulv 0 0 1 0), (0x01381202, 0, false, .gets 7 .tagerr, .anop), (0x511A0001, 0, true, .ldv 3 8 (.short 1) .plain, .anop),
    (0, 0x6C220056, false, .nop, .ppld 1 2 0 0), (0, 0x6C230856, false, .nop, .ppld 1 3 1 0), (0, 0x6C000804, false, .nop, .ppmerge 0 0 1),
    (0, 0x6C0B6053, false, .nop, .ppdiv 0 11 12), (0x40000000, 0x6CC00007, true, .nop, .ppexp 6 0),
    (0xA1394C00, 0x40, false, .annc 7 5 6 0x40, .anop)] = true := by decide +kernel


/-! ## Ill-formed terms, one for each check -/

/-- No term of a list is well formed. -/
noncomputable def ill (l : List Instr) : Bool := l.all (fun i => !instrOk i)

/-- No bundle of a list, its two words beside each other, stands for an encoding. -/
noncomputable def illPairs (gang : Bool) (l : List (Instr × Instr)) : Bool := l.all (fun p => !bundleOk gang ⟨false, p.1, p.2⟩)

theorem wf_order_codes : ill [.ldb 1 2 (.short 0) (.rel .die), .ldbu 1 2 (.short 0) (.pacq .core), .ldh 1 2 (.short 0) (.rel .core),
    .ldhu 1 2 (.short 0) (.rel .cluster), .ldw 1 2 (.short 0) (.rel .system), .ldwu 1 2 (.long 0) (.rel .die), .ldd 1 2 (.long 0) (.pacq .core),
    .ldv 1 2 (.short 0) (.rel .device), .stb 1 2 (.short 0) (.acq .die), .sth 1 2 (.short 0) (.acq .core), .stw 1 2 (.short 0) (.pacq .die),
    .std 1 2 (.long 0) (.acq .system), .stv 1 2 (.short 0) (.acq .cluster), .ldwF 1 2 (.rel .core) none, .lddF 1 2 (.pacq .core) none,
    .ldwT 1 2 (.rel .die) none, .lddT 1 2 (.rel .system) none, .stwE 1 2 .loose none, .stdE 1 2 (.acq .core) none, .stwX 1 2 .loose none,
    .stdX 1 2 (.pacq .die) none, .fempty 2 .loose none, .fstat 1 2 .loose none, .fstat 1 2 (.rel .core) none,
    .amoadd 1 2 3 (.pacq .core) false none, .amoand 1 2 3 (.pacq .core) false none, .amoor 1 2 3 (.pacq .core) false none,
    .amoxor 1 2 3 (.pacq .core) true none, .amomin 1 2 3 (.pacq .core) false none, .amomax 1 2 3 (.pacq .core) false none,
    .amominu 1 2 3 (.pacq .core) false none, .amomaxu 1 2 3 (.pacq .core) false none, .amoswap 1 2 3 (.pacq .core) false none,
    .amocas 1 2 3 (.pacq .core) false none, .vgath 1 2 3 (.acq .die) 0 0 none, .vscat 1 2 3 (.rel .die) 0 0 none] = true := by decide

theorem wf_fields : ill [.br 1 (some 0), .call 1 (some 0), .spawn 1 2 3 (some 0), .amsend 1 2 0 (some 0), .xfence 0 1 .core, .xfence 1 0 .core,
    .vpin 1 2 5, .cpy 1 2 3 1 0, .cpys 1 2 3 2 0, .annc 1 2 3 0x40000, .want 1 2 3 0x800000, .fork 1 2 .core 0, .fork 1 2 .system 0,
    .fsgn 1 2 3 .fp32 3, .vgetl 1 2 8 .int32, .vsetl 1 2 16 .fp16, .pprd 1 2 16 0, .ppld 1 2 16 0] = true := by decide

theorem wf_formats : ill [.fcvt 1 2 .int8 .uint64 false, .fcvt 1 2 .bs64 .fp32 false, .fcvt 1 2 .fp32 .int8 true, .fcvt 1 2 .int32 (.b8 true true 0) false,
    .vfexp2 1 2 0 .int32, .vflog2 1 2 0 .int8, .vfrcp 1 2 0 .bs64, .vfrsq 1 2 0 .int16, .vfsqrt 1 2 0 .uint8, .vftanh 1 2 0 .int64,
    .vfsin 1 2 0 .uint64, .vfcos 1 2 0 .int32, .vadd 1 2 3 0 .fp32, .vsub 1 2 3 0 .uint64, .vmul 1 2 3 0 .fp16, .vmulh 1 2 3 0 .bs64,
    .vmin 1 2 3 0 .bf16, .vmax 1 2 3 0 .fp32, .vabs 1 2 0 .uint8, .vsadd 1 2 3 0 .fp32, .vand 1 2 3 0 .fp32, .vor 1 2 3 0 .bs64, .vxor 1 2 3 0 .fp16,
    .vandn 1 2 3 0 .fp32, .vnot 1 2 0 .fp32, .vshl 1 2 3 0 .fp32, .vshr 1 2 3 0 .bf16, .vsar 1 2 3 0 .fp32] = true := by decide

theorem wf_more_formats : ill [.vfadd 1 2 3 0 .int32, .vfsub 1 2 3 0 .int32, .vfmul 1 2 3 0 (.b8 true true 3),
    .vfma 1 2 3 0 .int8, .vfmin 1 2 3 0 .uint16, .vfmax 1 2 3 0 .bs64, .vfabs 1 2 0 .int32, .vfneg 1 2 0 .int32, .vcmpEq 1 2 3 0 .bs64, .vcmpNe 1 2 3 0 .uint64,
    .vcmpLt 1 2 3 0 .uint8, .vcmpLe 1 2 3 0 .fp32, .vcmpLtu 1 2 3 0 .fp32, .vcmpLeu 1 2 3 0 .bf16, .vcmpFlt 1 2 3 0 .int8, .vcmpFle 1 2 3 0 .int32,
    .vsel 1 2 3 0 .uint64, .vsplat 1 2 0 (.b8 true true 0), .vperm 1 2 3 0 .uint64, .vcomp 1 2 0 .uint64, .vexpd 1 2 0 .uint64, .vshuf 1 2 3 0 .uint64,
    .vrot 1 2 3 0 .uint64, .vrev 1 2 0 .uint64, .vredadd 1 2 0 .bs64, .vredmax 1 2 0 .bs64, .vredmin 1 2 0 (.b8 true true 3), .vredand 1 2 0 .fp32,
    .vredor 1 2 0 .fp16, .vcvt 1 2 false .bs64 0 .fp32 false 0, .vcvt 1 2 false .fp32 0 .bs64 false 0, .vcvt 1 2 true .int32 0 .fp32 false 0,
    .vcvt 1 2 false .fp32 0 .fp16 false 2, .vdot4 1 2 3 0 .int16, .vdota 1 2 3 0 .fp32] = true := by decide

theorem wf_threads : ill [.amoCombine 5120 0 0 0, .amoCombine 0 16 0 0, .amoCombine 0 0 5120 0, .amoCombine 0 0 0 16, .mbReservation 5120 0,
    .mbReservationResend 0 16, .qwatchExpiry 5120 0, .racqResend 0 16, .startResend 5120 0, .slotLoaded 0 16, .syncTimeout 5120 0, .dividerDone 0 16,
    .resultArrival 5120 0 0, .accessComplete 0 16, .drainRequest 5120 0, .feRequestArrival 0 16 0, .feResend 5120 0 0, .feTimeout 0 16 0, .feCancel 5120 0 0,
    .eventTimeout 0 16, .requestReissue 5120 0 0, .requestFail 0 16 0, .threadHalt 5120 0, .ueKill 0 16, .yieldExpiry 5120 0, .cpwTimeout 0 16] = true := by
  decide

theorem wf_objects : ill [.copyStart 160 0, .copyComplete 0 8, .engineWriteDrop 160 0, .neighbourArrival 5120 0, .leaseExpiry 160, .arrayCommandCheck 160,
    .arrayChunkComplete 160, .rowLanding 160, .arrayStatusPush 160, .kernelRelaunch 4096, .kernelComplete 4096, .tlbEvict 5120 0, .vigilEntry 160,
    .vigilExit 160, .sfuResult 5120, .ppaOpComplete 5120, .looseBufferDrain 5120, .preemptRequest 5120, .imageDone 4096, .arraySpillDone 160,
    .coreBlockLoaded 5120, .poison 4096 0, .claimWipeComplete 5120, .groupExit 5120, .interestExpiry 160 0, .neverProduced 160 0, .linkUp true 4 [] 0,
    .linkUp false 16 [] 0, .trainingTimeout true 4, .trainingTimeout false 16, .llrReplay 16 [] true, .rudRetransmit 16 0, .peerFailed 512, .dieReady 4,
    .cxlReady ⟨4, false⟩, .operatingPointChange 160 0, .operatingPointChange 0 3, .budgetStep 160 true, .dieGate 4, .dieUngate 4, .vigilDecodeComplete 160,
    .operatingPointSettled 160, .stackReady 12, .remoteRequest 512 0 0 ⟨0, 0, .plain, 8, 0, 0, 0, 0, 0, 0⟩, .remoteRequest 0 16 0 ⟨0, 0, .plain, 8, 0, 0, 0, 0, 0, 0⟩,
    .remoteRequest 0 0 4096 ⟨0, 0, .plain, 8, 0, 0, 0, 0, 0, 0⟩, .llrAcknowledgement 16 0, .lifeCycleChange ⟨16, 2, 0⟩ true true] = true := by decide

theorem wf_requests : ([⟨true, 16, 0, 0, 0, []⟩, ⟨true, 0, 0, 0, 4096, []⟩] : List Ycp).all (fun y => ill [.ycpCreate y, .ycpLaunch y, .ycpAmsend y, .ycpKill y,
    .ycpPreempt y, .ycpRestore y, .ycpShrink y, .ycpWrite y, .ycpRead y, .budgetWrite y, .budgetRead y, .identity y, .attest y]) = true := by decide

/-- An event, an instruction of the other slot, a long form beside an A-instruction, a register written twice, RETT beside an A-instruction, a late port, a lane that
only a gang has; in a gang a shared vector register and the last group of coefficients. -/
theorem wf_bundles : illPairs false [(.warmReset, .anop), (.add 1 2 3, .anop), (.nop, .nop), (.movl 1 0, .add 2 3 4), (.tstamp 1, .add 1 2 3), (.rett, .add 1 2 3),
    (.ldw 28 1 (.short 0) .plain, .anop), (.nop, .vsetl 1 2 7 .int32), (.gang 1, .add 1 2 3)] = true ∧
    illPairs true [(.nop, .vand 16 2 3 0 .int32), (.nop, .ppld 1 2 15 0)] = true := by decide

/-! ## Small states -/

/-- The next state that exec answers; the reset state when it answers none. -/
noncomputable def nx (i : Instr) (s : State) : State := match exec i s with
  | .next t => t
  | _ => {}

/-- exec answers a given next state. -/
noncomputable def gives (i : Instr) (s t : State) : Bool := match exec i s with
  | .next u => decide (u = t)
  | _ => false

/-- Only one core of the device changed. -/
noncomputable def oneCore (c : Nat) (s t : State) : Bool := decide ({ t with cores := s.cores } = s) && decide (tdel t.cores c = tdel s.cores c)

/-- Only one thread of the device changed, to one given. -/
noncomputable def oneThread (i : Instr) (s : State) (c u : Nat) (th : Thread) : Bool := match exec i s with
  | .next t => oneCore c s t && decide (setThr t c u {} = setThr (setThr s c u {}) c u {}) && decide (thrAt t c u = th)
  | _ => false

/-- The same, the clocks of the core and of the dies apart. -/
noncomputable def oneThreadC (i : Instr) (s : State) (c u : Nat) (th : Thread) : Bool := match exec i s with
  | .next t => (let t := modCore { t with dies := s.dies } c (fun k => { k with clock := (coreAt s c).clock })
      oneCore c s t && decide (setThr t c u {} = setThr (setThr s c u {}) c u {}) && decide (thrAt t c u = th))
  | _ => false

/-- A thread in its slot, with x0 to x5. -/
noncomputable def thr (a b c d e f : W64) : Thread :=
  { slot := .ready, uid := 7, ctx := 1, pc := 0x1008, hbase := 0x40000, seat := mkSeat 0 0, x := [(0, a), (1, b), (2, c), (3, d), (4, e), (5, f)] }

/-- A core of context 1 with a pool of 16 banks, 8 of them scratchpad, and one thread. -/
noncomputable def oneThr (th : Thread) : Core := { group := .active, ctx := 1, part := 4 + 8 * 32 + 4 * 1024, time := 100, threads := [(0, th)] }

/-- Context 1 on core 0. -/
noncomputable def ctx1 : Ctx := { st := .live, kern := .running, place := [0], part := 4 + 8 * 32 + 4 * 1024, hbase := 0x40000 }

/-- The device with core 0, as the words of a bundle at 0x1000 see it. -/
noncomputable def dev (k : Core) : State :=
  { cores := [(0, k)], ctxs := [(1, ctx1)], iss := { pc := 0x1000, word := 0x55, phase := .going, latch := some k } }

/-- The same with a privileged context. -/
noncomputable def devP (k : Core) : State := { dev k with ctxs := [(1, { ctx1 with priv := true })] }

/-- The device where thread 0 has the registers x0 to x5. -/
noncomputable def regs (a b c d e f : W64) : State := dev (oneThr (thr a b c d e f))

/-- x9 after a word that writes it, with x1, x2 and x3. -/
noncomputable def x9 (i : Instr) (a b c : W64) : W64 := tget 0 (thrAt (nx i (regs 0 a b c 0 0)) 0 0).x 9

/-- x9 and the flags that a word raises. -/
noncomputable def x9f (i : Instr) (a b c : W64) : W64 × BitVec 5 :=
  let t := nx i (regs 0 a b c 0 0)
  (tget 0 (thrAt t 0 0).x 9, t.iss.flags)

/-- The device where thread 0 has v0 to v3 and masks m1 to m3. -/
noncomputable def vregs (a b c d : W128) (m : BitVec 16) : State :=
  dev (oneThr { thr 0 5 0 0 0 0 with v := [(0, a), (1, b), (2, c), (3, d)], m1 := m, m2 := 0x00F0, m3 := 0xFFFF })

/-- v0 and the flags that a word raises, with v0 to v2 and m1. -/
noncomputable def v0f (i : Instr) (a b c : W128) (m : BitVec 16) : W128 × BitVec 5 :=
  let t := nx i (vregs a b c 0 m)
  (tget 0 (thrAt t 0 0).v 0, t.iss.flags)

/-- Thread 0 ganged, with slot 1 its high half. -/
noncomputable def gangDev : State :=
  dev { oneThr { thr 0 0 0 0 0 0 with mode := 1 } with threads := [(0, { thr 0 0 0 0 0 0 with mode := 1, v := [(1, 3)] }), (1, { slot := .ganghigh, uid := 8, ctx := 1, v := [(1, 4)] })] }

/-- A property of every entry of a table and of its default holds of what the table gives. -/
theorem tget_ind {α : Type} (p : α → Prop) (d : α) (hd : p d) : ∀ (t : Tbl α), (∀ q ∈ t, p q.2) → ∀ k, p (tget d t k)
  | [], _, _ => hd
  | (j, v) :: r, h, k => by
    unfold tget
    split
    · exact h (j, v) (by simp)
    · exact tget_ind p d hd r (fun q hq => h q (by simp [hq])) k

/-! ## Scalar words -/

theorem test_operands : (isTwin (me (regs 1 2 3 4 5 6)) = false ∧ ganged (regs 1 2 3 4 5 6) = false ∧ (regs 1 2 3 4 5 6).iss.latch = some (oneThr (thr 1 2 3 4 5 6))) ∧
    readX (regs 1 2 3 4 5 6) 16 = 0 ∧ writeX (regs 1 2 3 4 5 6) 16 9 = regs 1 2 3 4 5 6 ∧
    (thrAt (writeX (regs 1 2 3 4 5 6) 15 9) 0 0).x = [(0, 1), (1, 2), (2, 3), (3, 4), (4, 5), (5, 6), (15, 9)] ∧
    (coreAt (writeX (regs 1 2 3 4 5 6) 17 9) 0).s = [(1, 9)] ∧ (coreAt (writeX (regs 1 2 3 4 5 6) 27 9) 0).s = [(11, 9)] ∧
    writeX (regs 1 2 3 4 5 6) 28 9 = portPush (regs 1 2 3 4 5 6) 0 0 0 9 ∧
    readX (writeX (regs 1 2 3 4 5 6) 1 9) 1 = 2 := by decide +kernel

theorem test_vector_operands : (ganged gangDev = true ∧ (thrAt gangDev 0 1).slot = .ganghigh) ∧ readV gangDev 1 = 4 * 2 ^ 128 + 3 ∧
    (thrAt (writeV gangDev 2 (6 * 2 ^ 128 + 5)) 0 0).v = [(1, 3), (2, 5)] ∧ (thrAt (writeV gangDev 2 (6 * 2 ^ 128 + 5)) 0 1).v = [(1, 4), (2, 6)] ∧
    (coreAt (writeV (regs 0 0 0 0 0 0) 16 7) 0).y = [(0, 7)] ∧ readM (regs 0 0 0 0 0 0) 0 = 0xFFFF := by decide +kernel

theorem test_alu : x9 (.add 9 1 2) 0xFFFFFFFFFFFFFFFF 1 0 = 0 ∧ x9 (.sub 9 1 2) 0 1 0 = 0xFFFFFFFFFFFFFFFF ∧ x9 (.and 9 1 2) 0xF0 0x3C 0 = 0x30 ∧
    x9 (.or 9 1 2) 0xF0 0x3C 0 = 0xFC ∧ x9 (.xor 9 1 2) 0xF0 0x3C 0 = 0xCC ∧ x9 (.min 9 1 2) 0xFFFFFFFFFFFFFFFF 1 0 = 0xFFFFFFFFFFFFFFFF ∧
    x9 (.max 9 1 2) 0xFFFFFFFFFFFFFFFF 1 0 = 1 ∧ x9 (.minu 9 1 2) 0xFFFFFFFFFFFFFFFF 1 0 = 1 ∧ x9 (.maxu 9 1 2) 0xFFFFFFFFFFFFFFFF 1 0 = 0xFFFFFFFFFFFFFFFF ∧
    x9 (.slt 9 1 2) 0xFFFFFFFFFFFFFFFF 1 0 = 1 ∧ x9 (.sltu 9 1 2) 0xFFFFFFFFFFFFFFFF 1 0 = 0 ∧ x9 (.seq 9 1 2) 4 4 0 = 1 ∧
    x9 (.csel 9 3 1 2) 4 5 0 = 5 ∧ x9 (.csel 9 3 1 2) 4 5 6 = 4 := by decide +kernel

theorem test_shifts : x9 (.shl 9 1 2) 3 63 0 = 0x8000000000000000 ∧ x9 (.shl 9 1 2) 3 64 0 = 3 ∧ x9 (.shr 9 1 2) 0x8000000000000000 63 0 = 1 ∧
    x9 (.sar 9 1 2) 0x8000000000000000 63 0 = 0xFFFFFFFFFFFFFFFF ∧ x9 (.rol 9 1 2) 0x8000000000000001 1 0 = 3 ∧ x9 (.shli 9 1 63) 3 0 0 = 0x8000000000000000 ∧
    x9 (.shri 9 1 63) 0x8000000000000000 0 0 = 1 ∧ x9 (.sari 9 1 63) 0x8000000000000000 0 0 = 0xFFFFFFFFFFFFFFFF := by decide +kernel

theorem test_immediates : x9 (.addi 9 1 0x8000) 0 0 0 = 0xFFFFFFFFFFFF8000 ∧ x9 (.andi 9 1 0x8000) 0xFFFFFFFFFFFFFFFF 0 0 = 0xFFFFFFFFFFFF8000 ∧
    x9 (.ori 9 1 0x8000) 0 0 0 = 0x8000 ∧ x9 (.xori 9 1 0x8000) 0xFFFF 0 0 = 0x7FFF ∧ x9 (.slti 9 1 0xFFFF) 0xFFFFFFFFFFFFFFFE 0 0 = 1 ∧
    x9 (.movi 9 0xFFFF) 0 0 0 = 0xFFFFFFFFFFFFFFFF ∧ x9 (.movhi 9 3 0xABCD) 0 0 0 = 0xABCD000000000000 ∧ x9 (.movl 9 0x80000000) 0 0 0 = 0xFFFFFFFF80000000 ∧
    x9 (.movlU 9 0x80000000) 0 0 0 = 0x80000000 ∧ x9 (.movlH 9 0x80000000) 0 0 0 = 0x8000000000000000 := by decide +kernel

theorem test_muldiv : x9 (.mul 9 1 2) 0xFFFFFFFFFFFFFFFF 3 0 = 0xFFFFFFFFFFFFFFFD ∧ x9 (.mulh 9 1 2) 0xFFFFFFFFFFFFFFFF 3 0 = 0xFFFFFFFFFFFFFFFF ∧
    x9 (.mulhu 9 1 2) 0xFFFFFFFFFFFFFFFF 3 0 = 2 ∧ x9 (.div 9 1 2) 0xFFFFFFFFFFFFFFF9 2 0 = 0xFFFFFFFFFFFFFFFD ∧ x9 (.rem 9 1 2) 0xFFFFFFFFFFFFFFF9 2 0 = 0xFFFFFFFFFFFFFFFF ∧
    x9 (.div 9 1 2) 0x8000000000000000 0xFFFFFFFFFFFFFFFF 0 = 0x8000000000000000 ∧ x9 (.rem 9 1 2) 0x8000000000000000 0xFFFFFFFFFFFFFFFF 0 = 0 ∧
    x9 (.divu 9 1 2) 0xFFFFFFFFFFFFFFFF 2 0 = 0x7FFFFFFFFFFFFFFF ∧ x9 (.remu 9 1 2) 0xFFFFFFFFFFFFFFFF 2 0 = 1 := by decide +kernel

theorem test_division_by_zero : readX (regs 0 5 0 0 0 0) 2 = 0 ∧ gives (.div 9 1 2) (regs 0 5 0 0 0 0) (takeTrap (regs 0 5 0 0 0 0) 1 0x0D 5) = true ∧
    (thrAt (nx (.remu 9 1 2) (regs 0 5 0 0 0 0)) 0 0).l1.ecause = 0x10D ∧ (thrAt (nx (.remu 9 1 2) (regs 0 5 0 0 0 0)) 0 0).l1.eaddr = 5 := by decide +kernel

theorem test_bits : x9 (.clz 9 1) 0 0 0 = 64 ∧ x9 (.clz 9 1) 1 0 0 = 63 ∧ x9 (.ctz 9 1) 0 0 0 = 64 ∧ x9 (.ctz 9 1) 0x8000000000000000 0 0 = 63 ∧
    x9 (.popc 9 1) 0xFFFFFFFFFFFFFFFF 0 0 = 64 ∧ x9 (.ext 9 1 2) 0xABCD 0x804 0 = 0xBC ∧ x9 (.ins 9 1 2) 0xAB 0x804 0 = 0xAB0 ∧
    x9 (.ext 9 1 2) 0xFFFFFFFFFFFFFFFF 0x7F3F 0 = 1 ∧ x9 (.abs 9 1) 0x8000000000000000 0 0 = 0x8000000000000000 ∧ x9 (.abs 9 1) 0xFFFFFFFFFFFFFFFF 0 0 = 1 := by
  decide +kernel

/-! ## Floating point -/

theorem test_rounding : (1 ≤ 7 ∧ (7 : Nat) ≤ 7 ∧ (255 : Nat) < 256) ∧ b8Encode true true 7 false (b8Decode true true 7 0xFF) = (0xFF, 0) ∧
    (fp32 ∈ [fp32, fp16, bf16] ∧ 0x7F7FFFFF < 2 ^ fp32.width ∧ fp32.decode 0x7F7FFFFF = .fin false 0xFFFFFF 104) ∧ fp32.round 0 false 0xFFFFFF 104 = (0x7F7FFFFF, 0) ∧
    ((0x1000001 : Nat) ≠ 0 ∧ fp32.decode (fp32.round 3 false 0x1000001 0).1 = .fin false 0x800001 1) ∧ fp32.round 1 false 0x1000001 0 = (0x4B800000, fNX) ∧
    fp32.round 3 true 0x1000001 0 = (0xCB800000, fNX) := by decide +kernel

theorem test_float_sums : x9f (.fadd 9 1 2 .fp32) 0x3F800000 0x33800000 0 = (0x3F800000, fNX) ∧ x9f (.fsub 9 1 2 .fp32) 0x3F800000 0x3F800000 0 = (0, 0) ∧
    x9f (.fadd 9 1 2 .fp32) 0x7FA00000 0x3F800000 0 = (0x7FC00000, fNV) ∧ x9f (.fadd 9 1 2 .fp32) 0x7F800000 0xFF800000 0 = (0x7FC00000, fNV) ∧
    x9f (.fadd 9 1 2 .fp32) 0x7F800000 0x3F800000 0 = (0x7F800000, 0) ∧ x9f (.fsub 9 1 2 .fp32) 0x3F800000 0x7F800000 0 = (0xFF800000, 0) ∧
    x9f (.fmul 9 1 2 .fp16) 0x3C00 0x7C00 0 = (0x7C00, 0) ∧ x9f (.fmul 9 1 2 .fp32) 0 0x7F800000 0 = (0x7FC00000, fNV) ∧
    x9f (.ffma 9 1 2 3 .fp32) 0x40000000 0x40400000 0xC0C00000 = (0, 0) ∧ x9f (.ffma 9 1 2 3 .fp32) 0 0x7F800000 0x7FC00000 = (0x7FC00000, fNV) ∧
    x9f (.ffma 9 1 2 3 .bf16) 0x7F80 0x3F80 0xFF80 = (0x7FC0, fNV) ∧ x9f (.ffma 9 1 2 3 .bf16) 0x7F80 0xBF80 0xFF80 = (0xFF80, 0) ∧
    x9f (.ffma 9 1 2 3 .bf16) 0xFF80 0x3F80 0x3F80 = (0xFF80, 0) ∧ x9f (.fmul 9 1 2 .bf16) 0x7F80 0xBF80 0 = (0xFF80, 0) ∧ x9f (.fmin 9 1 2 .fp32) 0 0x80000000 0 = (0x80000000, 0) ∧
    x9f (.fmax 9 1 2 .fp32) 0x80000000 0 0 = (0, 0) := by decide +kernel

theorem test_float_order : x9f (.fmin 9 1 2 .fp32) 0x80000000 0 0 = (0x80000000, 0) ∧ x9f (.fmax 9 1 2 .fp32) 0x80000000 0 0 = (0, 0) ∧
    x9f (.fmin 9 1 2 .fp32) 0x7FC00000 0x3F800000 0 = (0x3F800000, 0) ∧ x9f (.fmax 9 1 2 .fp32) 0x7FA00000 0x7FC00000 0 = (0x7FC00000, fNV) ∧
    x9f (.fcmpeq 9 1 2 .fp32) 0x80000000 0 0 = (1, 0) ∧ x9f (.fcmplt 9 1 2 .fp32) 0x7FC00000 0 0 = (0, fNV) ∧ x9f (.fcmple 9 1 2 .fp32) 0x3F800000 0x3F800000 0 = (1, 0) ∧
    x9f (.fcmpeq 9 1 2 .fp32) 0x7FC00000 0 0 = (0, 0) ∧ x9f (.fsgn 9 1 2 .fp32 0) 0x3F800000 0x80000000 0 = (0xBF800000, 0) ∧
    x9f (.fsgn 9 1 2 .fp32 1) 0x3F800000 0x80000000 0 = (0x3F800000, 0) ∧ x9f (.fsgn 9 1 2 .fp32 2) 0xBF800000 0x80000000 0 = (0x3F800000, 0) ∧
    x9f (.fsgn 9 1 2 .fp32 2) 0x7FA00000 0 0 = (0x7FC00000, fNV) := by decide +kernel

theorem test_conversions : (fmtValue .fp32 0x7FC00000).isNan = true ∧ fmtValue .fp32 0xFF800000 = .inf true ∧ fmtValue .fp32 0x3FC00000 = .fin false 0xC00000 (-23) ∧
    x9f (.fcvt 9 1 .int32 .fp32 false) 0x7FC00000 0 0 = (0, fNV) ∧ x9f (.fcvt 9 1 .int8 .fp32 false) 0xFF800000 0 0 = (0xFFFFFFFFFFFFFF80, fNV) ∧
    x9f (.fcvt 9 1 .int32 .fp32 false) 0x3FC00000 0 0 = (2, fNX) ∧ x9f (.fcvt 9 1 .uint8 .fp32 false) 0x43800000 0 0 = (255, fNV) ∧
    x9f (.fcvt 9 1 .int8 .fp32 false) 0xC3010000 0 0 = (0xFFFFFFFFFFFFFF80, fNV) ∧ x9f (.fcvt 9 1 .fp16 .fp32 false) 0x477FF000 0 0 = (0x7C00, fOF ||| fNX) ∧
    x9f (.fcvt 9 1 .fp32 .uint64 false) 0xFFFFFFFFFFFFFFFF 0 0 = (0x5F800000, fNX) ∧ (Fmt.b8 true true 4) = .b8 true true 4 := by decide +kernel

/-! ## Vectors: lanes, lowest first, from the right; m1 is the mask operand -/

theorem test_vector_integers : (Fmt.int8.isInt = true ∧ Fmt.int8.isSInt = true ∧ Fmt.int64.isInt = true) ∧
    v0f (.vadd 0 1 2 0 .int32) 0 0x00000001_00000002_00000003_FFFFFFFF 0x00000001_00000001_00000001_00000001 0 = (0x00000002_00000003_00000004_00000000, 0) ∧
    v0f (.vadd 0 1 2 1 .int32) 0xA_00000000_00000000_00000000 0x00000001_00000002_00000003_FFFFFFFF 0x00000001_00000001_00000001_00000001 3 = (0x0000000A_00000000_00000004_00000000, 0) ∧
    v0f (.vsub 0 1 2 0 .int64) 0 1 2 0 = (0x0000000000000000_FFFFFFFFFFFFFFFF, 0) ∧ v0f (.vmul 0 1 2 0 .int8) 0 0xFF 0x02 0 = (0xFE, 0) ∧
    v0f (.vmulh 0 1 2 0 .int16) 0 0x8000 0x8000 0 = (0x4000, 0) ∧ v0f (.vmulh 0 1 2 0 .uint16) 0 0xFFFF 0xFFFF 0 = (0xFFFE, 0) ∧
    v0f (.vmin 0 1 2 0 .int8) 0 0xFF 0x01 0 = (0xFF, 0) ∧ v0f (.vmin 0 1 2 0 .uint8) 0 0xFF 0x01 0 = (0x01, 0) ∧ v0f (.vmax 0 1 2 0 .int8) 0 0xFF 0x01 0 = (0x01, 0) ∧
    v0f (.vabs 0 1 0 .int8) 0 0x80FF 0 0 = (0x8001, 0) ∧ v0f (.vsadd 0 1 2 0 .int8) 0 0x7F80 0x01FF 0 = (0x7F80, 0) ∧ v0f (.vsadd 0 1 2 0 .uint8) 0 0xFF 0x01 0 = (0xFF, 0) := by
  decide +kernel

theorem test_vector_logic : v0f (.vand 0 1 2 0 .int8) 0 0xF0 0x3C 0 = (0x30, 0) ∧ v0f (.vor 0 1 2 0 .int8) 0 0xF0 0x3C 0 = (0xFC, 0) ∧ v0f (.vxor 0 1 2 0 .int8) 0 0xF0 0x3C 0 = (0xCC, 0) ∧
    v0f (.vandn 0 1 2 0 .int8) 0 0xF0 0x3C 0 = (0xC0, 0) ∧ v0f (.vnot 0 1 1 .int8) 0 0xF0 0 1 = (0x0F, 0) ∧ v0f (.vshl 0 1 2 0 .int8) 0 0x8181 0x0809 0 = (0x8102, 0) ∧
    v0f (.vshr 0 1 2 0 .int16) 0 0x8000 15 0 = (1, 0) ∧ v0f (.vsar 0 1 2 0 .int16) 0 0x8000 15 0 = (0xFFFF, 0) := by decide +kernel

theorem test_vector_floats : Fmt.fp16.isFloat = true ∧ v0f (.vfadd 0 1 2 1 .fp16) 0 0x3C003C00 0x10004000 1 = (0x4200, 0) ∧
    v0f (.vfadd 0 1 2 0 .fp32) 0 0x3F800000 0x33800000 0 = (0x3F800000, fNX) ∧ v0f (.vfsub 0 1 2 0 .bf16) 0 0x3F80 0x3F80 0 = (0, 0) ∧ v0f (.vfmul 0 1 2 0 .fp16) 0 0x4000 0x4200 0 = (0x4600, 0) ∧
    v0f (.vfma 0 1 2 0 .fp32) 0x3F800000 0x40000000 0x40400000 0 = (0x40E00000, 0) ∧ v0f (.vfmin 0 1 2 0 .fp32) 0 0x3F800000 0xBF800000 0 = (0xBF800000, 0) ∧
    v0f (.vfmax 0 1 2 0 .fp32) 0 0x3F800000 0xBF800000 0 = (0x3F800000, 0) ∧ v0f (.vfabs 0 1 1 .fp32) 0 0xBF800000 0 1 = (0x3F800000, 0) ∧
    v0f (.vfneg 0 1 1 .fp32) 0 0x7FA00000 0 1 = (0x7FC00000, fNV) ∧ v0f (.vfneg 0 1 1 .bf16) 0 0x3F80 0 1 = (0xBF80, 0) := by decide +kernel

/-- m1 after a comparison, with v1, v2 and m1. -/
noncomputable def m1f (i : Instr) (a b : W128) (m : BitVec 16) : BitVec 16 × BitVec 5 :=
  let t := nx i (vregs 0 a b 0 m)
  ((thrAt t 0 0).m1, t.iss.flags)

theorem test_comparisons : m1f (.vcmpEq 1 1 2 0 .int32) 5 5 0xFFF0 = (0xFFFF, 0) ∧ m1f (.vcmpNe 1 1 2 0 .int32) 5 5 0xFFF0 = (0xFFF0, 0) ∧ m1f (.vcmpLt 1 1 2 0 .int32) 0xFFFFFFFF 1 0 = (1, 0) ∧
    m1f (.vcmpLtu 1 1 2 0 .int32) 0xFFFFFFFF 1 0 = (0, 0) ∧ m1f (.vcmpLe 1 1 2 0 .int64) 0x00000000000000010000000000000001 1 0 = (1, 0) ∧
    m1f (.vcmpLeu 1 1 2 0 .uint16) 0xFFFF 1 0 = (0xFE, 0) ∧ m1f (.vcmpFlt 1 1 2 0 .fp32) 0x7FC00000 0x3F800000 0xFFF0 = (0xFFF0, fNV) ∧
    m1f (.vcmpFle 1 1 2 0 .fp32) 0x3F800000 0x3F800000 0 = (0xF, 0) ∧ m1f (.vcmpEq 1 1 2 0 .fp32) 0x80000000 0 0 = (0xF, 0) ∧ m1f (.vcmpNe 1 1 2 0 .fp16) 0x7C01 0 0 = (1, fNV) := by decide +kernel

theorem test_permutations : v0f (.vsel 0 1 2 1 .int32) 0 0x00000004_00000003_00000002_00000001 0x00000008_00000007_00000006_00000005 5 = (0x00000008_00000003_00000006_00000001, 0) ∧
    v0f (.vsplat 0 1 0 .int32) 0 0 0 0 = (0x00000005_00000005_00000005_00000005, 0) ∧
    v0f (.vperm 0 1 2 0 .int32) 0 0x00000004_00000003_00000002_00000001 0x00000004_00000000_00000001_00000003 0 = (0x00000000_00000001_00000002_00000004, 0) ∧
    v0f (.vcomp 0 1 1 .int32) 0xFF 0x00000004_00000003_00000002_00000001 0 0xA = (0x00000000_00000000_00000004_00000002, 0) ∧
    v0f (.vexpd 0 1 1 .int32) 0xFF 0x00000004_00000003_00000002_00000001 0 0xA = (0x00000002_00000000_00000001_00000000, 0) ∧
    v0f (.vshuf 0 1 2 0 .int32) 0 0x00000004_00000003_00000002_00000001 0x00000008_00000007_00000006_00000005 0 = (0x00000006_00000002_00000005_00000001, 0) ∧
    v0f (.vrot 0 1 1 0 .int32) 0 0x00000004_00000003_00000002_00000001 0 0 = (0x00000003_00000002_00000001_00000004, 0) ∧
    v0f (.vrev 0 1 0 .int32) 0 0x00000004_00000003_00000002_00000001 0 0 = (0x00000001_00000002_00000003_00000004, 0) ∧
    v0f (.vsetl 0 1 3 .int32) 0 0 0 0 = (0x00000005_00000000_00000000_00000000, 0) ∧
    (3 < laneCount (vregs 0 0 0 0 0) 32) ∧ tget 0 (thrAt (nx (.vgetl 9 1 0 .int16) (vregs 0 0x8000 0 0 0)) 0 0).x 9 = 0xFFFFFFFFFFFF8000 := by decide +kernel

theorem test_vector_conversions : (Fmt.int8.width ≤ Fmt.int32.width ∧ Fmt.fp16.width < Fmt.fp32.width) ∧ v0f (.vcvt 0 1 false .int32 0 .int8 true 1) 0 0x80000000_00000000_00000000 0 0 = (0, 0) ∧
    v0f (.vcvt 0 1 false .int32 0 .int8 true 0) 0 0x80 0 0 = (0xFFFFFF80, 0) ∧ v0f (.vcvt 0 1 true .int32 0 .int8 false 0) 0 0x80000000_0000007F_00000080_FFFFFFFF 0 0 = (0x807F7FFF, 0) ∧
    v0f (.vcvt 0 1 false .int32 0 .int8 false 0) 0 0x80000000_0000007F_00000080_FFFFFFFF 0 0 = (0x007F80FF, 0) ∧
    v0f (.vcvt 0 1 false .fp32 0 .fp16 false 1) 0x1111 0x3F800000_3F800000_3F800000_3F800000 0 0 = (0x3C003C00_3C003C00_00000000_00001111, 0) := by decide +kernel

theorem test_reductions : v0f (.vredadd 0 1 0 .int32) 0xFF00000000 0x00000001_00000002_00000003_FFFFFFFF 0 0 = (5, 0) ∧ v0f (.vredmax 0 1 0 .int32) 0 0x00000001_00000002_00000003_FFFFFFFF 0 0 = (3, 0) ∧
    v0f (.vredmin 0 1 0 .int32) 0 0x00000001_00000002_00000003_FFFFFFFF 0 0 = (0xFFFFFFFF, 0) ∧ v0f (.vredmin 0 1 1 .int8) 0 0 0 0 = (0x7F, 0) ∧
    v0f (.vredand 0 1 0 .int32) 0 0x00000001_00000003_00000005_FFFFFFFF 0 0 = (1, 0) ∧ v0f (.vredor 0 1 1 .int32) 0 0x00000001_00000003_00000005_FFFFFFFF 0 0 = (0, 0) ∧
    ((List.range (laneCount (vregs 0 0 0 0 4) 32)).filter (on (readM (vregs 0 0 0 0 4) 1)) = [2] ∧ v0f (.vredmax 0 1 1 .fp32) 0 0x7FC00000_00000001_00000000_00000000 0 4 = (1, 0)) ∧
    ((List.range (laneCount (vregs 0 0 0 0 0) 32)).filter (on (readM (vregs 0 0 0 0 0) 0)) = [0, 1, 2, 3] ∧ laneCount (vregs 0 0 0 0 0) 32 = 4) ∧
    v0f (.vredadd 0 1 0 .fp32) 0 0x33800000_33800000_BF800000_3F800000 0 0 = (0x34000000, 0) := by decide +kernel

theorem test_dots : v0f (.vdot4 0 1 2 0 .int8) 0x00000000_00000000_00000000_00000001 0x01010101 0xFF020304 0 = (9, 0) ∧ v0f (.vdot4 0 1 2 0 .uint8) 0 0x01010101 0xFF020304 0 = (0x108, 0) ∧
    v0f (.vdota 0 1 2 1 .int8) 0x00000005_00000000_00000000_00000001 0x0101_01010101_01010101 0x0101_01010101_01010101 0xFFFE = (0x00000005_00000000_00000000_0000000A, 0) ∧
    v0f (.vdot4 0 1 2 0 (.b8 true true 4)) 0x3F800000 0x40404040 0x40404040 0 = (0x40A00000, 0) ∧ v0f (.vdota 0 1 2 0 (.b8 true true 4)) 0 0x4040 0x4040 0 = (0x40000000, 0) := by decide +kernel

theorem test_masks : (thrAt (nx (.mand 1 1 2) (vregs 0 0 0 0 0xFF)) 0 0).m1 = 0xF0 ∧ (thrAt (nx (.mor 3 1 2) (vregs 0 0 0 0 0xF00F)) 0 0).m3 = 0xF0FF ∧ (thrAt (nx (.mnot 1 1) (vregs 0 0 0 0 0xFF)) 0 0).m1 = 0xFF00 ∧
    (thrAt (nx (.mnot 0 1) (vregs 0 0 0 0 0xFF)) 0 0) = thrAt (vregs 0 0 0 0 0xFF) 0 0 ∧ tget 0 (thrAt (nx (.mpopc 9 1 2) (vregs 0 0 0 0 0xFFF3)) 0 0).x 9 = 2 ∧
    tget 0 (thrAt (nx (.mfirst 9 1 2) (vregs 0 0 0 0 0xFFF0)) 0 0).x 9 = 4 ∧ tget 0 (thrAt (nx (.mfirst 9 1 0) (vregs 0 0 0 0 0xFFF0)) 0 0).x 9 = 4 ∧
    (thrAt (nx (.mset 1 1) (vregs 0 0 0 0 0xFF)) 0 0).m1 = 5 ∧ tget 0 (thrAt (nx (.mget 9 1) (vregs 0 0 0 0 0xFF)) 0 0).x 9 = 0xFF := by decide +kernel

theorem test_block_sums : v0f (.bsalign 0 1) 0x8000000000000000_0000000000000000 0x0000000000000003_0000000000000007 0 0 = (0x0000000000000003_0000000000000007, 0) ∧
    v0f (.bsalign 0 1) 0x0000000000000003_0000000000000001 0x0000000000000003_FFFFFFFFFFFFFFFF 0 0 = (0x0000000000000003_0000000000000000, 0) ∧
    (lane (oldV (vregs 0x8000000000000000_0000000000000000 0 0 0 0) 0) 64 1 = 2 ^ 63 ∧ lane (oldV (vregs 0x0000000000000003_0000000000000001 0 0 0 0) 0) 64 1 = 3) ∧
    v0f (.bsnormR 0 1 0) 0x22222222_33333333 0x0000000000000001_0000000000000003 0 0 = (0x22222222_40C00000, 0) ∧
    v0f (.bsnormR 0 1 0) 7 0x8000000000000000_0000000000000003 0 0 = (0, 0) ∧ v0f (.bsnormR 0 1 1) 7 3 0 0 = (7, 0) ∧ (on (readM (vregs 0 0 0 0 0) 0) 0 = true ∧ on (readM (vregs 0 0 0 0 0) 1) 0 = false) := by
  decide +kernel

/-- A BS64 value: I in bits 63 to 24, E in bits 15 to 0 (R50). -/
theorem test_block_lanes : v0f (.scaccL 0 1 2 0) 0x3F800000 0x3000001 0x40000000 0 = (0x00000000_00000000_00000000_41500000, 0) ∧
    v0f (.scaccH 0 1 2 0) 0 0x3000001 0x40000000_0000000000000000 0 = (0x41400000_0000000000000000, 0) ∧ v0f (.bsnormL 0 1 0) 0 0x3000001 0 0 = (0x40C00000, 0) ∧
    v0f (.bsnormH 0 1 0) 0 0x3000001 0 0 = (0x40C00000_0000000000000000, 0) := by decide +kernel

/-! ## The units -/

/-- A reciprocal of x1 under way, its result due at cycle 92, for thread 7 in slot 0 and x9. -/
noncomputable def rcpReq : SfuReq := ⟨0, 7, 0xFF8, 2, .fp32, false, false, 1, 0x40000000, 9, 0⟩

/-- A square root of the two lanes of v1 that m selects, for v9. -/
noncomputable def sqrtReq : SfuReq := ⟨0, 7, 0xFF8, 4, .fp32, true, false, 3, 0x40800000_40800000, 9, 0⟩

/-- A core with a queue of special functions, its head begun at cycle 82, at a given time. -/
noncomputable def sfuDev (l : List SfuReq) (time : Nat) : State :=
  dev { oneThr { thr 0 0 0 0 0 0 with marksX := markBit 9, marksV := markBit 9, v := [(9, 0x7_00000000_00000000_00000000)] } with sfu := l, sfuStart := 82, time := time }

theorem test_special_functions_enter : (coreAt (sfuDev [rcpReq, rcpReq, rcpReq] 0) 0).sfu.length < 4 ∧
    (coreAt (nx (.fexp2 9 1 .fp32) (sfuDev [rcpReq, rcpReq, rcpReq] 0)) 0).sfu.length = 4 ∧ (thrAt (nx (.fsin 8 1 .fp32) (regs 0 0 0 0 0 0)) 0 0).marksX = 0x100 ∧
    (coreAt (nx (.vfcos 8 1 1 .fp16) (vregs 0 3 0 0 5)) 0).sfu = [⟨0, 7, 0x1000, 7, .fp16, true, false, 5, 3, 8, 0⟩] := by decide +kernel

theorem test_special_functions_finish : ((coreAt (sfuDev [rcpReq] 91) 0).sfu = rcpReq :: [] ∧ (coreAt (sfuDev [rcpReq] 91) 0).time < 82 + 1 + 10 - 1 ∧
      gives (.sfuResult 0) (sfuDev [rcpReq] 91) (sfuDev [rcpReq] 91) = true) ∧
    (isThread (sfuDev [rcpReq] 92) 0 0 7 = true ∧ (rcpReq.dest.toNat < 16 ∧ rcpReq.gang = false ∧ rcpReq.fmt = .fp32 ∧ on rcpReq.mask 0 = true) ∧
      sfuFn 2 (fmtForm .fp32) 0 true (lane rcpReq.arg 32 0) = (0x3F000000, 0) ∧ (thrAt (sfuDev [rcpReq] 92) 0 0).fen = 0) ∧
    (tget 0 (thrAt (nx (.sfuResult 0) (sfuDev [rcpReq] 92)) 0 0).x 9 = 0x3F000000 ∧ (thrAt (nx (.sfuResult 0) (sfuDev [rcpReq] 92)) 0 0).marksX = 0) ∧
    (isThread (sfuDev [{ rcpReq with uid := 8 }] 92) 0 0 8 = false ∧ (coreAt (nx (.sfuResult 0) (sfuDev [{ rcpReq with uid := 8 }] 92)) 0).sfuStart = 93) := by decide +kernel

theorem test_special_functions_lanes : (isThread (sfuDev [sqrtReq] 100) 0 0 7 = true ∧ 82 + 4 + 14 - 1 ≤ (coreAt (sfuDev [sqrtReq] 100) 0).time ∧ on sqrtReq.mask 2 = false) ∧
    tget 0 (thrAt (nx (.sfuResult 0) (sfuDev [sqrtReq] 100)) 0 0).v 9 = 0x7_00000000_40000000_40000000 ∧ (thrAt (nx (.sfuResult 0) (sfuDev [sqrtReq] 100)) 0 0).marksV = 0 := by
  decide +kernel

/-- A core whose polynomial unit has a queue, its head begun at cycle 90, and pa0 = 2 + 3z, pa1 = 1 + z. -/
noncomputable def ppaDev (l : List PpaReq) (time : Nat) : State :=
  dev { oneThr { thr 0 0 0 0 0 0 with marksX := markBit 9, marksV := markBit 9 } with
    ppa := l, ppaStart := 90, time := time, pa := [(0, { c := [(0, 0x40000000), (1, 0x40400000)], deg := 1, lim := 3 }), (1, { c := [(0, 0x3F800000), (1, 0x3F800000)], deg := 1, lim := 3 })] }

/-- An accumulator after an operation: the coefficients of 1, z, z^2, and the degree. -/
noncomputable def paAfter (op : PpaOp) (n : Nat) : List Nat × Nat :=
  let p := tget {} (coreAt (nx (.ppaOpComplete 0) (ppaDev [⟨0, 7, op, 90, 0⟩] 100)) 0).pa n
  ((List.range 3).map (coef p), p.deg)

theorem test_polynomials_enter : (coreAt (ppaDev [⟨0, 7, .norm 0, 90, 0⟩, ⟨0, 7, .norm 0, 90, 0⟩, ⟨0, 7, .norm 0, 90, 0⟩] 0) 0).ppa.length < 4 ∧ isTwin (me (ppaDev [] 0)) = false ∧
    (coreAt (nx (.ppinit 1 1) (regs 0 0xFF 0 0 0 0)) 0).ppa = [⟨0, 7, .init 1 63, 100, 0⟩] ∧ (coreAt (nx (.ppmulv 1 1 2 1) (vregs 0 5 6 0 1)) 0).ppa = [⟨0, 7, .mul 1 [(5, 6)], 100, 0⟩] ∧
    (coreAt (nx (.pprd 9 1 3 1) (vregs 0 5 6 0 2)) 0).ppa = [⟨0, 7, .read 1 3 2 9 false, 100, 0⟩] ∧ (thrAt (nx (.pprd 9 1 3 1) (vregs 0 5 6 0 2)) 0 0).marksV = 0x200 ∧
    (coreAt (nx (.ppld 1 1 3 1) (vregs 0 5 6 0 2)) 0).ppa = [⟨0, 7, .load 1 3 2 [5, 0, 0, 0], 100, 0⟩] ∧ (thrAt (nx (.ppexp 9 1) (regs 0 0 0 0 0 0)) 0 0).marksX = 0x200 := by decide +kernel

theorem test_polynomials_finish : ((coreAt (ppaDev [⟨0, 7, .norm 0, 90, 0⟩] 91) 0).ppa = ⟨0, 7, .norm 0, 90, 0⟩ :: [] ∧ (coreAt (ppaDev [⟨0, 7, .norm 0, 90, 0⟩] 91) 0).time < 90 + ppaCycles (coreAt (ppaDev [⟨0, 7, .norm 0, 90, 0⟩] 91) 0) (.norm 0) ∧
      gives (.ppaOpComplete 0) (ppaDev [⟨0, 7, .norm 0, 90, 0⟩] 91) (ppaDev [⟨0, 7, .norm 0, 90, 0⟩] 91) = true) ∧
    paAfter (.init 0 5) 0 = ([0x3F800000, 0, 0], 0) ∧ paAfter (.mul 0 [(0x3F800000, 0x3F800000)]) 0 = ([0x40000000, 0x40A00000, 0x40400000], 2) ∧
    paAfter (.merge 1 0 1) 1 = ([0x40000000, 0x40A00000, 0x40400000], 2) ∧ paAfter (.load 0 0 2 [5, 6, 0, 0]) 0 = ([0x40000000, 6, 0], 1) ∧ paAfter (.norm 1) 1 = ([0x3F800000, 0x3F800000, 0], 1) ∧
    paAfter (.div 1 0x3F800000 0x3F800000) 1 = ([0x3F800000, 0, 0], 0) := by decide +kernel

theorem test_polynomials_deliver : (isThread (ppaDev [⟨0, 7, .exp 0 9, 90, 0⟩] 91) 0 0 7 = true ∧ isTwin (thrAt (ppaDev [⟨0, 7, .exp 0 9, 90, 0⟩] 91) 0 0) = false ∧ (9 : Reg).toNat < 16) ∧
    tget 0 (thrAt (nx (.ppaOpComplete 0) (ppaDev [⟨0, 7, .exp 0 9, 90, 0⟩] 91)) 0 0).x 9 = 0x301 ∧
    tget 0 (thrAt (nx (.ppaOpComplete 0) (ppaDev [⟨0, 7, .read 0 0 3 9 false, 90, 0⟩] 91)) 0 0).v 9 = 0x40400000_40000000 ∧
    (thrAt (nx (.ppaOpComplete 0) (ppaDev [⟨0, 7, .read 0 0 3 9 false, 90, 0⟩] 91)) 0 0).marksV = 0 := by decide +kernel

theorem test_special_values : ((fp32.decode 0x7FA00000).isNan = true ∧ (0x7FA00000 : Nat) < 2 ^ 32) ∧ sfu32 0 0 true 0x7FA00000 = (0x7FC00000, fNV) ∧ sfu32 2 0 true 0x80000000 = (0xFF800000, fDZ) ∧
    sfu32 4 0 false 0x40800000 = (0x40000000, 0) ∧ sfu32 1 2 false 0x3F800000 = (0, 0) ∧ sfu32 7 1 true 0x80000000 = (0x3F800000, 0) ∧
    (0x1F800000 ≤ (0x3F800000 : BitVec 32).toNat % 2 ^ 31 ∧ (0x3F800000 : BitVec 32).toNat % 2 ^ 31 < 0x5F800000 ∧ (1 : Nat) ≤ 63 ∧ (63 : Nat) < 64) ∧
    coef (paMul (paInit 63) 0x3F800000 0x40000000) 1 = 0x40000000 := by decide +kernel

/-! ## Branches and traps -/

/-- Where a branch word of thread 0 at 0x1000 leaves the pc, and x8, with x1 and x2. -/
noncomputable def goesTo (i : Instr) (a b : W64) : W64 × W64 :=
  let t := nx i (regs 0 a b 0 0 0)
  ((thrAt t 0 0).pc, tget 0 (thrAt t 0 0).x 8)

theorem test_branches : goesTo (.beq 1 2 0x3FFF) 4 4 = (0xFF8, 0) ∧ goesTo (.beq 1 2 0x3FFF) 4 5 = (0x1008, 0) ∧ goesTo (.bne 1 2 1) 4 5 = (0x1008, 0) ∧ goesTo (.blt 1 2 2) 0xFFFFFFFFFFFFFFFF 1 = (0x1010, 0) ∧
    goesTo (.bge 1 2 2) 0xFFFFFFFFFFFFFFFF 1 = (0x1008, 0) ∧ goesTo (.bltu 1 2 2) 0xFFFFFFFFFFFFFFFF 1 = (0x1008, 0) ∧ goesTo (.bgeu 1 2 2) 0xFFFFFFFFFFFFFFFF 1 = (0x1010, 0) ∧
    goesTo (.br 0x7FFFFF none) 0 0 = (0xFF8, 0) ∧ goesTo (.br 0 (some 0x10)) 0 0 = (0x1080, 0) ∧ goesTo (.call 2 none) 0 0 = (0x1010, 0x1008) ∧ goesTo (.jr 1) 0x2000 0 = (0x2000, 0) ∧
    goesTo (.callr 1) 0x2000 0 = (0x2000, 0x1008) := by decide +kernel

theorem test_misaligned_jump : natX (regs 0 0x2004 0 0 0 0) 1 % 8 ≠ 0 ∧ gives (.callr 1) (regs 0 0x2004 0 0 0 0) (takeTrap (regs 0 0x2004 0 0 0 0) 0 0x04 0x2004) = true ∧
    goesTo (.jr 1) 0x2004 0 = (0x40100, 0) := by decide +kernel

/-- A ganged thread at level 0 with masks, whose special function is under way. -/
noncomputable def trapDev : State :=
  dev { oneThr { thr 0 0 0 0 0 0 with mode := 9, m1 := 1, m2 := 2, m3 := 3 } with
    threads := [(0, { thr 0 0 0 0 0 0 with mode := 9, m1 := 1, m2 := 2, m3 := 3 }), (1, { slot := .ganghigh, uid := 8, ctx := 1 })], sfu := [rcpReq, { rcpReq with uid := 9 }] }

theorem test_trap : (isTwin (thrAt trapDev 0 0) = false ∧ (thrAt trapDev 0 0).cmp = [] ∧ (thrAt trapDev 0 0).resv = [] ∧ (thrAt trapDev 0 0).tl < 2 ∧ referred trapDev 1 0x13 = false) ∧
    (takeTrap trapDev 0 0x13 6).iss.phase = .trapped ∧ thrAt (takeTrap trapDev 0 0x13 6) 0 0 = { thrAt trapDev 0 0 with
      tl := 1, mode := 8, pc := 0x404C0, l1 := ⟨0x1000, 0x213, 6, 0x0009000300020001⟩ } ∧
    (thrAt (takeTrap trapDev 0 0x13 6) 0 1).slot = .split ∧ (coreAt (takeTrap trapDev 0 0x13 6) 0).sfu = [{ rcpReq with uid := 9 }, rcpReq] ∧
    (thrAt (trapOutside trapDev 0 0 0x07 6) 0 0).l1.epc = 0x1008 := by decide +kernel

/-- A thread at level 1 whose context refers cause 0x13, and one at level 2. -/
noncomputable def referDev : State := { dev (oneThr { thr 0 0 0 0 0 0 with tl := 1 }) with ctxs := [(1, { ctx1 with refer := 0x80000, supcore := 3 })] }
noncomputable def level2 : State := dev (oneThr { thr 0 0 0 0 0 0 with tl := 2 })

theorem test_referred_trap : (isTwin (me referDev) = false ∧ (me referDev).resv = [] ∧ (me referDev).tl < 2 ∧ referred referDev 1 0x13 = true ∧ mboxById referDev 3 0 = none) ∧
    ((thrAt (takeTrap referDev 0 0x13 6) 0 0).park = some ⟨.supervisor, 100, 0, 0⟩ ∧ (thrAt (takeTrap referDev 0 0x13 6) 0 0).l2 = ⟨0x1000, 0x13, 6, 0⟩ ∧
      (takeTrap referDev 0 0x13 6).sups.map (fun m => (m.ctx, m.core, m.words.drop 1)) = [(1, 3, [BitVec.ofNat 64 (2 * 2 ^ 38 + 2 ^ 37 + 0x13 * 2 ^ 29 + 1), 0x1000, 6])]) ∧
    ((me level2).resv = [] ∧ 2 ≤ (me level2).tl) ∧ (ctxAt (takeTrap level2 0 0x13 6) 1).st = .killed := by decide +kernel

theorem test_rett : ((me (regs 0 0 0 0 0 0)).tl = 0 ∧ (me referDev).tl ≠ 0) ∧ gives .rett (regs 0 0 0 0 0 0) (takeTrap (regs 0 0 0 0 0 0) 0 1 0) = true ∧
    oneThread .rett (dev (oneThr { thr 0 0 0 0 0 0 with tl := 2, l2 := ⟨0x2000, 0, 0, 0x0001000300020001⟩ })) 0 0
      { thr 0 0 0 0 0 0 with tl := 1, l2 := ⟨0x2000, 0, 0, 0x0001000300020001⟩, m1 := 1, m2 := 2, m3 := 3, pc := 0x2000 } = true ∧
    gives (.trap 5) (regs 0 0 0 0 0 0) (takeTrap (regs 0 0 0 0 0 0) 0 0x13 5) = true := by decide +kernel

/-- Thread 0 with some events and tags. -/
noncomputable def tagDev : State := dev { oneThr { thr 0 3 4 0 0 0 with events := 3, tags := 6, tagerr := 2 } with clock := 0x50000 }

theorem test_event_words : (isTwin (me tagDev) = false ∧ isTrail (me tagDev) = false ∧ (me tagDev).reply = none) ∧ tget 0 (thrAt (nx (.waitev 9 1) tagDev) 0 0).x 9 = 3 ∧
    ((thrAt tagDev 0 0).events &&& (readX tagDev 2).extractLsb' 0 4 = 0) ∧ (thrAt (nx (.waitev 9 2) tagDev) 0 0).park = some ⟨.event, 100, 4, 0⟩ ∧ (nx (.waitev 9 2) tagDev).iss.phase = .held ∧
    (thrAt (nx .yield tagDev) 0 0).busyTil = 116 ∧ (coreAt (nx (.tstamp 9) tagDev) 0).clock = 0x50001 ∧ tget 0 (thrAt (nx (.tstamp 9) tagDev) 0 0).x 9 = 0x50001 ∧
    (coreAt tagDev 0).clock.toNat < 2 ^ 64 - 1 ∧ (thrAt (nx (.waitev 9 1) (dev (oneThr { thr 0 3 0 0 0 0 with reply := some 0 }))) 0 0).x.length = 7 := by decide +kernel

theorem test_tag_words : (readX tagDev 1 ≠ 0 ∧ (me tagDev).tags &&& readX tagDev 1 ≠ 0) ∧ tget 0 (thrAt (nx (.cpwaitany 9 1) tagDev) 0 0).x 9 = 2 ∧ (me tagDev).tags &&& readX tagDev 1 ≠ readX tagDev 1 ∧
    (thrAt (nx (.cpwaitall 1) tagDev) 0 0).park = some ⟨.engine, 100, 3, 2⟩ ∧ ((me tagDev).tags &&& readX tagDev 2 = readX tagDev 2 ∧ gives (.cpwaitall 2) tagDev tagDev = true) ∧
    tget 0 (thrAt (nx (.cpfirst 9 1) tagDev) 0 0).x 9 = 1 ∧ tget 0 (thrAt (nx (.cpfirst 9 0) tagDev) 0 0).x 9 = 64 ∧ oneThread (.cpclr 1) tagDev 0 0 { thrAt tagDev 0 0 with tags := 4, tagerr := 0 } = true ∧
    ((me (regs 0 8 0 0 0 0)).tags &&& readX (regs 0 8 0 0 0 0) 1 = 0 ∧ (thrAt (nx (.cpwaitany 9 1) (regs 0 8 0 0 0 0)) 0 0).park = some ⟨.engine, 100, 8, 1⟩) := by decide +kernel

theorem test_state_registers : isTwin (me tagDev) = false ∧ [SReg.tid, .time, .tags, .tagerr, .events, .fewait, .qwatch, .lease, .pdeg, .hbase, .part, .cappool, .capslice, .caphbm, .ctx].map
      (fun r => tget 0 (thrAt (nx (.gets 9 r) tagDev) 0 0).x 9) = [0, 100, 6, 2, 3, 0x01000000, 0x00100000, 0, 0x3F, 0x40000, 0x1104, 20, 32, 0x00024000000000C0, 1] := by decide +kernel

theorem test_sets : oneThread (.sets .tagerr 1) tagDev 0 0 { thrAt tagDev 0 0 with tagerr := 0 } = true ∧ oneThread (.sets .epc1 1) tagDev 0 0 { thrAt tagDev 0 0 with l1 := { epc := 0 } } = true ∧
    oneThread (.sets .fenab 1) (regs 0 0xFFFFFFFFFFFFFFFF 0 0 0 0) 0 0 { thrAt (regs 0 0xFFFFFFFFFFFFFFFF 0 0 0 0) 0 0 with rm := 3, fen := 31 } = true ∧
    oneThread (.sets .estat1 1) (regs 0 0xFFFFFFFFFFFFFFFF 0 0 0 0) 0 0 { thrAt (regs 0 0xFFFFFFFFFFFFFFFF 0 0 0 0) 0 0 with l1 := { estat := 0x0000FFFFFFFFFFFF } } = true ∧
    oneThread (.sets .seat 1) tagDev 0 0 (thrAt tagDev 0 0) = true ∧ (coreAt (nx (.sets .qwatch 1) tagDev) 0).qwatch = 3 ∧
    (privileged tagDev (was tagDev) = false ∧ gives (.sets .hbase 1) tagDev (takeTrap tagDev 0 0x02 0) = true) ∧
    (privileged (devP (oneThr (thr 0 0x12345 0 0 0 0))) (was (devP (oneThr (thr 0 0x12345 0 0 0 0)))) = true ∧ (thrAt (nx (.sets .hbase 1) (devP (oneThr (thr 0 0x12345 0 0 0 0)))) 0 0).hbase = 0x12000) := by
  decide +kernel

theorem test_user_privilege : privileged tagDev (was tagDev) = false ∧ gives (.bankq 9 1) tagDev (takeTrap tagDev 0 0x02 0) = true ∧ gives (.mapset 9 1 2) tagDev (takeTrap tagDev 0 0x02 0) = true := by
  decide +kernel

/-- A thread parked since cycle 40 for a reason, with a wait limit of 60. -/
noncomputable def parkedDev (r : Reason) (obj aux : W64) (til time : Nat) : State :=
  dev { oneThr { thr 0 0 0 0 0 0 with slot := .parked, park := some ⟨r, 40, obj, aux⟩, fewait := 60, busyTil := til } with time := time }

theorem test_counts : (thrAt (parkedDev .busy 0 0 101 100) 0 0).slot = .parked ∧ gives (.dividerDone 0 0) (parkedDev .busy 0 0 101 100) (parkedDev .busy 0 0 101 100) = true ∧
    (thrAt (nx (.dividerDone 0 0) (parkedDev .busy 0 0 100 100)) 0 0).slot = .ready ∧ (thrAt (nx (.yieldExpiry 0 0) (parkedDev .busy 0 1 100 100)) 0 0).slot = .ready ∧
    gives (.eventTimeout 0 0) (parkedDev .event 4 0 0 99) (parkedDev .event 4 0 0 99) = true ∧ (thrAt (nx (.eventTimeout 0 0) (parkedDev .event 4 0 0 100)) 0 0).reply = some 0 ∧
    gives (.cpwTimeout 0 0) (parkedDev .engine 8 1 0 100) (parkedDev .engine 8 1 0 100) = true ∧
    ((thrAt (nx (.cpwTimeout 0 0) (parkedDev .engine 8 1 0 101)) 0 0).l1 = ⟨0x1008, 0x0E, 8, 0⟩ ∧ (thrAt (nx (.cpwTimeout 0 0) (parkedDev .engine 8 1 0 101)) 0 0).pc = 0x40380) := by decide +kernel

/-! ## Reset, memory, bundles -/

theorem test_memory : Memory.wf State.reset ∧ State.reset.feWait = [] ∧ readBytes (writeBytes {} 5 8 0x1122334455667788) 5 8 = 0x1122334455667788 ∧
    readByte (writeBytes {} 5 8 0x1122334455667788) 5 = 0x88 ∧ readByte (writeBytes {} 5 8 0x1122334455667788) 4 = 0 ∧ (writeBytes (writeBytes {} 5 2 0x1122) 5 2 0).mem = [] ∧
    isEmpty (storeAt none { empties := [0, 1, 2] } 8 1 0x11) 1 = false ∧ isEmpty (storeAt none { empties := [0, 1, 2] } 8 1 0x11) 2 = true := by decide +kernel

/-- 64 bits decode to a bundle, or are refused for a reason. -/
noncomputable def decodes (gang : Bool) (w : W64) (b : Bundle) : Bool := match decodeBundle gang w with
  | .ok x => decide (x = b)
  | .error _ => false
noncomputable def rejects (gang : Bool) (w : W64) (e : Illegal) : Bool := match decodeBundle gang w with
  | .ok _ => false
  | .error x => decide (x = e)

theorem test_encodings : bundleOk false ⟨true, .ldw 4 9 (.short 2) .plain, .addi 5 5 1⟩ = true ∧ encodeBundle ⟨true, .ldw 4 9 (.short 2) .plain, .addi 5 5 1⟩ = some 0x10A500014E224002 ∧
    decodes false 0x10A500014E224002 ⟨true, .ldw 4 9 (.short 2) .plain, .addi 5 5 1⟩ = true ∧ bundleOk true ⟨false, .nop, .vgetl 1 2 15 .fp16⟩ = true := by decide +kernel

/-- The device that is about to fetch ADDI x5, x5, 1 beside NOP. -/
noncomputable def placed : State := State.reset.withFetchWord 64 0x10A5000100000000
/-- What the fetch leaves. -/
noncomputable def fetched : State := (fetch placed 0 0).2
/-- The bundle under way. -/
noncomputable def running : State := issued fetched 0 0 0x10A5000100000000

theorem test_step_hypotheses : placed.agenda = [] ∧ (clockRuns placed 0 = true ∧ dueEvents placed 0 sfuEnd ppaEnd = [] ∧ settleShoots (wakePorts (wakeAnswered (leaseTick placed 0) 0) 0) 0 = placed ∧ modCore placed 0 (fun k => { k with wrote := [] }) = placed ∧
      highHalf (coreAt placed 0) = false ∧ 0 = (coreAt placed 0).time % 16 ∧ eligible placed 0 0 = true) ∧
    (isTwin (thrAt placed 0 0) = false ∧ isTrail (thrAt placed 0 0) = false ∧ (thrAt placed 0 0).accs = [] ∧ (thrAt placed 0 0).inside = none ∧ (thrAt placed 0 0).keep = none ∧ (thrAt placed 0 0).late = [] ∧
      (thrAt placed 0 0).traps = [] ∧ noMarks (thrAt placed 0 0) = true) ∧ (fetch placed 0 0).1 = .word 0x10A5000100000000 ∧ thrAt fetched 0 0 = thrAt placed 0 0 ∧
    decodes (isGang (thrAt placed 0 0)) 0x10A5000100000000 ⟨false, .nop, .addi 5 5 1⟩ = true ∧ bits 0x10A5000100000000 24 6 ≠ 0x2A ∧ portUses ⟨false, .nop, .addi 5 5 1⟩ = [] ∧
    actsLast (resolve running .nop) = false := by decide +kernel

theorem test_step : Memory.wf placed ∧ gives (.addi 5 5 1) running (nx (.addi 5 5 1) running) = true ∧ (nx (.addi 5 5 1) running).iss.phase = .going ∧ (retire (nx (.addi 5 5 1) running)).iss.phase ≠ .parked ∧
    (match step { placed with agenda := [.turn 0] } with
      | .next t => decide (t = modCore { markIssue (retire (nx (.addi 5 5 1) running)) 0 0 (thrAt placed 0 0) with iss := {} } 0 (fun k => { k with time := k.time + 1 }))
      | _ => false) = true := by decide +kernel

/-- What the issue of a bundle by thread 0 answers. -/
noncomputable def issues (s : State) (w : W64) : State := match issueWord exec s 0 0 w with
  | .next t => t
  | _ => {}

/-- A thread with x4 and v4 marked. -/
noncomputable def markedDev : State := dev (oneThr { thr 0 0 0 0 0 0 with marksX := 0x10, marksV := 0x10 })

theorem test_bundle_traps : (bits 0x2A000000 24 6 = 0x2A ∧ privileged markedDev (thrAt markedDev 0 0) = false) ∧ issues markedDev 0x2A000000 = takeTrap (beginIssue markedDev 0 0 0x2A000000 false) 0 0x02 0 ∧
    (bits 0xFC00000000000000 24 6 ≠ 0x2A ∧ rejects false 0xFC00000000000000 ⟨1, .reservedMajor⟩ = true) ∧
    issues markedDev 0xFC00000000000000 = takeTrap (beginIssue markedDev 0 0 0xFC00000000000000 false) 1 0x01 0 := by decide +kernel

theorem test_unsettled : decodes false 0x1084000100000000 ⟨false, .nop, .addi 4 4 1⟩ = true ∧ bundleUses ⟨false, .nop, .addi 4 4 1⟩ = [] ++ (1, sW 4) :: [(1, sR 4)] ∧ (sW 4).cls = .scalar ∧
    (thrAt markedDev 0 0).marksX.getLsbD (sW 4).num.toNat = true ∧ issues markedDev 0x1084000100000000 = takeTrap (beginIssue markedDev 0 0 0x1084000100000000 false) 1 0x03 4 ∧
    markOf (thrAt markedDev 0 0) (vR 4) = some 36 := by decide +kernel

/-- The leading thread of a twin, and the trailing one beside it, with a load-value queue. -/
noncomputable def twinDev (mine : Nat) (q : List (Nat × Option W256)) : State :=
  { dev (oneThr {}) with
    cores := [(0, { oneThr {} with threads := [(0, { thr 0 0 0 0 0 0 with mode := 2, lvq := q, tags := 5 }), (1, { thr 0 0 0 0 0 0 with slot := .trailing, uid := 8, mode := 6 })] })]
    iss := { slot := mine, pc := 0x1000, word := 0x55, phase := .going } }

theorem test_twin_reads : (isTwin (me (twinDev 0 [])) = true ∧ isTrail (me (twinDev 0 [])) = false ∧ (me (twinDev 0 [])).lvq.length < 32 ∧ (List.range 2).all (fun v => !parkedFor (thrAt (twinDev 0 []) 0 v) .twin) = true) ∧
    oneThread (.gets 9 .tags) (twinDev 0 []) 0 0 { me (twinDev 0 []) with x := [(0, 0), (1, 0), (2, 0), (3, 0), (4, 0), (5, 0), (9, 5)], lvq := [(0, some 5)] } = true ∧
    (32 ≤ (me (twinDev 0 (List.replicate 32 (0, some 0)))).lvq.length ∧ (thrAt (nx (.gets 9 .tags) (twinDev 0 (List.replicate 32 (0, some 0)))) 0 0).park = some ⟨.twin, 100, 0, 0⟩) ∧
    (isTrail (me (twinDev 1 [])) = true ∧ 0 < (twinDev 1 []).iss.slot ∧ (thrAt (nx (.gets 9 .tags) (twinDev 1 [])) 0 1).slot = .parked) ∧
    ((thrAt (twinDev 1 [(0, some 7), (0, some 8)]) 0 0).lvq = (0, some 7) :: [(0, some 8)] ∧ tget 0 (thrAt (nx (.gets 9 .tags) (twinDev 1 [(0, some 7), (0, some 8)])) 0 1).x 9 = 7 ∧
      (thrAt (nx (.gets 9 .tags) (twinDev 1 [(0, some 7), (0, some 8)])) 0 0).lvq = [(0, some 8)]) := by decide +kernel

theorem no_twin_waits (v : Nat) : parkedFor (thrAt (twinDev 0 []) 0 v) .twin = false :=
  tget_ind (fun th => parkedFor th .twin = false) _ (by decide) _ (by decide) v

/-! ## Addresses -/

/-- A device whose context 1 has a table: page 1 (of 2 MiB) of every right, 2 moving, 3 of no right, 4 of a frame that is not there, 5 malformed, 6 of a die that is not
ready; the table of 2^39 on that die. Device 3 is UP, 4 FAILED. -/
noncomputable def mapped (k : Core) : State :=
  let s := { dev k with ctxs := [(1, { ctx1 with groot := 0x10000 })], dierdy := 1, routes := [(3, 1 <<< 62), (4, 2 <<< 62)] }
  let s := placeBytes (placeBytes (placeTables s) 0x14020 (0x400000 + 0x1F + 2 ^ 46)) 0x14030 0x600003
  placeBytes (placeBytes (placeBytes (placeBytes s 0x14040 0xA00000001F) 0x14050 (2 ^ 43 + 3)) 0x14060 0x240000001F) 0x10010 0x2400000001

/-- The thread of that device, and what it may do. -/
noncomputable def mappedDev : State := mapped (oneThr (thr 0 0 0 0 0 0))
noncomputable def whoMe : Who := whoOf mappedDev 0 0
noncomputable def rRead : Rights := { r := true }
/-- What a load of 8 bytes translates to. -/
noncomputable def xl (a : W64) : Xl := (translate mappedDev whoMe rRead a 8).1

theorem test_windows : (straddles 0x0000DFFFFFFFFFFC 8 = true ∧ xl 0x0000DFFFFFFFFFFC = .trap 0x05) ∧ (prefixOk mappedDev 0 0xFFFF000000000000 = false ∧ xl 0xFFFF000000000000 = .trap 0x08) ∧
    (prefixOk mappedDev 0 0x2001D00000000000 = true ∧ winOf 0x2001D00000000000 = 0xD ∧ xl 0x2001D00000000000 = .trap 0x08) ∧ (winOf 0x0000C00000000000 = 0xC ∧ xl 0x0000C00000000000 = .trap 0x09) ∧
    (winOf 0x0000E00080000000 = 0xE ∧ xl 0x0000E00080000000 = .trap 0x06) ∧ (shareBytes (coreAt mappedDev 0) = 0x10000 ∧ xl 0x0000E00000010000 = .trap 0x0A) ∧
    xl 0x0000E0000000FFF8 = .reaches (.here (scratchLoc 0 0xFFF8)) [] ∧ xl 0x0000D00002000000 = .trap 0x0A ∧ (liveFor mappedDev 1 1 = false ∧ xl 0x0000D00000100000 = .trap 0x07) ∧
    (liveFor mappedDev 0 1 = true ∧ xl 0x0000D00000010000 = .trap 0x0A) ∧ xl 0x0000D0000000FFF8 = .reaches (.here (scratchLoc 0 0xFFF8)) [] := by decide +kernel

theorem test_other_devices : (prefixOk mappedDev 0 0x8003000000000000 = true ∧ vLevel 0x8003000000000000 = 4 ∧ vIndex 0x8003000000000000 = 3 ∧ seatDevice whoMe.seat = 0) ∧
    xl 0x8003000000000000 = .reaches (.peer 3 0x8003000000000000) [] ∧ xl 0x8004000000000000 = .trap 0x07 := by decide +kernel

theorem test_tables : (straddles 0x200008 8 = false ∧ prefixOk mappedDev 0 0x200008 = true ∧ winOf 0x200008 ≤ 0xB ∧ vLevel 0x200008 < 4 ∧ seatCluster whoMe.seat < 160 ∧ tlbOf mappedDev whoMe = []) ∧
    (leafGlobal mappedDev 1 0xE00000 = .absent ∧ xl 0xE00000 = .trap 0x09) ∧ (leafGlobal mappedDev 1 0xA00000 = .bad ∧ xl 0xA00000 = .trap 0x0A) ∧
    (leafGlobal mappedDev 1 0x8000000000 = .wait none ∧ xl 0x8000000000 = .wait none) ∧ (leafGlobal mappedDev 1 0x400000 = .leaf 0x14020 (0x400000 + 0x1F + 2 ^ 46) 0 21 ∧ xl 0x400000 = .wait none) ∧
    (leafGlobal mappedDev 1 0x600000 = .leaf 0x14030 0x600003 0 21 ∧ xl 0x600000 = .trap 0x0A) ∧
    (leafGlobal mappedDev 1 0x200008 = .leaf 0x14010 0x20001F 0 21 ∧ answerOf mappedDev 0x200008 = .now ∧ xl 0x200008 = .reaches (.here 0x200008) [⟨1, none, 0x200000, 21⟩]) ∧
    (answerOf mappedDev 0x2400000000 = .wait none ∧ xl 0xC00000 = .wait none) ∧ (answerOf mappedDev 0xA000000000 = .unbacked ∧ xl 0x800000 = .trap 0x0A) := by decide +kernel

/-! ## Accesses -/

/-- Thread 0 with x1 at an offset of its scratchpad and x2 = 0x1122334455667788. -/
noncomputable def memDev (o : W64) : State := regs 0 (0x0000E00000000000 + o) 0x1122334455667788 0 0 0

theorem test_loads : (isTwin (me (memDev 0)) = false ∧ isTrail (me (memDev 0)) = false ∧ accessReady (memDev 0) .plain = true) ∧
    (thrAt (nx (.ldh 9 1 (.short 0xFF) .plain) (memDev 8)) 0 0).accs.map (fun a => (a.op, a.addr, a.size, a.dest, a.lanes)) = [(.load true, 0x0000E00000000006, 2, .scalar 9, [⟨0, .here (scratchLoc 0 6), 0⟩])] ∧
    (thrAt (nx (.ldwu 9 1 (.short 1) .plain) (memDev 8)) 0 0).marksX = 0x200 ∧ (thrAt (nx (.ldv 9 1 (.short 1) .plain) (memDev 16)) 0 0).accs.map (fun a => (a.size, a.addr, a.dest)) = [(16, 0x0000E00000000020, .vector 9)] ∧
    gives (.ldd 9 1 (.short 0) .plain) (memDev 1) (takeTrap { memDev 1 with fresh := 0 } 0 0x04 0x0000E00000000001) = true ∧
    (accessReady (dev (oneThr { thr 0 0 0 0 0 0 with accs := [⟨1, 0, 0, .store, .plain, 0, 8, .none, [], [], none, .travel, [], 0, 0, false⟩] })) .plain = false) := by decide +kernel

theorem test_gather : (thrAt (nx (.vgath 9 1 2 .plain 2 1 none) (dev (oneThr { thr 0 0x0000E00000000100 0 0 0 0 with v := [(2, 0x00000000_FFFFFFFF_00000002_00000001)], m1 := 5 }))) 0 0).accs.map
      (fun a => a.lanes.map (fun l => (l.off, l.place))) = [[(0, .here (scratchLoc 0 0x104)), (8, .here (scratchLoc 0 0xFC))]] ∧
    (thrAt (nx (.vscat 2 1 2 .plain 2 1 none) (dev (oneThr { thr 0 0x0000E00000000100 0 0 0 0 with v := [(2, 0x00000000_FFFFFFFF_00000002_00000001)], m1 := 5 }))) 0 0).accs.map
      (fun a => a.lanes.map (·.data)) = [[1, 0xFFFFFFFF]] := by decide +kernel

theorem test_stores : (thrAt (nx (.sth 2 1 (.short 1) .plain) (memDev 8)) 0 0).accs.map (fun a => (a.op, a.addr, a.size, a.dest, a.lanes)) = [(.store, 0x0000E0000000000A, 2, .none, [⟨0, .here (scratchLoc 0 10), 0x7788⟩])] ∧
    ((coreAt (memDev 8) 0).loose.length + 1 * 1 ≤ 32 ∧ (coreAt (nx (.std 2 1 (.long 8) .loose) (memDev 8)) 0).loose.map (fun e => (e.place, e.size, e.data)) = [(.here (scratchLoc 0 16), 8, 0x1122334455667788)]) ∧
    (thrAt (nx (.std 2 1 (.short 0) .loose) (dev { oneThr (thr 0 0x0000E00000000000 0 0 0 0) with loose := List.replicate 32 ⟨1, 0, 0, .here 0, 8, 0, 1, 7, 0, []⟩ })) 0 0).park = some ⟨.access, 100, 0, 0⟩ := by decide +kernel

theorem test_atomics : (thrAt (nx (.amocas 9 1 2 .plain true none) (memDev 8)) 0 0).accs.map (fun a => (a.op, a.size, a.dest, a.lanes.map (·.data))) = [(.amo 9 0, 4, .scalar 9, [0x55667788])] ∧
    (thrAt (nx (.stdX 2 1 (.rel .die) none) (memDev 8)) 0 0).accs.map (·.op) = [.feStore true] ∧ (thrAt (nx (.fempty 1 .plain none) (memDev 8)) 0 0).accs.map (fun a => (a.op, a.size)) = [(.feEmpty, 8)] := by decide +kernel

/-- An access of thread 0 at location 0x40. -/
noncomputable def acc (op : AccOp) (ord : Order) (n : Nat) (d : Dest) (data : Nat) : Access :=
  { id := 3, stamp := 0, pc := 0, op := op, order := ord, addr := 0x40, size := n, dest := d, lanes := [⟨0, .here 0x40, data⟩] }

/-- A device whose thread 0 has one access outstanding, with 0x8081828384858687 at 0x40. -/
noncomputable def accDev (a : Access) : State := placeBytes (dev (oneThr { thr 0 0 0 0 0 0 with accs := [a], marksX := markBit 9, marksV := markBit 9 })) 0x40 0x8081828384858687

theorem test_pieces : ((coreAt (accDev (acc .store .plain 4 .none 5)) 0).loose = [] ∧ (accDev (acc .store .plain 4 .none 5)).feWait = []) ∧
    (performLane (accDev (acc .loadV .plain 4 .none 0)) 0 0 (acc .loadV .plain 4 .none 0) ⟨0, .here 0x40, 0⟩).1 = 0x84858687 ∧
    readBytes (performLane (accDev (acc .store (.rel .core) 4 .none 5)) 0 0 (acc .store (.rel .core) 4 .none 5) ⟨0, .here 0x40, 5⟩).2 0x40 8 = 0x8081828300000005 ∧
    recordOf (performLane (accDev (acc .store (.rel .core) 4 .none 5)) 0 0 (acc .store (.rel .core) 4 .none 5) ⟨0, .here 0x40, 5⟩).2 8 = some 0 ∧
    (List.range 10).map (fun op => readBytes (performLane (accDev (acc (.amo op 0x84858687) .plain 4 .none 5)) 0 0 (acc (.amo op 0x84858687) .plain 4 .none 5) ⟨0, .here 0x40, 5⟩).2 0x40 4) =
      [0x8485868C, 5, 0x84858687, 0x84858682, 0x84858687, 5, 5, 0x84858687, 5, 5] := by decide +kernel

theorem test_arrivals : ((thrAt (accDev (acc (.load true) .plain 4 (.scalar 9) 0)) 0 0).accs = [acc (.load true) .plain 4 (.scalar 9) 0] ∧ (acc (.load true) .plain 4 (.scalar 9) 0).lanes = [⟨0, .here 0x40, 0⟩] ∧
      (acc (.load true) .plain 4 (.scalar 9) 0).result = none ∧ (acc (.load true) .plain 4 (.scalar 9) 0).drain = [] ∧ cxlDown (accDev (acc (.load true) .plain 4 (.scalar 9) 0)) 0x40 = false ∧
      (thrAt (accDev (acc (.load true) .plain 4 (.scalar 9) 0)) 0 0).slot ≠ .parked ∧ (thrAt (accDev (acc (.load true) .plain 4 (.scalar 9) 0)) 0 0).marker = false) ∧
    oneThreadC (.accessComplete 0 0) (accDev (acc (.load true) .plain 4 (.scalar 9) 0)) 0 0 { thr 0 0 0 0 0 0 with marksV := markBit 9, x := tput (thr 0 0 0 0 0 0).x 9 0xFFFFFFFF84858687 } = true ∧
    oneThreadC (.resultArrival 0 0 0) (accDev (acc .loadV .loose 16 (.vector 9) 0)) 0 0 { thr 0 0 0 0 0 0 with marksX := markBit 9, v := [(9, 0x8081828384858687)] } = true ∧
    ((thrAt (nx (.accessComplete 0 0) (accDev (acc .store .plain 2 .none 5))) 0 0).accs = [] ∧ readBytes (nx (.accessComplete 0 0) (accDev (acc .store .plain 2 .none 5))) 0x40 8 = 0x8081828384850005) ∧
    ((nx (.accessComplete 0 0) (accDev (acc (.amo 0 0) .plain 8 (.scalar 9) 1))).idents.map (fun q => (q.stamp, q.value)) = [(0, 0x8081828384858687)] ∧
      tget 0 (thrAt (nx (.accessComplete 0 0) (accDev (acc (.amo 0 0) .plain 8 (.scalar 9) 1))) 0 0).x 9 = 0x8081828384858687) := by decide +kernel

/-- A core with a store in its loose buffer. -/
noncomputable def looseDev : State := dev { oneThr (thr 0 0 0 0 0 0) with loose := [⟨4, 0, 0, .here 0x40, 2, 0x1234, 1, 7, 0x40, []⟩] }
/-- Two threads that add to one word. -/
noncomputable def twoAdds : State := dev { oneThr {} with threads := [(0, { thr 0 0 0 0 0 0 with accs := [acc (.amo 0 0) .plain 8 (.scalar 9) 1] }), (1, { thr 0 0 0 0 0 0 with uid := 8, accs := [{ acc (.amo 0 0) .plain 8 (.scalar 9) 2 with id := 5 }] })] }

theorem test_access_events : ((coreAt looseDev 0).loose = ⟨4, 0, 0, .here 0x40, 2, 0x1234, 1, 7, 0x40, []⟩ :: [] ∧ looseDev.feWait = [] ∧ parkedFor (thrAt looseDev 0 0) .access = false) ∧
    (readBytes (nx (.looseBufferDrain 0) looseDev) 0x40 2 = 0x1234 ∧ (coreAt (nx (.looseBufferDrain 0) looseDev) 0).loose = []) ∧
    ((accDev { acc .loadV (.pacq .die) 16 (.vector 9) 0 with drain := [0] }).cores ≠ [] ∧ (thrAt (nx (.drainRequest 0 0) (accDev { acc .loadV (.pacq .die) 16 (.vector 9) 0 with drain := [0] })) 0 0).accs.map (·.drain) = [[]]) ∧
    ((thrAt twoAdds 0 0).accs = [acc (.amo 0 0) .plain 8 (.scalar 9) 1] ∧ (acc (.amo 0 0) .plain 8 (.scalar 9) 1).id ≠ 5 ∧ readBytes (nx (.amoCombine 0 0 0 1) twoAdds) 0x40 8 = 3 ∧
      gives (.amoCombine 0 0 0 1) twoAdds (perform (perform twoAdds 0 0 3) 0 1 5) = true) := by decide +kernel

theorem no_access_waits (v : Nat) : parkedFor (thrAt looseDev 0 v) .access = false :=
  tget_ind (fun th => parkedFor th .access = false) _ (by decide) _ (by decide) v

/-- The same access when the die's count is at a value. -/
noncomputable def lateDev (a : Access) (ns : Nat) : State := { accDev a with dies := [(0, { ns := ns })], idents := [⟨0, 0, 0, 9, 0, 0, 0⟩] }

theorem test_reissues : ((peerOf (acc (.load true) .plain 4 (.scalar 9) 0).lanes).isNone = true ∧ (acc (.load true) .plain 4 (.scalar 9) 0).since + 20000 ≤ (dieAt (lateDev (acc (.load true) .plain 4 (.scalar 9) 0) 20000) 0).ns) ∧
    (thrAt (nx (.requestReissue 0 0 0) (lateDev { acc (.load true) .plain 4 (.scalar 9) 0 with tries := 1, result := some [5] } 20000)) 0 0).accs = [{ acc (.load true) .plain 4 (.scalar 9) 0 with tries := 2, since := 20000, result := some [5] }] ∧
    (thrAt (nx (.requestReissue 0 0 0) (lateDev { acc .store .plain 4 .none 0 with tries := 8, result := some [5] } 20000)) 0 0).accs = [{ acc .store .plain 4 .none 0 with tries := 9, since := 20000, result := some [5] }] ∧
    (nx (.requestReissue 0 0 0) (lateDev { acc .store .plain 4 .none 0 with tries := 8, result := some [5] } 20000)).idents = [⟨0, 0, 0, 9, 0, 0, 0⟩, ⟨0, 0, 0, 0, 5, 0, 20000⟩] ∧
    gives (.requestFail 0 0 0) (lateDev { acc (.load true) .plain 4 (.scalar 9) 0 with tries := 2 } 20000) (ueKill (lateDev { acc (.load true) .plain 4 (.scalar 9) 0 with tries := 2 } 20000) 0 0) = true ∧
    ((lateDev (acc .store .plain 4 .none 0) 200000).idents[0]? = some ⟨0, 0, 0, 9, 0, 0, 0⟩ ∧ (nx (.identityExpiry 0) (lateDev (acc .store .plain 4 .none 0) 200000)).idents = []) := by decide +kernel

theorem test_full_empty_words : (ganged (memDev 8) = false ∧ (me (memDev 8)).reply = none ∧ (me (memDev 8)).accs = [] ∧ (memDev 8).drainReq = []) ∧ (nx (.ldwF 9 1 .plain none) (memDev 8)).iss.phase = .held ∧
    (thrAt (nx (.lddT 9 1 .plain none) (memDev 8)) 0 0).accs.map (fun a => (a.op, a.size, a.dest)) = [(.feLoad true, 8, .none)] ∧ (thrAt (nx (.ldwF 9 1 .loose none) (memDev 8)) 0 0).accs.map (·.dest) = [.scalar 9] ∧
    (thrAt (nx (.stwE 2 1 .plain none) (memDev 8)) 0 0).accs.map (fun a => a.lanes.map (·.data)) = [[0x55667788]] ∧
    tget 0 (thrAt (nx (.fstat 9 1 .plain none) (dev (oneThr { thr 0 0 0 0 0 0 with reply := some 1 }))) 0 0).x 9 = 1 ∧
    (thrAt (nx (.stdE 2 1 .plain none) (dev (oneThr { thr 0 0 0 0 0 0 with reply := some 1 }))) 0 0).reply = none := by decide +kernel

/-- A thread that waits for a full/empty request on its way; the word at 0x40 empty or full. -/
noncomputable def feDev (op : AccOp) (st : Stage) (e : Bool) (d : Nat) : State :=
  let s := accDev { acc op .plain 8 .none d with stage := st }
  let s := modThr s 0 0 (fun th => { th with slot := .parked, park := some ⟨.access, 40, 0x40, 0⟩, inside := some 0x55, fewait := 60 })
  { s with empties := if e then [8] else [], ctxs := [(1, { ctx1 with recn := 4 })] }

theorem test_full_empty_requests : (recordOf (feDev (.feLoad true) .travel false 0) 8 = none ∧ isEmpty (feDev (.feLoad true) .travel false 0) 8 = false ∧ (feDev (.feLoad true) .travel false 0).feWait = []) ∧
    ((thrAt (nx (.feRequestArrival 0 0 0) (feDev (.feLoad true) .travel false 0)) 0 0).reply = some 0x8081828384858687 ∧ isEmpty (nx (.feRequestArrival 0 0 0) (feDev (.feLoad true) .travel false 0)) 8 = true) ∧
    (isEmpty (feDev (.feLoad false) .travel true 0) 8 = true ∧ (nx (.feRequestArrival 0 0 0) (feDev (.feLoad false) .travel true 0)).feWait = [⟨0, 0, 7, 3, 0x40, 8, .feLoad false, 0, 1⟩] ∧
      waitRoom (feDev (.feLoad false) .travel true 0) 1 0x40 true = true) ∧
    (readBytes (nx (.feResend 0 0 0) (feDev (.feStore false) .refused true 5)) 0x40 8 = 5 ∧ isEmpty (nx (.feResend 0 0 0) (feDev (.feStore false) .refused true 5)) 8 = false ∧ 0x40 % 8 = 0) ∧
    ((thrAt (nx (.feRequestArrival 0 0 0) (feDev (.feStore false) .travel false 5)) 0 0).accs.map (·.stage) = [.waiting]) ∧ (thrAt (nx (.feRequestArrival 0 0 0) (feDev .feStat .travel true 0)) 0 0).reply = some 0 := by decide +kernel

theorem test_full_empty_timeouts : ((thrAt (feDev (.feLoad true) .waiting true 0) 0 0).accs = [{ acc (.feLoad true) .plain 8 .none 0 with stage := .waiting }]) ∧
    ((thrAt (nx (.feTimeout 0 0 0) (feDev (.feLoad true) .waiting true 0)) 0 0).accs.map (·.cancel) = [true]) ∧
    gives (.feCancel 0 0 0) (feDev (.feLoad true) .waiting true 0) (feDev (.feLoad true) .waiting true 0) = true ∧
    ((thrAt (nx (.feCancel 0 0 0) (modThr (feDev (.feLoad true) .waiting true 0) 0 0 (fun th => { th with accs := th.accs.map (fun a => { a with cancel := true }) }))) 0 0).l1 = ⟨0x1008, 0x0E, 0x40, 0⟩) := by decide +kernel

/-- A device with a scan of thread 7 under way. -/
noncomputable def scanning : State := { regs 0 0 0 0 0 0 with scans := [⟨1, 0, 0, 7, 1, 0, 0, 0, 0, 0, 0, 0, 0, .int8, 0, 3⟩] }

theorem test_fences : ((me looseDev).accs = [] ∧ gives (.fence .cluster) looseDev (drainAll looseDev 0) = true ∧ (coreAt (drainAll looseDev 0) 0).loose = [] ∧ gives (.fence .core) looseDev looseDev = true) ∧
    ((me (forceThread (accDev (acc .store .plain 4 .none 5)) 0 0)).accs.map (·.op) = [.store] ∧ (nx (.fence .core) (accDev (acc .store .plain 4 .none 5))).iss.phase = .held) ∧
    ((regs 0 0 0 0 0 0).clusters = [] ∧ (regs 0 0 0 0 0 0).scans = [] ∧ gives (.xfence 8 1 .core) (regs 0 0 0 0 0 0) (regs 0 0 0 0 0 0) = true) ∧
    (scanning.scans.map (·.uid) = [(me scanning).uid] ∧ (8 : BitVec 5).getLsbD 3 = true ∧ (thrAt (nx (.xfence 8 1 .core) scanning) 0 0).park = some ⟨.engine, 100, 1, 0⟩) := by decide +kernel

theorem test_pointers : x9 (.sptst 9 1) 0x0000E00000000000 0 0 = 2 ∧ x9 (.sptst 9 1) 0x0000C00000000000 0 0 = 4 ∧ x9 (.sptst 9 1) 0x0000B00000000000 0 0 = 0 ∧ x9 (.sptst 9 1) 0x0000F00000000000 0 0 = 3 ∧
    x9 (.spcast 9 1) 0x0000E00080000010 0 0 = 0x0000D00000100010 ∧ x9 (.spcast 9 1) 0x0000D00000100010 0 0 = 0x0000E00080000010 ∧ x9 (.spcast 9 1) 0x10 0 0 = 0 ∧
    x9 (.vpin 9 1 4) 0x10 0 0 = 0x8000000000000010 ∧ x9 (.vpin 9 1 0) 0x2000000000000010 0 0 = 0x10 := by decide +kernel

/-! ## Queues and rings -/

/-- Thread 0 with a binding word in x1 and a geometry word in x2, its core holding some ports and one mailbox. -/
noncomputable def portDev (w g : W64) (ports : Tbl Port) (part : BitVec 15) : State :=
  setMbox (dev { oneThr (thr 0 w g 0 0 0) with ports := ports, part := part }) 0 1 ⟨0x100, 4, true, 2, 9, 3, 2⟩
noncomputable def part8 : BitVec 15 := 4 + 8 * 32 + 4 * 1024

/-- What PORT writes to x9. -/
noncomputable def portSt (i : Instr) (w g : W64) (ports : Tbl Port) (part : BitVec 15) : W64 := tget 0 (thrAt (nx i (portDev w g ports part)) 0 0).x 9

theorem test_port_status : isTwin (me (portDev 0 0 [] 4)) = false ∧ (scratch (coreAt (portDev 0 0 [] 4) 0).part = 0 ∧ portSt (.portNeighbour 9 0 1 2) 0x1000000000000000 0 [] 4 = 5) ∧
    portSt (.portUnbind 9 0 1 2) 0x7000000000000000 0 [] part8 = 2 ∧ portSt (.portNeighbour 9 0 1 2) 0x1000000000000002 0 [] part8 = 2 ∧
    portSt (.portNeighbour 9 0 1 2) 0x1000000000000001 0 [(0, { word := 0x1000800000000000, owner := 3 })] part8 = 1 ∧
    (liveFor (portDev 0 0 [] part8) 5 1 = false ∧ portSt (.portMbsend 9 0 1 2) 0x3000000000050009 0 [] part8 = 3) ∧
    ((mbox (portDev 0 0 [] part8) 0 0).valid = false ∧ portSt (.portMbrecv 9 0 1 2) 0x2000000000000001 0 [] part8 = 2) := by decide +kernel

theorem test_port_binds : portSt (.portMbrecv 9 3 1 2) 0x2000000000000002 0 [] part8 = 0 ∧ portAt (nx (.portMbrecv 9 3 1 2) (portDev 0x2000000000000002 0 [] part8)) 0 3 = { word := 0x2000000000000002 } ∧
    portSt (.portArraycmd 9 1 1 2) 0x4000000000000000 0 [] part8 = 0 ∧ portSt (.portArrayres 9 1 1 2) 0x5000000000000000 0 [] part8 = 0 ∧ portSt (.portUnbind 9 1 1 2) 0 0 [] part8 = 0 := by decide +kernel

theorem port_waits_for_none (v : Nat) : (thrAt (portDev 0x2000000000000002 0 [] part8) 0 v).resv = [] ∧ parkedFor (thrAt (portDev 0x2000000000000002 0 [] part8) 0 v) .port = false :=
  tget_ind (fun th => th.resv = [] ∧ parkedFor th .port = false) _ (by decide) _ (by decide +kernel) v

theorem test_mailbox_definition : portSt (.portMbdef 9 1 1 2) 0x6000000000000005 0 [] part8 = 2 ∧ (0xFC00 + 16 * 1 > scratch part8 * 8192 - 1024 ∧ portSt (.portMbdef 9 0 1 2) 0x6000000000000005 0x10FC00 [] part8 = 2) ∧
    (mboxResvs (portDev 0 0 [] part8) 0 1 = 0 ∧ (mbox (portDev 0 0 [] part8) 0 1).count = 2 ∧ portSt (.portMbdef 9 0 1 2) 0x6100000000000005 0x100000 [] part8 = 4) ∧
    portSt (.portMbdef 9 0 1 2) 0x6000000000000009 0x100000 [] part8 = 4 ∧
    mbox (nx (.portMbdef 9 0 1 2) (portDev 0x6080000000000005 0x10FBF0 [] part8)) 0 0 = ⟨0xFBF0, 1, true, 2, 5, 0, 0⟩ := by decide +kernel

/-- Core 1 of two, with a push due at cycle 99 for its up queue, whose port 0 pops it for thread 2. -/
noncomputable def nbDev (time : Nat) : State :=
  { dev (oneThr (thr 0 0 0 0 0 0)) with
    cores := [(0, { oneThr (thr 0 0 0 0 0 0) with ports := [(0, { word := 0x1000000000000000 })] }),
      (1, { oneThr {} with time := time, nb := [⟨true, 0x77, 99, 0⟩], ports := [(0, { word := 0x1000000000000000, owner := 2 })], threads := [(2, { thr 0 0 0 0 0 0 with uid := 9 })] })] }

theorem test_neighbours : (bKind (portAt (nbDev 100) 0 0).word = 1 ∧ (coreAt (portPush (nbDev 100) 0 0 0 5) 1).nb = [⟨true, 0x77, 99, 0⟩, ⟨false, 5, 108, 1⟩]) ∧
    ((coreAt (nbDev 100) 1).nb[0]? = some ⟨true, 0x77, 99, 0⟩ ∧ (99 : Nat) < (coreAt (nbDev 100) 1).time ∧ nbCount (nbDev 100) 1 true < 8) ∧
    (nbCount (nx (.neighbourArrival 1 0) (nbDev 100)) 1 true = 1 ∧ nbFront (nx (.neighbourArrival 1 0) (nbDev 100)) 1 true = some 0x77 ∧ (thrAt (nx (.neighbourArrival 1 0) (nbDev 100)) 1 2).events = 2) ∧
    (popsNb true (portAt (nbDev 100) 1 0).word = true ∧ occupied (thrAt (nbDev 100) 1 2) = true) ∧ gives (.neighbourArrival 1 0) (nbDev 99) (nbDev 99) = true ∧
    mbChoice (portDev 0 0 [] part8) 0 2 15 = some 1 := by decide +kernel

/-- A thread parked at a port for the answer to its reservation, at core d, for mailbox id. -/
noncomputable def resvDev (d : Nat) (id : Nat) (aux : W64) (slots : Nat) : State :=
  setMbox (dev { oneThr { thr 0 0 0 0 0 0 with slot := .parked, park := some ⟨.port, 36, 2, aux⟩ } with ports := [(2, { word := BitVec.ofNat 64 (3 * 2 ^ 60 + d * 2 ^ 16 + id) })] }) 0 1 ⟨0x100, slots, true, 2, 9, 3, 2⟩

theorem test_reservations : ((thrAt (resvDev 0 9 1 3) 0 0).slot = .parked ∧ (thrAt (resvDev 0 9 1 3) 0 0).resv = [] ∧ bKind (portAt (resvDev 0 9 1 3) 0 2).word = 3) ∧
    (liveFor (resvDev 5 9 1 3) 5 1 = false ∧ (thrAt (nx (.mbReservation 0 0) (resvDev 5 9 1 3)) 0 0).reply = some 7 ∧ (portAt (nx (.mbReservation 0 0) (resvDev 5 9 1 3)) 0 2).faulted = true) ∧
    (mboxById (resvDev 0 8 3 3) 0 8 = none ∧ (thrAt (nx (.mbReservationResend 0 0) (resvDev 0 8 3 3)) 0 0).reply = some 10) ∧
    (mboxById (resvDev 0 9 3 2) 0 9 = some 1 ∧ mboxFree (resvDev 0 9 3 2) 0 1 = 0 ∧ (thrAt (nx (.mbReservationResend 0 0) (resvDev 0 9 3 2)) 0 0).park = some ⟨.port, 100, 2, 3⟩) ∧
    (mboxFree (resvDev 0 9 1 3) 0 1 = 1 ∧ (thrAt (nx (.mbReservation 0 0) (resvDev 0 9 1 3)) 0 0).resv = [(2, 1)] ∧ (coreAt (nx (.mbReservation 0 0) (resvDev 0 9 1 3)) 0).resvs = [⟨1, 0, 0, 7, 2, none⟩]) := by decide +kernel

/-- A thread parked at an empty neighbour queue since cycle 40, with a watchdog of 60 cycles; another of the same context waits at core 1. -/
noncomputable def watchDev (time : Nat) (probes : List Probe) (org : Option Park) : State :=
  { dev (oneThr {}) with probes := probes, cores := [(0, { oneThr { thr 0 0 0 0 0 0 with slot := .parked, park := org } with time := time, qwatch := 60, ports := [(0, { word := 0x1000000000000000 })] }),
      (1, { oneThr { thr 0 0 0 0 0 0 with slot := .parked, park := some ⟨.port, 40, 0, 0⟩ } with ports := [(0, { word := 0x1000000000000000 })] })] }

theorem test_watchdog : (gives (.qwatchExpiry 0 0) (watchDev 99 [] (some ⟨.port, 40, 0, 0⟩)) (watchDev 99 [] (some ⟨.port, 40, 0, 0⟩)) = true) ∧
    ((nx (.qwatchExpiry 0 0) (watchDev 100 [] (some ⟨.port, 40, 0, 0⟩))).probes = [⟨0, 0, 1, [0], 0⟩] ∧ (thrAt (nx (.qwatchExpiry 0 0) (watchDev 100 [] (some ⟨.port, 40, 0, 0⟩))) 0 0).park = some ⟨.port, 100, 0, 0⟩) ∧
    (awaitedFeeder (watchDev 100 [⟨0, 0, 0, [0], 5⟩] none) 0 0 = none ∧ (nx (.queueProbe 0) (watchDev 100 [⟨0, 0, 0, [0], 5⟩] none)).probes = []) ∧
    (awaitedFeeder (watchDev 100 [⟨0, 0, 1, [0], 30⟩] (some ⟨.port, 40, 0, 0⟩)) 1 0 = some 2 ∧ (nx (.queueProbe 0) (watchDev 100 [⟨0, 0, 1, [0], 30⟩] (some ⟨.port, 40, 0, 0⟩))).probes = [⟨0, 0, 2, [0, 1], 31⟩]) := by decide +kernel

theorem test_queue_status : (thrAt (nx (.qstat 9 2) (regs 0 0 0 0 0 0)) 0 0).accs.map (fun a => (a.op, a.dest)) = [(.qstat 2, .scalar 9)] ∧
    (bKind (portAt (regs 0 0 0 0 0 0) 0 2).word = 0 ∧ qstatWord (regs 0 0 0 0 0 0) 0 2 = 0) ∧
    tget 0 (thrAt (nx (.resultArrival 0 0 0) (dev (oneThr { thr 0 0 0 0 0 0 with accs := [{ acc (.qstat 2) .loose 8 (.scalar 9) 0 with lanes := [] }], marksX := markBit 9 }))) 0 0).x 9 = 0 := by decide +kernel

/-- Thread 0 with the address of a ring block at offset 0x100 of its scratchpad in x1, whose 4 slots of 64 bytes lie at 0x200; x2 and x3 hold the geometry of RINIT. -/
noncomputable def ringDev (a : W64) (head tail : Nat) (reply : Option W64) : State :=
  let s := dev (oneThr { thr 0 a 0x0000E00000000200 0x0000004000000004 0 0 with reply := reply })
  writeBytes s (scratchLoc 0 0x100) 32 (0x0000E00000000200 + 4 * 2 ^ 96 + 64 * 2 ^ 64 + head * 2 ^ 128 + tail * 2 ^ 192)
noncomputable def ringBlock : Nat := scratchLoc 0 0x100

theorem test_ring_slots : (isTwin (me (ringDev 0x0000E00000000100 3 0 none)) = false ∧ (me (ringDev 0x0000E00000000100 3 0 none)).accs = [] ∧ (ringDev 0x0000E00000000100 3 0 none).feWait = []) ∧
    (placeOne (ringDev 0x0000E00000000100 3 0 none) .feEmpty (.acq .core) { r := true, w := true } 32 0x0000E00000000100 = (.reaches (.here ringBlock) [], ringDev 0x0000E00000000100 3 0 none)) ∧
    ((ringAt (ringDev 0x0000E00000000100 3 0 none) ringBlock).bad = false ∧ tget 0 (thrAt (nx (.racq 9 1 .core) (ringDev 0x0000E00000000100 3 0 none)) 0 0).x 9 = 0x0000E000000002C0 ∧
      (ringAt (nx (.racq 9 1 .core) (ringDev 0x0000E00000000100 3 0 none)) ringBlock).head = 4) ∧
    ((thrAt (nx (.racq 9 1 .core) (ringDev 0x0000E00000000100 4 0 none)) 0 0).park = some ⟨.port, 100, 0x0000E00000000100, 116⟩) ∧
    ((thrAt (nx (.rpeek 9 1 .core) (ringDev 0x0000E00000000100 4 3 none)) 0 0).accs.map (·.addr) = [0x0000E000000002C0]) ∧
    ((ringAt (nx (.rrel 1 .core) (ringDev 0x0000E00000000100 4 3 none)) ringBlock).tail = 4 ∧ isEmpty (nx (.rrel 1 .core) (ringDev 0x0000E00000000100 4 3 none)) (scratchLoc 0 0x2C0 / 8) = true) ∧
    tget 0 (thrAt (nx (.racq 9 1 .core) (ringDev 0x0000E00000000100 4 3 (some 5))) 0 0).x 9 = 5 := by decide +kernel

theorem test_ring_blocks : gives (.rrel 1 .core) (ringDev 0x0000E00000000108 0 0 none) (takeTrap (ringDev 0x0000E00000000108 0 0 none) 0 0x04 0x0000E00000000108) = true ∧
    (ringAt (ringDev 0x0000E00000000120 0 0 none) (scratchLoc 0 0x120)).bad = true ∧ (thrAt (nx (.racq 9 1 .core) (ringDev 0x0000E00000000120 0 0 none)) 0 0).l1.ecause = 0x0A ∧
    (let t := nx (.rinit 3 1 2 .core) (ringDev 0x0000E00000000100 9 9 none)
     ringAt t ringBlock = ⟨0x0000E00000000200, 64, 4, 0, 0⟩ ∧ (thrAt t 0 0).park = some ⟨.engine, 100, 0, 6⟩ ∧ t.iss.phase = .held) ∧
    isEmpty (nx (.rinit 3 1 2 .core) (ringDev 0x0000E00000000100 0 0 (some 0))) (scratchLoc 0 0x2C0 / 8) = true ∧
    (blockedAt (ringDev 0x0000E00000000100 0 0 none) ringBlock = false ∧ lineHeld (ringDev 0x0000E00000000100 0 0 none) ringBlock = false) ∧
    ((thrAt (nx (.rcommit 2 1 .core) (ringDev 0x0000E00000000100 0 0 none)) 0 0).park = some ⟨.access, 100, 0x0000E00000000100, 0⟩ ∧
      (thrAt (nx (.rcommit 2 1 .core) (ringDev 0x0000E00000000100 0 0 (some 1))) 0 0).reply = none) ∧
    (Ring.bad ⟨0x0000E00000000200, 0, 0, 0, 0⟩ = true ∧ (thrAt (nx (.rinit 4 1 2 .core) (ringDev 0x0000E00000000100 9 9 none)) 0 0).l1.ecause = 0x0A) ∧
    gives (.rcommit 2 1 .core) (ringDev 0x0000E00000000100 0 0 none) (nx (.stdE 2 1 (.rel .core) none) (ringDev 0x0000E00000000100 0 0 none)) = true := by decide +kernel

/-- A thread parked for a slot of the ring since cycle 40, its request sent at cycle 20. -/
noncomputable def ringWait (head : Nat) : State :=
  modThr (ringDev 0x0000E00000000100 head 0 none) 0 0 (fun th => { th with slot := .parked, park := some ⟨.port, 40, 0x0000E00000000100, 52⟩ })

theorem test_ring_resend : (parkedFor (thrAt (ringWait 3) 0 0) .port = true ∧ pastFewait (ringWait 3) 0 0 40 = false ∧ (52 : Nat) + 64 ≤ (coreAt (ringWait 3) 0).time + 16 ∧
      translate (ringWait 3) (whoOf (ringWait 3) 0 0) { r := true, w := true } 0x0000E00000000100 32 = (.reaches (.here ringBlock) [], ringWait 3)) ∧
    ((thrAt (nx (.racqResend 0 0) (ringWait 3)) 0 0).reply = some 0x0000E000000002C0 ∧ (ringAt (nx (.racqResend 0 0) (ringWait 3)) ringBlock).head = 4) ∧
    (thrAt (nx (.racqResend 0 0) (ringWait 4)) 0 0).park = some ⟨.port, 40, 0x0000E00000000100, 116⟩ := by decide +kernel

/-! ## Copies and scans -/

/-- A record of INT16 elements at offset 0x100 of the scratchpad, two dimensions of 2 by 2 with strides 2 and 16, tiles of 2 by 3. -/
noncomputable def shape2 : Shape := ⟨0x0000E00000000100 + 2 ^ 64 + 2 * 2 ^ 72 + 2 * 2 ^ 128 + 2 * 2 ^ 144 + 2 * 2 ^ 192 + 3 * 2 ^ 208 + 2 * 2 ^ 256 + 16 * 2 ^ 320⟩
/-- The elements 0x11, 0x22 and 0x33, 0x44 of that tensor, and the record itself at 0x200. -/
noncomputable def withShape (s : State) : State :=
  writeBytes (writeBytes (writeBytes s (scratchLoc 0 0x100) 4 0x00220011) (scratchLoc 0 0x110) 4 0x00440033) (scratchLoc 0 0x200) 64 shape2.word

/-- Thread 0 with DST at 0x300 in x1, the record's address in x2, coordinates in x3; it holds the lease or not, and has a tag busy. -/
noncomputable def copyDev (rec : W64) (busy : W64) (lease : Option Nat) : State :=
  modArr (withShape (dev (oneThr { thr 0 0x0000E00000000300 (0x0000E00000000000 + rec) 0 0 0 with busyTags := busy }))) 0 (fun a => { a with holder := lease })

theorem test_copy_issue : (isTwin (me (copyDev 0x200 0 none)) = false ∧ (coreAt (copyDev 0x200 0 none) 0).loose = []) ∧
    ((me (copyDev 0x200 8 none)).busyTags.getLsbD 3 = true ∧ (thrAt (nx (.cpy 1 2 3 0 3) (copyDev 0x200 8 none)) 0 0).park = some ⟨.engine, 100, 0, 0⟩) ∧
    gives (.cpys 1 2 3 0 3) (copyDev 0x220 0 none) (takeTrap (copyDev 0x220 0 none) 0 0x04 0x0000E00000000220) = true ∧
    (holdsLease (copyDev 0x200 0 none) 0 0 = false ∧ gives (.cpy 1 2 3 1 3) (copyDev 0x200 0 none) (takeTrap (copyDev 0x200 0 none) 0 0x12 0) = true) ∧
    (holdsLease (copyDev 0x200 0 (some 0)) 0 0 = true ∧ (chanOf (nx (.cpy 1 2 3 2 11) (copyDev 0x200 0 (some 0))) 0 3).map (fun m => (m.dst, m.dk, m.tag, m.shape)) = [(0, 2, 11, none)]) ∧
    ((me (nx (.cpy 1 2 3 0 3) (copyDev 0x200 0 none))).busyTags = 8) := by decide +kernel

theorem test_copy_record : ((translate (copyDev 0x200 0 none) (whoOf (copyDev 0x200 0 none) 0 0) rRead 0x0000E00000000200 64).1 = .reaches (.here (scratchLoc 0 0x200)) [] ∧
      shapeFault shape2 0x0000E00000000200 0 0x0000E00000000300 0 = none ∧ (chanOf (nx (.cpys 1 2 3 0 3) (copyDev 0x200 0 none)) 0 3).map (·.shape) = [some shape2]) ∧
    (shapeFault ⟨0⟩ 0x0000E00000000240 0 0x0000E00000000300 0 = some (0x0A, 0x0000E00000000240) ∧ (thrAt (nx (.cpys 1 2 3 0 3) (copyDev 0x240 0 none)) 0 0).l1.ecause = 0x0A) ∧
    (shapeFault shape2 0 0x0000000200000000 0 1 = none ∧ shCount shape2 = 6 ∧ (List.range 6).map (srcAddr shape2 0) = [some 0x0000E00000000100, some 0x0000E00000000102, some 0x0000E00000000110, some 0x0000E00000000112, none, none]) := by decide +kernel

/-- That device with a copy command at the head of channel 3. -/
noncomputable def copying (m : CopyCmd) : State := setChan (copyDev 0x200 8 none) 0 3 [m]
/-- The command; what its pages are once it has started. -/
noncomputable def cmd1 : CopyCmd :=
  { id := 1, core := 0, slot := 0, uid := 7, ctx := 1, privid := 0, seat := mkSeat 0 0, pc := 0, recAddr := 0x0000E00000000200, coords := 0, dst := 0x0000E00000000300, dk := 0, tag := 3, shape := some shape2 }
noncomputable def pg (c : Nat) : List PagePlace := [⟨0x0000E00000000000, 16, [.here (scratchLoc c 0)]⟩]
noncomputable def cmd2 : CopyCmd := { cmd1 with started := true, srcs := pg 0, dsts := pg 0 }

theorem test_copy_start : (chanOf (copying cmd1) 0 3 = cmd1 :: [] ∧ cmd1.shape = some shape2 ∧ isThread (copying cmd1) cmd1.core cmd1.slot cmd1.uid = true ∧ mboxById (copying cmd1) 0 0 = none) ∧
    (chanOf (nx (.copyStart 0 3) (copying cmd1)) 0 3 = [cmd2]) ∧
    (let s := copying { cmd1 with dst := 0x0000E00000010000 }
     (pagesOf (fun s p => pageOf s (copyWho 0 3 cmd1) { w := true } 2 p) s (dstPieces shape2 0x0000E00000010000)).1 = .trap 0x0A 0x0000E00000010000 ∧ chanOf (nx (.copyStart 0 3) s) 0 3 = [] ∧
       (thrAt (nx (.copyStart 0 3) s) 0 0).tagerr = 8 ∧ (nx (.copyStart 0 3) s).sups = [engineMsg s 0 1 0 0 0x0A 0 0x0000E00000010000]) := by decide +kernel

theorem test_copy_moves : (cmd2.started = true ∧ copyDead (copying cmd2) cmd2 = false ∧ (copying cmd2).feWait = []) ∧
    ((List.range 6).all (fun j => decide (placesAt cmd2.dsts (cmd2.dst + BitVec.ofNat 64 (j * 2)) = [.here (scratchLoc 0 0x300 + j * 2)])) = true) ∧
    (let t := nx (.copyComplete 0 3) (copying cmd2)
     readBytes t (scratchLoc 0 0x300) 12 = 0x0044003300220011 ∧ chanOf t 0 3 = [] ∧ (thrAt t 0 0).tags = 8 ∧ (thrAt t 0 0).busyTags = 0 ∧ (thrAt t 0 0).events = 1) ∧
    (let m := { cmd2 with dk := 1, dsts := [], moved := 1 }
     (cluAt (nx (.copyComplete 0 3) (copying m)) 0).arr.fifoA.map (·.bits) = [0x22, 0x33, 0x44, 0, 0]) ∧
    (let m := { cmd2 with dsts := pg 5 }
     copyDead (copying m) m = true ∧ (nx (.engineWriteDrop 0 3) (copying m)).sups = [engineMsg (copying m) 0 1 0 0 0x07 0 m.dst]) := by decide +kernel

theorem moved_apart (j : Nat) (h : j < 6) (a : W64) (ha : srcAddr shape2 0 j = some a) (x : Nat) (hx : Place.here x ∈ placesAt cmd2.srcs a) :
    x + 2 ≤ scratchLoc 0 0x300 ∨ scratchLoc 0 0x300 + 6 * 2 ≤ x := by
  have key : (List.range 6).all (fun j => match srcAddr shape2 0 j with
      | some a => (placesAt cmd2.srcs a).all (fun p => match p with
        | .here x => decide (x + 2 ≤ scratchLoc 0 0x300 ∨ scratchLoc 0 0x300 + 6 * 2 ≤ x)
        | _ => true)
      | none => true) = true := by decide +kernel
  have h1 := List.all_eq_true.mp key j (by simpa using h)
  rw [ha] at h1
  simpa using List.all_eq_true.mp h1 _ hx

/-- A query over four INT8 elements 1, 5, -3, 7 at offset 0x100: more than 2, at most cap records, to offset 0x400. -/
noncomputable def query (cmp fmt cap count : Nat) : Nat := 0x0000E00000000100 + fmt * 2 ^ 64 + cmp * 2 ^ 70 + cap * 2 ^ 72 + count * 2 ^ 96 + 2 * 2 ^ 128 + 0x0000E00000000400 * 2 ^ 192
noncomputable def scanDev (q : Nat) (a : W64) : State :=
  writeBytes (writeBytes (dev (oneThr (thr 0 a 0 0 0 0))) (scratchLoc 0 0x100) 4 0x07FD0501) (scratchLoc 0 0x200) 32 q
noncomputable def scan1 (cmp cap : Nat) : ScanCmd :=
  { id := 2, core := 0, slot := 0, uid := 7, ctx := 1, privid := 0, seat := mkSeat 0 0, pc := 0x1000, src := 0x0000E00000000100, dst := 0x0000E00000000400, count := 4, cap := cap, cmp := cmp, fmt := .int8, thresh := 2, tag := 9 }

theorem test_scan_issue : (isTwin (me (scanDev 0 0x0000E00000000200)) = false ∧ (coreAt (scanDev 0 0) 0).loose = []) ∧
    gives (.scanq 1 9) (scanDev 0 0x0000E00000000210) (takeTrap (scanDev 0 0x0000E00000000210) 0 0x04 0x0000E00000000210) = true ∧
    ((translate (scanDev (query 0 0 3 4) 0x0000E00000000200) (whoOf (scanDev 0 0) 0 0) rRead 0x0000E00000000200 32).1 = .reaches (.here (scratchLoc 0 0x200)) [] ∧
      scanFmt (query 0 0 3 4 / 2 ^ 64 % 64) = some .int8 ∧ (nx (.scanq 1 9) (scanDev (query 0 0 3 4) 0x0000E00000000200)).scans = [scan1 0 3]) ∧
    ((thrAt (nx (.scanq 1 9) (scanDev (query 3 0 3 4) 0x0000E00000000200)) 0 0).l1.ecause = 0x0A) ∧ (scanFmt 3 = none ∧ (thrAt (nx (.scanq 1 9) (scanDev (query 0 3 3 4) 0x0000E00000000200)) 0 0).l1.ecause = 0x0A) ∧
    (straddlesRange 0x0000FFFFFFFFFFFF 2 = true) := by decide +kernel

/-- The device with that scan under way. -/
noncomputable def scanGoes (cmp cap : Nat) : State := { scanDev 0 0 with scans := [scan1 cmp cap] }

theorem test_scan_end : ((scanGoes 0 2).scans[0]? = some (scan1 0 2) ∧ isThread (scanGoes 0 2) 0 0 7 = true ∧ scanBehind (scanGoes 0 2) 0 (scan1 0 2) = false ∧ (scanGoes 0 2).feWait = []) ∧
    ((pagesOf (fun s p => pageOf s (scanWho (scan1 0 2)) { r := true } 1 p) (scanGoes 0 2) (rangePieces 0x0000E00000000100 4 1)).1 = .ok (pg 0) [] ∧
      (pagesOf (fun s p => pageOf s (scanWho (scan1 0 2)) { w := true } 8 p) (scanGoes 0 2) (rangePieces 0x0000E00000000400 24 8)).1 = .ok (pg 0) [] ∧
      (List.range 3).all (fun i => decide (placesAt (pg 0) (0x0000E00000000400 + BitVec.ofNat 64 (8 * i)) = [.here (scratchLoc 0 0x400 + 8 * i)])) = true) ∧
    (let t := nx (.scanComplete 0 [3, 1]) (scanGoes 0 2)
     (List.range 4).map (fun i => readBytes t (scratchLoc 0 0x400 + 8 * i) 8) = [2, 3 + 7 * 2 ^ 32, 1 + 5 * 2 ^ 32, 0] ∧ t.scans = [] ∧ (thrAt t 0 0).tags = 0x200) ∧
    ((List.range 3).map (fun i => readBytes (nx (.scanComplete 0 []) (scanGoes 2 1)) (scratchLoc 0 0x400 + 8 * i) 8) = [3, 1 + 5 * 2 ^ 32, 0]) ∧
    ((List.range 3).map (fun i => readBytes (nx (.scanComplete 0 []) (scanGoes 1 2)) (scratchLoc 0 0x400 + 8 * i) 8) = [2, 1 + 5 * 2 ^ 32, 3 + 7 * 2 ^ 32]) := by decide +kernel

/-- A copy of the thread holds XFENCE of class C; with a FIFO for its destination, of class M too; that of another thread does not, nor a class that names nothing. -/
theorem test_xfence_classes : (let s := setChan (copyDev 0x200 0 none) 0 3 [cmd1]
      (thrAt (nx (.xfence 1 2 .core) s) 0 0).park = some ⟨.engine, 100, 2, 0⟩ ∧ gives (.xfence 2 1 .core) s s = true ∧ gives (.xfence 16 1 .core) s s = true) ∧
    (let s := setChan (copyDev 0x200 0 none) 0 3 [{ cmd1 with dk := 1 }]
     (thrAt (nx (.xfence 2 1 .core) s) 0 0).park = some ⟨.engine, 100, 1, 0⟩) ∧
    (let s := setChan (copyDev 0x200 0 none) 0 3 [{ cmd1 with uid := 99 }]
     gives (.xfence 15 16 .device) s s = true) := by decide +kernel

/-! ## Tile names -/

/-- Thread 0 with a name in x1 and an address in x2, beside an agent. -/
noncomputable def nameDev (addr : W64) (a : NameAgent) : State := modAgent (regs 0 0xAA0000000007 addr 0 0 0) 0 (fun _ => a)
noncomputable def bind1 (size : Nat) (wd : Bool) (acks : Nat) : Binding := ⟨0xAA0000000007, 1, 0x0000E00000000100, size, false, mkSeat 0 0, 0, 0, 0x1000, 0, wd, acks⟩
/-- The agent has answered thread 0. -/
noncomputable def replied (s : State) : State := modThr s 0 0 (fun th => { th with reply := some 0 })
/-- What ANNC, answered, leaves in x9 and the bindings, and where it traps. -/
noncomputable def anncs (addr : W64) (a : NameAgent) (ext : BitVec 32) : W64 × List Binding × W64 × W64 :=
  let t := nx (.annc 9 1 2 ext) (replied (nameDev addr a))
  (tget 0 (thrAt t 0 0).x 9, (cluAt t 0).agent.binds, (thrAt t 0 0).l1.ecause, (thrAt t 0 0).l1.eaddr)

theorem test_bind : isTwin (me (nameDev 0 {})) = false ∧ anncs 0 { binds := [bind1 64 false 0] } 0 = (0, [bind1 64 true 0], 0, 0) ∧
    ((nx (.annc 9 1 2 0) (nameDev 0 { binds := [bind1 64 false 0] })).purges.length = 160) ∧ anncs 0 { binds := [bind1 64 true 3] } 0 = (1, [bind1 64 true 3], 0, 0) ∧
    anncs 0 {} 96 = (0, [], 0x0A, 96) ∧ anncs 0x0000E00000000110 {} 64 = (0, [], 0x04, 0x0000E00000000110) ∧ anncs 0x0000C00000000000 {} 64 = (0, [], 0x0A, 0x0000C00000000000) := by decide +kernel

theorem test_bind_more : anncs 0x0000DFFFFFFFFFC0 {} 128 = (0, [], 0x05, 0x0000DFFFFFFFFFC0) ∧ anncs 0x0000E00000010000 {} 64 = (0, [], 0x0A, 0x0000E00000010000) ∧
    anncs 0x0000E00000000100 { binds := [bind1 64 true 0] } 64 = (0, [bind1 64 true 0], 0x14, 0xAA0000000007) ∧ anncs 0x0000E00000000100 {} 64 = (0, [bind1 64 false 0], 0, 0) ∧
    (anncs 0x0000E00000000100 { binds := List.replicate 256 { bind1 64 false 0 with name := 1 } } 64).1 = 2 := by decide +kernel

theorem test_bind_pages : (anncPages (nameDev 0x0000E00000000100 {}) (bind1 64 false 0)).1 = .ok [⟨0x0000E00000000000, 16, [.here (scratchLoc 0 0)]⟩] [] ∧
    (anncPages (nameDev 0 {}) { bind1 64 false 0 with src := 0x0000E00000010000 }).1 = .trap 0x0A 0x0000E00000010000 := by decide +kernel

/-- Before the agent has answered, ANNC waits ENGINE; WANT that nothing here can serve, with LIFE 0, expires at once. -/
theorem test_agent_answers : ((me (nameDev 0x0000E00000000100 {})).reply = none ∧ (thrAt (nx (.annc 9 1 2 64) (nameDev 0x0000E00000000100 {})) 0 0).park = some ⟨.engine, 100, 0, 6⟩) ∧
    ((thrAt (nx (.want 1 2 5 0x30000) (nameDev 0x0000E00000000100 {})) 0 0).tagerr = 32 ∧ (thrAt (nx (.want 1 2 5 0x30000) (nameDev 0x0000E00000000100 {})) 0 0).traps = [⟨0x10, 0xAA0000000007⟩]) := by
  decide +kernel

/-- What WANT with tag 5 leaves at the agent, and its thread. -/
noncomputable def wants (addr : W64) (a : NameAgent) (ext : BitVec 32) : NameAgent × List IntMsg × W64 :=
  let t := nx (.want 1 2 5 ext) (nameDev addr a)
  ((cluAt t 0).agent, t.ints, (thrAt t 0 0).busyTags)
noncomputable def want1 (dl : Nat) : WantRec := ⟨0xAA0000000007, 0, 0, 7, 1, 0x1000, scratchLoc 0 0x100, 1024, 5, true, dl⟩
/-- A route of every name and context in direction +X. -/
noncomputable def routeX : W64 := 3 * 2 ^ 62 + 2 ^ 42

theorem test_want : ((nx (.want 1 2 5 0x30003) (nameDev 0x0000E00000000110 {})) = takeTrap (nameDev 0x0000E00000000110 {}) 0 0x04 0x0000E00000000110) ∧
    ((nx (.want 1 2 5 0x30003) (nameDev 0x200000 {})) = takeTrap (nameDev 0x200000 {}) 0 0x0A 0x200000) ∧ (thrAt (nx (.want 1 2 5 0x30003) (nameDev 0x0000DFFFFFFFFFC0 {})) 0 0).l1.ecause = 0x05 ∧
    ((wantPlace (nameDev 0x0000E00000010000 {}) 0x0000E00000010000 1024).1 = .trap 0x0A) ∧ ((wantPlace (nameDev 0x0000E00000000100 {}) 0x0000E00000000100 1024).1 = .reaches (.here (scratchLoc 0 0x100)) []) ∧
    (rtBest { routes := [(0, routeX)] } 0xAA0000000007 1 = some routeX ∧ rtDir routeX = 1 ∧ neighbour 0 1 = some 1 ∧
      wants 0x0000E00000000100 { routes := [(0, routeX)] } 0x30003 = ({ cons := [.want (want1 3000)], ints := [⟨0xAA0000000007, 1, 3000, [], true, none⟩], routes := [(0, routeX)] }, [⟨0xAA0000000007, 1, 3000, 1, 2, none⟩], 32)) ∧
    wants 0x0000E00000000100 { ints := [⟨0xAA0000000007, 1, 9000, [1], false, none⟩] } 0x30003 = ({ cons := [.want (want1 3000)], ints := [⟨0xAA0000000007, 1, 9000, [1], true, none⟩] }, [], 32) ∧
    ((nx (.want 1 2 5 0x30003) (nameDev 0 { ints := List.replicate 512 ⟨1, 1, 0, [], true, none⟩ })).iss.phase = .parked) := by decide +kernel

/-- A tile of two bytes. -/
noncomputable def tile1 : Tile := ⟨0xAA0000000007, [0x12, 0x34], false, 0, [0]⟩

theorem test_want_hits : ((nameDev 0x0000E00000000100 { tiles := [tile1] }).feWait = [] ∧ (me (nameDev 0 {})).slot ≠ .free ∧ deadlinePassed (nameDev 0 { tiles := [tile1] }) 0 3000 = false ∧
      ((stampCore (nameDev 0 {}) 0).1).toNat / 2 ^ 16 = 0 ∧ liveFor (nameDev 0 {}) (scratchCore (scratchLoc 0 0x100)) 1 = true) ∧
    (let t := nx (.want 1 2 5 0x30003) (nameDev 0x0000E00000000100 { tiles := [tile1] })
     (cluAt t 0).agent.cons = [] ∧ (thrAt t 0 0).tags = 32 ∧ (thrAt t 0 0).busyTags = 0 ∧ readList t (scratchLoc 0 0x100) 2 = [0x12, 0x34]) := by decide +kernel

theorem test_retract : (thrAt (nx (.retrc 9 5) (nameDev 0 {})) 0 0).park = some ⟨.engine, 100, 0, 6⟩ ∧
    (cluAt (nx (.retrc 9 5) (replied (nameDev 0 { cons := [.want (want1 3000), .remote 1 0 0 0] }))) 0).agent.cons = [.remote 1 0 0 0] ∧
    ((thrAt (nx (.retrc 9 5) (replied (nameDev 0 { cons := [.want (want1 3000)] }))) 0 0).tags = 32 ∧ (thrAt (nx (.retrc 9 5) (replied (nameDev 0 { cons := [.want (want1 3000)] }))) 0 0).tagerr = 32) ∧
    tget 0 (thrAt (nx (.retrc 9 5) (replied (nameDev 0 {}))) 0 0).x 9 = 2 := by decide +kernel

/-- An interest on its way to agent 0 from +X, by deadline 3000. -/
noncomputable def intDev (a : NameAgent) : State := { modAgent (regs 0 0 0 0 0 0) 0 (fun _ => a) with ints := [⟨7, 1, 3000, 0, 1, none⟩] }
noncomputable def agent0 (i : Instr) (s : State) : NameAgent := (cluAt (nx i s) 0).agent

theorem test_interests : agent0 (.interestArrival 0) (intDev { ints := [⟨7, 1, 2000, [3], true, none⟩] }) = { ints := [⟨7, 1, 3000, [3, 1], true, none⟩] } ∧
    (agent0 (.interestArrival 0) (intDev { ints := List.replicate 512 ⟨8, 1, 0, [], true, none⟩, drops := 0xFFFFFFFF })).drops = 0xFFFFFFFF ∧
    (agent0 (.interestArrival 0) (intDev { ints := List.replicate 512 ⟨8, 1, 0, [], true, none⟩, drops := 5 })).drops = 6 ∧
    (agent0 (.interestArrival 0) (intDev { routes := [(0, routeX)] }) = { ints := [⟨7, 1, 3000, [1], false, none⟩], routes := [(0, routeX)] } ∧
      (nx (.interestArrival 0) (intDev { routes := [(0, routeX)] })).ints = [⟨7, 1, 3000, 1, 2, none⟩]) ∧
    (neighbour 0 1 = some 1 ∧ (nx (.interestArrival 0) (intDev { tiles := [{ tile1 with name := 7 }] })).tiles = [⟨7, [0x12, 0x34], false, 1⟩]) := by decide +kernel

/-- A tile on its way to agent 0, whose entry asked for it from +Y and for a local record. -/
noncomputable def tileDev (a : NameAgent) (tarn : Nat) : State :=
  { modClu (modThr (regs 0 0 0 0 0 0) 0 0 (fun th => { th with busyTags := 32 })) 0 (fun c => { c with tarn := tarn, agent := a }) with tiles := [⟨7, [0x12, 0x34], true, 0⟩] }
noncomputable def want7 (cap loc dl : Nat) : WantRec := ⟨7, 0, 0, 7, 1, 0x1000, loc, cap, 5, true, dl⟩
noncomputable def asked (w : WantRec) : NameAgent := { ints := [⟨7, 1, 3000, [3], true, none⟩], cons := [.want w] }

theorem test_tiles : gives (.tileDelivery 0) (tileDev {} 1) { tileDev {} 1 with tiles := [] } = true ∧
    (let t := nx (.tileDelivery 0) (tileDev (asked (want7 1024 (scratchLoc 0 0x100) 3000)) 1)
     t.tiles = [⟨7, [0x12, 0x34], true, 16⟩] ∧ (cluAt t 0).agent.ints = [] ∧ (cluAt t 0).agent.tiles.map (fun x => (x.name, x.data, x.pin)) = [(7, [0x12, 0x34], true)] ∧
       (thrAt t 0 0).tags = 32 ∧ (thrAt t 0 0).tagerr = 0 ∧ readList t (scratchLoc 0 0x100) 2 = [0x12, 0x34]) ∧
    ((thrAt (nx (.tileDelivery 0) (tileDev (asked (want7 1 (scratchLoc 0 0x100) 3000)) 1)) 0 0).tagerr = 32) ∧
    (liveFor (tileDev {} 1) (scratchCore (scratchLoc 5 0x100)) 1 = false ∧ (thrAt (nx (.tileDelivery 0) (tileDev (asked (want7 64 (scratchLoc 5 0x100) 3000)) 1)) 0 0).tagerr = 32) ∧
    ((nx (.tileDelivery 0) (tileDev (asked (want7 64 0 3000)) 0)).tiles.length = 1 ∧ (cluAt (nx (.tileDelivery 0) (tileDev (asked (want7 64 0 3000)) 0)) 0).agent.tiles = []) := by decide +kernel

theorem test_name_expiry : (deadlinePassed (intDev {}) 0 0xFFFFFFFFFFFF = true ∧ deadlinePassed (intDev {}) 0 0 = false ∧ gives (.interestExpiry 0 0) (intDev { ints := [⟨7, 1, 0, [], true, none⟩] }) (intDev { ints := [⟨7, 1, 0, [], true, none⟩] }) = true) ∧
    (let t := agent0 (.interestExpiry 0 0) (intDev { ints := [⟨7, 1, 0xFFFFFFFFFFFF, [], true, none⟩], cons := [.remote 7 0 0 0, .want (want7 1 0 0), .remote 8 0 0 0] })
     t.ints = [] ∧ t.cons = [.want (want7 1 0 0), .remote 8 0 0 0]) ∧
    gives (.neverProduced 0 0) (tileDev (asked (want7 1 0 1)) 0) (tileDev (asked (want7 1 0 1)) 0) = true ∧
    (let t := nx (.neverProduced 0 0) (tileDev (asked (want7 1 0 0xFFFFFFFFFFFF)) 0)
     (cluAt t 0).agent.cons = [] ∧ (thrAt t 0 0).tagerr = 32 ∧ (thrAt t 0 0).traps = [⟨0x10, 7⟩]) ∧
    (let s := { intDev { binds := [{ bind1 64 true 158 with name := 7 }], tiles := [{ tile1 with name := 7 }] } with purges := [⟨7, 0, 0⟩] }
     (agent0 (.purgeAck 0) s).binds.map (·.acks) = [159] ∧ (agent0 (.purgeAck 0) s).tiles = []) ∧
    (agent0 (.purgeAck 0) { intDev { binds := [{ bind1 64 true 159 with name := 7 }] } with purges := [⟨7, 0, 0⟩] }).binds = [] ∧
    (let s := { modClu (intDev {}) 0 (fun c => { c with vigil := 1 }) with purges := [⟨7, 0, 0⟩] }
     (cluAt (nx (.purgeAck 0) s) 0).vigil = 2) ∧
    (let s := { modClu (intDev {}) 0 (fun c => { c with stopped := true }) with purges := [⟨7, 0, 0⟩] }
     gives (.purgeAck 0) s s = true ∧ (nx (.purgeAck 0) { s with gated := 1 }).purges = []) := by decide +kernel

/-- A privileged thread with an operand of NAMEROUTE in x1 and a second in x2; what it writes to x9, and cluster 3 after it. -/
noncomputable def routeDev (w b : W64) : State :=
  modClu (devP (oneThr (thr 0 w b 0 0 0))) 3 (fun c => { c with agent := { routes := [(2, routeX)], drops := 9, tiles := [{ tile1 with grans := [64] }, { tile1 with grans := [63] }] }, tarn := 2 })
noncomputable def routes9 (i : Instr) (w b : W64) : W64 × Cluster := let t := nx i (replied (routeDev w b)); (tget 0 (thrAt t 0 0).x 9, cluAt t 3)

theorem test_name_routes : (isTwin (me (routeDev 0 0)) = false ∧ privileged (routeDev 0 0) (was (routeDev 0 0)) = true) ∧ (routes9 (.namerouteReadRoute 9 1 2) 0x40000 0).1 = 0xFFFFFFFFFFFFFFFF ∧
    (routes9 (.namerouteReadRoute 9 1 2) 0x1FF02 0).1 = 0xFFFFFFFFFFFFFFFF ∧ (rtBad 3 (25 * 2 ^ 45) = true ∧ (routes9 (.namerouteWriteRoute 9 1 2) 0x00302 (25 * 2 ^ 45)).1 = 2) ∧
    (rtBad 3 routeX = false ∧ (routes9 (.namerouteWriteRoute 9 1 2) 0x003FF routeX).2.agent.routes = [(2, routeX), (255, routeX)]) ∧
    (routes9 (.namerouteReadRoute 9 1 2) 0x10302 0).1 = routeX ∧ (routes9 (.namerouteSetTarn 9 1 2) 0x20300 17).1 = 2 ∧
    ((routes9 (.namerouteSetTarn 9 1 2) 0x20300 1).2.tarn = 1 ∧ (routes9 (.namerouteSetTarn 9 1 2) 0x20300 1).2.agent.tiles.map (·.grans) = [[63]]) ∧ (routes9 (.namerouteReadDrops 9 1 2) 0x30300 0).1 = 9 := by decide +kernel

/-! ## The cluster array -/

/-- A device whose thread 0 has two registers, beside an array of its cluster. -/
noncomputable def arrDev (x1 x2 : W64) (a : MtxArray) : State := modArr (regs 0 x1 x2 0 0 0) 0 (fun _ => a)
noncomputable def arr0 (i : Instr) (s : State) : MtxArray := (cluAt (nx i s) 0).arr

theorem test_lease : (isTwin (me (arrDev 0 0 {})) = false ∧ parkedFor (me (arrDev 0 0 {})) .lease = false) ∧ gives .lease (arrDev 0 0 { holder := some 0 }) (arrDev 0 0 { holder := some 0 }) = true ∧
    arr0 .lease (arrDev 0 0 { prev := 9 }) = { holder := some 0, cmds := 64, cycles := 4096, prev := 0 } ∧
    gives .lease (arrDev 0 0 { waiters := [(0, true)] }) (holdMe (arrDev 0 0 { waiters := [(0, true)] }) .lease) = true ∧
    arr0 .lease (arrDev 0 0 { holder := some 5 }) = { holder := some 5, waiters := [(0, false)] } ∧
    arr0 .lrel (arrDev 0 0 { holder := some 0, cmds := 3, cycles := 9 }) = {} ∧
    arr0 .lrel (arrDev 0 0 { holder := some 0, prev := 17, waiters := [(5, false), (18, false), (40, true)] }) = { holder := some 18, cmds := 64, cycles := 4096, prev := 18, waiters := [(5, false), (40, true)] } ∧
    arr0 .lrel (arrDev 0 0 { holder := some 7, waiters := [(0, false), (9, false)] }) = { holder := some 7, waiters := [(9, false)] } := by decide +kernel

theorem test_lease_expiry : gives (.leaseExpiry 0) (arrDev 0 0 { holder := some 3, cmds := 1, cycles := 1 }) (arrDev 0 0 { holder := some 3, cmds := 1, cycles := 1 }) = true ∧
    arr0 (.leaseExpiry 0) (arrDev 0 0 { holder := some 3, cmds := 0, cycles := 7 }) = { holder := some 3, cmds := 64, cycles := 4096 } ∧
    arr0 (.leaseExpiry 0) (arrDev 0 0 { holder := some 3, cmds := 1, cycles := 0, prev := 3, waiters := [(1, false)] }) = { holder := some 1, cmds := 64, cycles := 4096, prev := 1, waiters := [(3, true)] } := by decide +kernel

/-- What MHSET leaves, and where it traps. -/
noncomputable def mhsets (pc w : W64) : Option Mhset × W64 × W64 := let t := nx (.mhset 1 2) (arrDev pc w {}); ((coreAt t 0).mhset, (thrAt t 0 0).l1.ecause, (thrAt t 0 0).l1.eaddr)

theorem test_handlers : scratch (coreAt (arrDev 0 0 {}) 0).part = 8 ∧ mhsets 0x4004 0x100000 = (none, 0x04, 0x4004) ∧ mhsets 0x4000 0x100200 = (none, 0x04, 0x200) ∧ mhsets 0x4000 0x400 = (none, 0, 0) ∧
    mhsets 0x4000 0x10F800 = (some ⟨0x4000, 1, 0xF800, 1⟩, 0, 0) ∧ mhsets 0x4000 0x20F800 = (none, 0x0A, 0xF800) := by decide +kernel

/-- Thread 0, the handler of row 3 of command 5, whose slot lies at offset 0x400. -/
noncomputable def rowDev (a : W64) : State :=
  modArr (dev { oneThr { thr 0 a 0 0 0 0 with row := some ⟨0x400, 3, 0, 5, 0⟩ } with landed := [⟨0x400, 3, 0, 5, 0, 7⟩, ⟨0x800, 4, 0, 5, 0, 8⟩] }) 0 (fun _ => { openRow := [(5, 3, 7), (5, 4, 8)] })

theorem test_rowdone : gives (.rowdone 1) (rowDev 0x0000E00000000C00) (takeTrap (rowDev 0x0000E00000000C00) 0 0x0A 0x0000E00000000C00) = true ∧ (me (rowDev 0)).accs = [] ∧
    (let t := nx (.rowdone 1) (rowDev 0x0000E00000000400)
     (coreAt t 0).landed = [⟨0x800, 4, 0, 5, 0, 8⟩] ∧ (thrAt t 0 0).row = none ∧ (cluAt t 0).arr.openRow = [(5, 4, 8)]) := by decide +kernel

/-- A command of a context-1 thread that multiplies INT8 by INT8, drains to core 0, notifies, has NCH chunks of 256 values of k. -/
noncomputable def command (bits : Nat) : ArrayCmd := ⟨5, BitVec.ofNat 256 (bits + 4 * 2 ^ 32 + 2 ^ 40 + 2 ^ 58 + 2 ^ 64 + 0xBEEF * 2 ^ 96 + 0x77 * 2 ^ 128), 0, 0, 7, 1⟩
/-- Core 0 takes rows at two slots from 0x400 on. -/
noncomputable def takerDev (a : MtxArray) : State := modArr (dev { oneThr (thr 0 0 0 0 0 0) with mhset := some ⟨0x4000, 2, 0x400, 1⟩ }) 0 (fun _ => a)

theorem test_array_commands : (arrayFmt 3 = none ∧ arrayFmt 0x3C ≠ none ∧ liveFor (takerDev {}) 0 1 = true ∧ accBanks (coreAt (takerDev {}) 0).part ≠ 0) ∧
    arr0 (.arrayCommandCheck 0) (takerDev { cmdq := [command 0] }) = { cur := some (command 0, 0, 0) } ∧
    arr0 (.arrayCommandCheck 0) (takerDev { cmdq := [command 0x80] }) = { dones := [⟨command 0x80, false, 0x0A, true⟩] } ∧
    (mboxById (takerDev {}) 0 0 = none ∧ (nx (.arrayCommandCheck 0) (takerDev { cmdq := [command 3] })).sups = [engineMsg (takerDev {}) 0 1 0 0 0x0A 0 0x77]) ∧
    arr0 (.arrayCommandCheck 0) (takerDev { cmdq := [command (2 * 2 ^ 64)] }) = { dones := [⟨command (2 * 2 ^ 64), false, 0x0A, true⟩] } := by decide +kernel

theorem test_array_sums : contribution 0 (fmtValue .int8 3) (fmtValue .int8 0xFE) = (-6, false) ∧ contribution 2 (fmtValue .int8 3) (fmtValue .int8 2) = (2, false) ∧
    contribution 0 (fmtValue .fp16 0x7C00) (fmtValue .fp16 0xBC00) = (-(2 ^ 39 - 1), true) ∧ contribution 0 (fmtValue .fp16 0x7C00) (fmtValue .fp16 0) = (0, true) ∧
    contribution (-40) (fmtValue .int8 3) (fmtValue .int8 2) = (2 ^ 39 - 1, true) := by decide +kernel

/-- One value of k in both FIFOs. -/
noncomputable def oneK : MtxArray := { cur := some (command 0, 0, 0), fifoA := List.replicate 128 ⟨3, 1, 7, 1⟩, fifoB := List.replicate 128 ⟨5, 1, 7, 1⟩, buf0 := [], drain := some ⟨true, command 0, 0, 9, []⟩ }

theorem test_chunk_starts : (arrayFmt (acAfmt (command 0)) = some .int8 ∧ arrayFmt (acBfmt (command 0)) = some .int8 ∧ 0 + 1 < 64 * acChunk (command 0) ∧ min (oneK.fifoA.length / 128) (oneK.fifoB.length / 128) = 1 ∧ nextBuf oneK = false) ∧
    (heldBuf oneK (command 0) 0).length = 16384 ∧ gives (.arrayChunkComplete 0) (takerDev { oneK with lastBuf := some false }) (takerDev { oneK with lastBuf := some false }) = true := by decide +kernel

/-- The array after the last value of k of its command. -/
noncomputable def ended : MtxArray := arr0 (.arrayChunkComplete 0) (takerDev { cur := some (command 0, 0, 256), rowOvf := [3] })

theorem test_chunk_ends : 256 = 64 * acChunk (command 0) ∧ acDall (command 0) = false ∧
    ended.cur = none ∧ ended.lastBuf = some false ∧ ended.lastCtx = 1 ∧ ended.drain.map (·.buf) = some false ∧ ended.dones.map (·.cmd) = [command 0] := by decide +kernel

/-- A drain at row 3, whose first sum is 6. -/
noncomputable def drainAt (row : Nat) (b : Nat) : MtxArray := { drain := some ⟨false, command b, 0, row, [3]⟩, buf0 := List.replicate 384 0 ++ 6 :: List.replicate 15999 0, dones := [{ cmd := command b }] }

theorem test_row_lands : (acCores (command 0xFFFF0000) 0 = [0] ∧ drainMayStart (takerDev (drainAt 3 0xFFFF0000)) 0 ⟨false, command 0xFFFF0000, 0, 3, [3]⟩ = true ∧ (drainAt 3 0).openRow = [] ∧
      freeLanding (coreAt (takerDev {}) 0) = some 0x400 ∧ freeSlot (takerDev {}) 0 = some 1 ∧ (takerDev {}).feWait = [] ∧ (bufOf (drainAt 3 0) false).length = 16384) ∧
    (let t := nx (.rowLanding 0) (takerDev (drainAt 3 0xFFFF0000))
     (readByte t (scratchLoc 0 0x403), readByte t (scratchLoc 0 0x408)) = (6, 0xFF) ∧ (cluAt t 0).arr.drain = some ⟨false, command 0xFFFF0000, 0, 4, [3]⟩ ∧ (cluAt t 0).arr.openRow = [(5, 3, 1)] ∧
       (thrAt t 0 1).pc = 0x4000 ∧ (thrAt t 0 1).slot = .loading ∧ (List.range 5).map (tget 0 (thrAt t 0 1).x) = [3, 0, 0x0000E00000000400, 0x800000000000BEEF, 0]) := by decide +kernel

theorem test_row_drops : (liveFor (takerDev {}) 1 1 = false ∧ acCores (command (2 ^ 64)) 0 = [1]) ∧
    (let t := nx (.rowLanding 0) (takerDev (drainAt 3 (2 ^ 64)))
     (cluAt t 0).arr.dones.map (·.cause) = [0x07] ∧ t.sups = [engineMsg (takerDev {}) 0 1 0 0 0x07 0 0x77] ∧ (cluAt t 0).arr.drain = some ⟨false, command (2 ^ 64), 0, 4, [3]⟩) := by decide +kernel

theorem test_array_status : (let a : MtxArray := { dones := [⟨command 0, true, 0, true⟩], resq := List.replicate 8 0 }
     gives (.arrayStatusPush 0) (takerDev a) (takerDev a) = true) ∧ rowsReleased {} 5 = true ∧
    arr0 (.arrayStatusPush 0) (takerDev { dones := [⟨command 0, true, 7, true⟩] }) = { resq := [0x01070000000000000077] } := by decide +kernel

/-! ## Threads and kernels -/

theorem test_spawn : isTwin (me (regs 0 0 0 0 0 0)) = false ∧ (let s := dev (oneThr { thr 0 0 0 0 0 0 with reply := some 1 })
      tget 0 (thrAt (nx (.spawn 9 1 2 none) s) 0 0).x 9 = 1) ∧
    (let s := { regs 0 0 0 0 0 0 with starts := [{ kind := 1, ctx := 1, core := 0, src := 0, pc := 0, back := some (0, 0, 7) }] }
     startPending s = true ∧ gives (.spawn 9 1 2 none) s (holdMe s .engine 0 3) = true) ∧
    gives (.spawn 9 1 2 none) (regs 0 0 0x4004 0 0 0) (takeTrap (regs 0 0 0x4004 0 0 0) 0 0x04 0x4004) = true ∧
    (openFor (regs 0 0 0 0 0 0) 1 1 = false ∧ x9 (.spawn 9 1 2 none) 1 0x4000 0 = 2 ∧ x9 (.spawn 9 1 2 none) 0x2000 0x4000 0 = 2) ∧
    (openFor (regs 0 0 0 0 0 0) 0 1 = true ∧ startPending (regs 5 0 0x4000 6 0 0) = false ∧ (nx (.spawn 9 1 2 (some 2)) (regs 5 0 0x4000 6 0 0)).starts =
      [{ kind := 1, ctx := 1, core := 0, src := 0, pc := 0x1010, x := [5, 0, 0x4000, 6], stamp := (stampCore (regs 5 0 0x4000 6 0 0) 0).1, back := some (0, 0, 7) }]) := by decide +kernel

theorem test_quit : ((me markedDev).marksX ≠ 0 ∧ noMarks (me markedDev) = false ∧ gives .quit markedDev (holdMe markedDev .marks) = true) ∧
    (gives .quit (accDev (acc .store .plain 4 .none 5)) (holdMe (accDev (acc .store .plain 4 .none 5)) .marks) = true) ∧
    (let s := dev (oneThr { thr 0 0 0 0 0 0 with accs := [acc .store .plain 4 .none 5] })
     noMarks (me s) = true ∧ gives .quit s (holdMe s .access) = true) ∧
    (let t := nx .quit (dev { oneThr { thr 0 0 0 0 0 0 with privid := 3 } with ports := [(0, { word := 0x1000800000000000, owner := 0 })] })
     t.iss.phase = .ended ∧ thrAt t 0 0 = {} ∧ bKind (portAt t 0 0).word = 0 ∧ bExcl 0x1000800000000000 = true) := by decide +kernel

/-- Thread 0 with the address of a join cell at offset 0x100 in x1, 10 iterations in grains of 4 in x2; the cell counts n. -/
noncomputable def joinDev (a b : W64) (n : Nat) : State :=
  writeBytes (regs 0 a b 0x33 0x44 0x55) (scratchLoc 0 0x100) 64 (n + 9 * 2 ^ 64 + 3 * 2 ^ 128 + 0x5000 * 2 ^ 192 + 0xAA * 2 ^ 256 + 0xBB * 2 ^ 320 + 0xDD * 2 ^ 448)

theorem test_fork : (isGang (me (joinDev 0 0 0)) = false ∧ isTwin (me (joinDev 0 0 0)) = false ∧ isUpper (thrAt (joinDev 0 0 0) 0 1) = false) ∧ (thrAt (nx (.fork 1 2 .core 5) gangDev) 0 0).l1.ecause = 0x201 ∧
    gives (.fork 1 2 .core 5) (joinDev 0x0000E00000000120 0 0) (takeTrap (joinDev 0x0000E00000000120 0 0) 0 0x04 0x0000E00000000120) = true ∧
    gives (.fork 1 2 .core 5) (joinDev 0x0000E00000010000 0 0) (takeTrap (joinDev 0x0000E00000010000 0 0) 0 0x0A 0x0000E00000010000) = true ∧
    (thrAt (nx (.fork 1 2 .core 5) (joinDev 0x0000E00000000100 (4 * 2 ^ 32) 0)) 0 0).pc = 0x1028 ∧
    ((me (joinDev 0 0 0)).slot ≠ .parked ∧ noMarks (me (joinDev 0 0 0)) = true ∧ (me (joinDev 0 0 0)).accs = [] ∧ (coreAt (joinDev 0 0 0) 0).loose = [] ∧ (joinDev 0 0 0).feWait = [] ∧ (coreAt (joinDev 0 0 0) 0).runq = []) ∧
    (let t := nx (.fork 1 2 .core 5) (joinDev 0x0000E00000000100 (4 * 2 ^ 32 + 10) 0)
     t.iss.phase = .ended ∧ thrAt t 0 0 = {} ∧ t.starts.map (fun q => (q.core, q.slot, q.pc, q.x)) = [(0, some 1, 0x1008, [0, 10, 0x0000E00000000100, 0x33, 0x44, 0x55])] ∧
       readBytes t (scratchLoc 0 0x100) 64 = 1 + 2 ^ 64 + 0x1028 * 2 ^ 192 + 0x33 * 2 ^ 256 + 0x44 * 2 ^ 320 + 0x55 * 2 ^ 384) := by decide +kernel

theorem test_join : gives (.join 1) (joinDev 0x0000E00000000108 0 0) (takeTrap (joinDev 0x0000E00000000108 0 0) 0 0x04 0x0000E00000000108) = true ∧
    (thrAt (nx (.join 1) (joinDev 0x0000E00000000100 0 0)) 0 0).l1 = ⟨0x1000, 0x0A, 0x0000E00000000100, 0⟩ ∧
    (let t := nx (.join 1) (joinDev 0x0000E00000000100 0 2)
     t.iss.phase = .ended ∧ thrAt t 0 0 = {} ∧ readBytes t (scratchLoc 0 0x100) 4 = 1) ∧
    (let t := nx (.join 1) (joinDev 0x0000E00000000100 0 1)
     readBytes t (scratchLoc 0 0x100) 4 = 0 ∧ (thrAt t 0 0).pc = 0x5000 ∧ (thrAt t 0 0).privid = 3 ∧ (List.range 8).map (tget 0 (thrAt t 0 0).x) = [9, 0, 0x0000E00000000100, 0xAA, 0xBB, 0, 0xDD, 0]) := by decide +kernel

theorem test_migr : (thrAt (nx (.migr 1) (dev (oneThr { thr 0 0 0 0 0 0 with tl := 1 }))) 0 0).l2.ecause = 0x01 ∧ (thrAt (nx (.migr 1) gangDev) 0 0).l1.ecause = 0x201 ∧
    gives (.migr 1) (joinDev 0x0000C00000000000 0 0) (takeTrap (joinDev 0x0000C00000000000 0 0) 0 0x09 0x0000C00000000000) = true ∧
    (let s := dev (oneThr { thr 0 0x0000E00000000100 0 0 0 0 with busyTags := 1 })
     gives (.migr 1) s (holdMe s .engine 0 0) = true) ∧
    thrAt (nx (.migr 1) (joinDev 0x0000D00000000100 0 0)) 0 0 = me (joinDev 0x0000D00000000100 0 0) ∧
    (let s := { joinDev 0x0000D00000100100 0 0 with cores := (joinDev 0x0000D00000100100 0 0).cores ++ [(1, oneThr {})], ctxs := [(1, { ctx1 with place := [0, 1] })] }
     startPending s = false ∧ (translate s (whoOf s 0 0) rRead 0x0000D00000100100 1).1 = .reaches (.here (scratchLoc 1 0x100)) [] ∧
       (nx (.migr 1) s).starts = [{ kind := 3, ctx := 1, core := 1, src := 0, pc := 0x1008, stamp := (stampCore s 0).1, uid := 7, back := some (0, 0, 7), arg := 0x0000D00000100100 }]) := by decide +kernel

theorem test_anchor_and_messages : (thrAt (nx (.anchor 1) (regs 0 3 0 0 0 0)) 0 0).mode = 8 ∧ (thrAt (nx (.anchor 1) (dev (oneThr { thr 0 2 0 0 0 0 with mode := 8 }))) 0 0).mode = 0 ∧
    (let s := dev (oneThr { thr 0 0 0x4000 0 0 0 with busyTags := 8 })
     gives (.amsend 1 2 3 none) s (parkMe s .engine 0 0) = true) ∧
    gives (.amsend 1 2 3 none) (regs 0 0 0x4004 0 0 0) (takeTrap (regs 0 0 0x4004 0 0 0) 0 0x04 0x4004) = true ∧
    (let t := nx (.amsend 1 2 3 none) (regs 0 5120 0x4000 0 0 0)
     (thrAt t 0 0).tags = 8 ∧ (thrAt t 0 0).tagerr = 8 ∧ t.starts = []) ∧
    (routeState (regs 0 0 0 0 0 0) 5 = 0 ∧ (thrAt (nx (.amsend 1 2 3 none) (regs 0 (5 * 2 ^ 48) 0x4000 0 0 0)) 0 0).tagerr = 8) ∧
    ((nx (.amsend 1 2 3 none) (regs 9 5119 0x4000 0 0 0)).starts.map (fun q => (q.kind, q.core, q.pc, q.x, q.tag)) = [(4, 5119, 0x4000, [9, 5119, 0x4000, 0], 3)]) ∧
    (let s := { regs 0 (3 * 2 ^ 48 + 7) 0x4000 0 0 0 with routes := [(3, 1 <<< 62)] }
     routeState s 3 = 1 ∧ (nx (.amsend 1 2 3 none) s).ams = [⟨0, 0, 7, 3, 1, 3, 7, 0x4000, [0, 3 * 2 ^ 48 + 7, 0x4000, 0], 0, 1⟩] ∧ (thrAt (nx (.amsend 1 2 3 none) s) 0 0).busyTags = 8) := by decide +kernel

/-- Thread 0, its reservation at core 1 granted, on its way to MIGR. -/
noncomputable def departing : State :=
  { joinDev 0x0000D00000100100 0 0 with starts := [{ kind := 3, ctx := 1, core := 1, src := 0, pc := 0x1008, slot := some 4, uid := 7, back := some (0, 0, 7), arg := 0x0000D00000100100 }] }

theorem test_migr_departs : ((acceptedMigr (modThr departing 0 0 (fun th => { th with reply := some 0 }))).isSome = true ∧ acceptedMigr (joinDev 0 0 0) = none) ∧
    (let t := nx (.migr 1) (modThr departing 0 0 (fun th => { th with reply := some 0 }))
     t.iss.phase = .ended ∧ t.starts = [] ∧ thrAt t 0 0 = {} ∧ t.packets.map (fun q => (q.core, q.slot, q.uid, q.x)) = [(1, some 4, 7, [0, 0x0000D00000100100, 0, 0x33, 0x44, 0x55, 0, 0, 0, 0])]) := by decide +kernel

/-- A FORK that has recruited only ends; nothing is in the way of the cell of another. -/
theorem test_fork_again : (let s := dev (oneThr { thr 0 0x0000E00000000100 10 0 0 0 with forked := true })
      (nx (.fork 1 2 .core 5) s).iss.phase = .ended ∧ thrAt (nx (.fork 1 2 .core 5) s) 0 0 = {} ∧ (nx (.fork 1 2 .core 5) s).starts = []) ∧
    placeBlocked (joinDev 0 0 0) true (.here (scratchLoc 0 0x100)) 64 = false := by decide +kernel

/-! ## Starts -/

/-- A start of a kind for core d, sent by thread 0 of core 0, that has been refused or not. -/
noncomputable def start1 (kind d : Nat) : Start := { kind := kind, ctx := 1, core := d, src := 0, pc := 0x4000, x := [8, 9], tag := 3, back := some (0, 0, 7), slot := if kind = 2 then some 5 else none }
/-- Core 0 with its thread waiting, core 1 of the same context with some threads. -/
noncomputable def startDev (st : Start) (k : Core) : State :=
  { dev (oneThr {}) with cores := [(0, oneThr { thr 0 1 2 3 4 5 with slot := .parked, park := some ⟨.engine, 40, 0, 3⟩, tags := 0x10 }), (1, k)], ctxs := [(1, { ctx1 with place := [0, 1], ids := [0, 1, 3] })], starts := [st] }
noncomputable def fullCore (part : BitVec 15) : Core := { oneThr {} with part := part, threads := (List.range 16).map (fun t => (t, { thr 0 0 0 0 0 0 with uid := 20 + t })) }
noncomputable def freeCore : Core := { oneThr {} with threads := [] }

theorem test_starts : (openFor (startDev (start1 1 2) freeCore) 2 1 = false ∧ isThread (startDev (start1 1 2) freeCore) 0 0 7 = true ∧ (thrAt (nx (.startMessage 0) (startDev (start1 1 2) freeCore)) 0 0).reply = some 2) ∧
    (openFor (startDev (start1 1 1) freeCore) 1 1 = true ∧ freeSlot (startDev (start1 1 1) freeCore) 1 = some 0 ∧
      (let t := nx (.startMessage 0) (startDev (start1 1 1) freeCore)
       (thrAt t 1 0).slot = .loading ∧ (thrAt t 1 0).pc = 0x4000 ∧ (thrAt t 1 0).x = [(0, 8), (1, 9)] ∧ (thrAt t 1 0).privid = 2 ∧ (thrAt t 0 0).reply = some 0 ∧ t.starts = [])) ∧
    (freeSlot (startDev (start1 1 1) (fullCore part8)) 1 = none ∧ runqRoom (startDev (start1 1 1) (fullCore part8)) 1 = true ∧
      (coreAt (nx (.startMessage 0) (startDev (start1 1 1) (fullCore part8))) 1).runq = [start1 1 1] ∧ (thrAt (nx (.startMessage 0) (startDev (start1 1 1) (fullCore part8))) 0 0).reply = some 1) ∧
    (runqRoom (startDev (start1 1 1) (fullCore 1)) 1 = false ∧ (nx (.startMessage 0) (startDev (start1 1 1) (fullCore 1))).starts = [{ start1 1 1 with refused := some 100 }]) := by decide +kernel

/-- A recruit whose parent has ended. -/
noncomputable def recruit : Start := { start1 2 1 with back := some (0, 0, 99) }

theorem test_other_starts : (parentThere (startDev (start1 2 1) freeCore) (start1 2 1) = true ∧ gives (.startMessage 0) (startDev (start1 2 1) freeCore) (startDev (start1 2 1) freeCore) = true) ∧
    (parentThere (startDev recruit freeCore) recruit = false ∧ liveFor (startDev recruit freeCore) 1 1 = true ∧ (thrAt (nx (.startMessage 0) (startDev recruit freeCore)) 1 5).slot = .loading) ∧
    (outOfTurn (startDev (start1 1 1) { freeCore with entered := some (100, 4) }) (start1 1 1) = true ∧ outOfTurn (startDev (start1 1 1) freeCore) (start1 1 1) = false) ∧
    (let t := nx (.startMessage 0) (startDev (start1 3 1) freeCore)
     (thrAt t 0 0).reply = some 0 ∧ t.starts = [{ start1 3 1 with slot := some 0 }]) ∧
    ((thrAt (nx (.startMessage 0) (startDev (start1 3 2) freeCore)) 0 0).l1.ecause = 0x07) ∧
    ((nx (.startMessage 0) (startDev (start1 3 1) (fullCore part8))).starts = [{ start1 3 1 with queued := true }]) ∧
    ((thrAt (nx (.startMessage 0) (startDev (start1 4 2) freeCore)) 0 0).tagerr = 8) ∧ ((thrAt (nx (.startMessage 0) (startDev (start1 4 1) freeCore)) 0 0).tags = 0x18) ∧
    ((nx (.startMessage 0) (startDev (start1 4 1) (fullCore 1))).ams = [⟨0, 0, 7, 3, 1, 0, 1, 0x4000, [8, 9], 0, 0⟩]) := by decide +kernel

theorem test_start_events : (let s := dev (oneThr { thr 1 2 3 4 5 6 with slot := .loading })
      thrAt (nx (.slotLoaded 0 0) s) 0 0 = thr 1 2 3 4 5 6) ∧
    (nx (.startResend 0 0) (startDev { start1 1 1 with refused := some 36 } freeCore)).starts = [start1 1 1] ∧
    (nx (.startResend 0 0) (startDev { start1 1 1 with refused := some 37 } freeCore)).starts = [{ start1 1 1 with refused := some 37 }] := by decide +kernel

/-- A migrating thread on its way to slot 4 of core d. -/
noncomputable def packetDev (d : Nat) : State :=
  { startDev (start1 1 1) freeCore with packets := [{ start1 3 d with back := none, slot := some 4, uid := 7, pred := 0x0003000200010000, status := BitVec.ofNat 64 (3 * 2 ^ 44 + 2 ^ 43 + 5 * 2 ^ 38 + 7 * 2 ^ 33 + 2 * 2 ^ 31 + 9 * 2 ^ 25), tags := 0x30, anchor := some 0x55 }] }

theorem test_migration_arrives : (liveFor (packetDev 2) 2 1 = false ∧ (ctxAt (nx (.migrArrival 0) (packetDev 2)) 1).ids = [0, 1]) ∧ liveFor (packetDev 1) 1 1 = true ∧
    thrAt (nx (.migrArrival 0) (packetDev 1)) 1 4 = { slot := .loading, uid := 7, ctx := 1, pc := 0x4000, x := [(0, 8), (1, 9)], m1 := 1, m2 := 2, m3 := 3, privid := 3, seat := 0x55, mode := 8, tags := 0x30, fflags := 5, fen := 7, rm := 2, pdeg := 9, hbase := 0x40000 } := by decide +kernel

/-- An active message to send again, at a time. -/
noncomputable def amDev (d dst ns : Nat) : State := { startDev (start1 1 1) freeCore with ams := [⟨0, 0, 7, 3, 1, d, dst, 0x4000, [8], 0, 0⟩], dies := [(0, { ns := ns })], routes := [(5, 2 <<< 62)] }

theorem test_messages_again : gives (.amsendRetry 0) (amDev 0 1 49999) (amDev 0 1 49999) = true ∧ (thrAt (nx (.amsendRetry 0) (amDev 0 2 50000)) 0 0).tagerr = 8 ∧
    ((thrAt (nx (.amsendRetry 0) (amDev 0 1 50000)) 0 0).tags = 0x18 ∧ (thrAt (nx (.amsendRetry 0) (amDev 0 1 50000)) 1 0).pc = 0x4000) ∧
    (routeState (amDev 5 1 0) 5 = 2 ∧ (thrAt (nx (.amsendRetry 0) (amDev 5 1 0)) 0 0).tagerr = 8) := by decide +kernel

/-- A kernel without threads on cores 0, whose group leaves, and 1. -/
noncomputable def kernelDev (g : GroupState) (kern : KernState) (relaunch : W64) : State :=
  { dev { freeCore with group := g } with cores := [(0, { freeCore with group := g }), (1, freeCore)], ctxs := [(1, { ctx1 with place := [0, 1], kern := kern, relaunch := relaunch, count := 6 })], cells := [(3, { ctx := 1, st := 1 })] }

theorem test_kernels : (kernelIdle (kernelDev .active .running 0) 1 = true ∧ (let t := nx (.kernelComplete 1) (kernelDev .active .running 0)
      ctxAt t 1 = {} ∧ (coreAt t 1).group = .exited ∧ t.cells = [])) ∧
    gives (.kernelComplete 1) (kernelDev .evacuating .shrinking 0x5000) (kernelDev .evacuating .shrinking 0x5000) = true ∧
    ctxAt (nx (.kernelComplete 1) (kernelDev .evacuating .shrinking 0)) 1 = {} ∧ gives (.kernelRelaunch 1) (kernelDev .active .running 0x5000) (kernelDev .active .running 0x5000) = true ∧
    ((staying (kernelDev .evacuating .shrinking 0x5000) 1).filter (fun c => (coreAt (kernelDev .evacuating .shrinking 0x5000) c).group == .active) = [1] ∧
      (let t := nx (.kernelRelaunch 1) (kernelDev .evacuating .shrinking 0x5000)
       (ctxAt t 1).kern = .running ∧ (coreAt t 0).group = .exited ∧ (thrAt t 1 0).pc = 0x5000 ∧ (thrAt t 1 0).x = [(0, 7), (1, 1)])) := by decide +kernel

/-! ## Barriers and semaphores -/

/-- Thread 0 of core 0 with a barrier word in x1 and a number in x2, beside the cell of word 0x34000 (cluster 0, cell 3), which is number 3. -/
noncomputable def cellDev (w k : W64) (x : Cell) : State := { regs 0 w k 0 0 0 with cells := if x = {} then [] else [(3, x)] }
/-- What a barrier instruction leaves: x9, the cell, and the cause of its trap. -/
noncomputable def bars (i : Instr) (w k : W64) (x : Cell) : W64 × Cell × W64 := let t := nx i (cellDev w k x); (tget 0 (thrAt t 0 0).x 9, cellAt t 3, (thrAt t 0 0).l1.ecause)

theorem test_barrier_words : isTwin (me (cellDev 0 0 {})) = false ∧ (let s := accDev (acc .store .plain 4 .none 5)
      plainBusy (me s) = true ∧ (thrAt (nx (.barinit 9 1 2) s) 0 0).park = some ⟨.access, 100, 0, 0⟩) ∧
    (let s := dev (oneThr { thr 0 0 0 0 0 0 with reply := some 6 })
     tget 0 (thrAt (nx (.semp 9 1) s) 0 0).x 9 = 6) ∧ plainBusy (me (cellDev 0 0 {})) = false ∧ bars (.barwait 9 1 2) 0x34001 0 {} = (0, {}, 0x0A) ∧ bars (.bararr 9 1 2) 0x30000 0 {} = (0, {}, 0x0A) ∧
    bars (.baraw 9 1 2) 0x134000 0 {} = (0, {}, 0x0A) ∧ bars (.barinit 9 1 2) 0x36001 0 {} = (0, {}, 0x0A) ∧ cellAt (nx (.barinit 9 1 2) (cellDev 0xF8000 81920 {})) (2624 + 15) = ⟨1, 1, 0, 81920, 0⟩ ∧
    cellAt (nx (.barinit 9 1 2) (cellDev 0x06000 20480 {})) 2560 = ⟨1, 1, 0, 20480, 0⟩ := by decide +kernel

theorem test_barinit : bars (.barinit 9 1 2) 0x34000 513 {} = (2, {}, 0) ∧ bars (.barinit 9 1 2) 0x34000 0 {} = (2, {}, 0) ∧ bars (.barinit 9 1 2) 0x34000 512 {} = (0, ⟨1, 1, 0, 512, 0⟩, 0) ∧
    bars (.barinit 9 1 2) 0x34000 5 ⟨2, 1, 0, 9, 0⟩ = (1, ⟨2, 1, 0, 9, 0⟩, 0) ∧ bars (.barinit 9 1 2) 0x34000 5 ⟨1, 1, 7, 9, 1⟩ = (3, ⟨1, 1, 7, 9, 1⟩, 0) ∧
    bars (.barinit 9 1 2) 0x34000 5 ⟨1, 1, 7, 9, 0⟩ = (0, ⟨1, 1, 7, 5, 0⟩, 0) ∧ bars (.barinit 9 1 2) 0x34000 0 ⟨1, 1, 7, 9, 0⟩ = (0, {}, 0) := by decide +kernel

theorem test_arrivals_count : bars (.bararr 9 1 2) 0x34000 0 ⟨1, 1, 7, 9, 2⟩ = (0, ⟨1, 1, 7, 9, 2⟩, 0x0A) ∧ bars (.baraw 9 1 2) 0x34000 8 ⟨1, 1, 7, 9, 2⟩ = (0, ⟨1, 1, 7, 9, 2⟩, 0x0A) ∧
    bars (.bararr 9 1 2) 0x34000 6 ⟨1, 1, 7, 9, 2⟩ = (7, ⟨1, 1, 7, 9, 8⟩, 0) ∧ bars (.bararr 9 1 2) 0x34000 7 ⟨1, 1, 255, 9, 2⟩ = (255, ⟨1, 1, 0, 9, 0⟩, 0) ∧
    ((nx (.bararr 9 1 2) (cellDev 0x34000 7 ⟨1, 1, 255, 9, 2⟩)).wakes = [⟨3, 255, 0, [], 100⟩]) ∧ bars (.baraw 9 1 2) 0x34000 7 ⟨1, 1, 255, 9, 2⟩ = (255, ⟨1, 1, 0, 9, 0⟩, 0) ∧
    (thrAt (nx (.baraw 9 1 2) (cellDev 0x34000 6 ⟨1, 1, 7, 9, 2⟩)) 0 0).park = some ⟨.sync, 100, 0x34000, 30⟩ ∧ bars (.barwait 9 1 2) 0x34000 7 ⟨2, 1, 7, 9, 2⟩ = (0, ⟨2, 1, 7, 9, 2⟩, 0x0A) ∧
    bars (.barwait 9 1 2) 0x34000 6 ⟨1, 1, 7, 9, 2⟩ = (0, ⟨1, 1, 7, 9, 2⟩, 0) ∧ (thrAt (nx (.barwait 9 1 2) (cellDev 0x34000 0x107 ⟨1, 1, 7, 9, 2⟩)) 0 0).park = some ⟨.sync, 100, 0x34000, 28⟩ := by decide +kernel

/-- Thread 0 of core 0 with two registers, beside a semaphore 5 and the threads that wait for it. -/
noncomputable def semDev (w k : W64) (n : Nat) (ws : List (Nat × Nat)) : State :=
  dev { oneThr (thr 0 w k 0 0 0) with threads := [(0, thr 0 w k 0 0 0), (2, { thr 0 0 0 0 0 0 with uid := 9, slot := .parked, park := some ⟨.sync, 40, 5, 1⟩, fewait := 60 })], sems := [(5, n)], semWait := ws }

theorem test_semaphores : tget 0 (coreAt (nx (.semp 9 1) (semDev 0x15 0 3 [])) 0).sems 5 = 2 ∧ ((thrAt (nx (.semp 9 1) (semDev 5 0 0 [])) 0 0).park = some ⟨.sync, 100, 5, 1⟩ ∧ (coreAt (nx (.semp 9 1) (semDev 5 0 0 [(5, 0), (1, 2)])) 0).semWait = [(1, 2), (5, 0)]) ∧
    (thrAt (nx (.semv 1 2) (semDev 0x52000 1 0 [])) 0 0).l1.ecause = 0x0A ∧ (liveFor (semDev 0 0 0 []) 1 1 = false ∧ (thrAt (nx (.semv 1 2) (semDev 0x50001 1 0 [])) 0 0).l1.ecause = 0x07) ∧
    (semAt (nx (.semv 1 2) (semDev 0x50000 0xFFFFFFFF 3 [(4, 2)])) 0 5 = 0xFFFFFFFF ∧ (thrAt (nx (.semv 1 2) (semDev 0x50000 1 3 [])) 0 2).events = 4) ∧
    (parkedFor (thrAt (semDev 0 0 0 []) 0 2) .sync = true ∧ (let t := nx (.semv 1 2) (semDev 0x50000 1 0 [(5, 2), (5, 6)])
      (thrAt t 0 2).reply = some 0 ∧ (thrAt t 0 2).slot = .ready ∧ semAt t 0 5 = 0 ∧ (coreAt t 0).semWait = [(5, 6)])) := by decide +kernel

/-- A thread that waits for phase 7 of cell 3 since cycle 40, with a limit of 60 cycles. -/
noncomputable def waitDev (aux : W64) (obj : W64) (time : Nat) : State :=
  { dev { oneThr { thr 0 0 0 0 0 0 with slot := .parked, park := some ⟨.sync, 40, obj, aux⟩, fewait := 60 } with time := time, semWait := [(5, 0)] } with wakes := [⟨3, 7, 0, [7], 60⟩] }

theorem test_wakes : (thrAt (nx (.barrierWake 0) (waitDev 30 0x34000 50)) 0 0 = { thr 0 0 0 0 0 0 with fewait := 60, reply := some 7 }) ∧ ((thrAt (nx (.barrierWake 0) (waitDev 32 0x34000 50)) 0 0).slot = .parked) ∧
    gives (.syncTimeout 0 0) (waitDev 28 0x34000 100) (waitDev 28 0x34000 100) = true ∧ (thrAt (nx (.syncTimeout 0 0) (waitDev 28 0x34000 101)) 0 0).reply = some 1 ∧
    (thrAt (nx (.syncTimeout 0 0) (waitDev 30 0x34000 101)) 0 0).reply = some 0x8000000000000007 ∧ (coreAt (nx (.syncTimeout 0 0) (waitDev 1 5 101)) 0).semWait = [] := by decide +kernel

/-- A BARAW that has arrived in phase 7 only waits, or ends with that phase. -/
noncomputable def arrivedDev (x : Cell) : State := modThr (cellDev 0x34000 6 x) 0 0 (fun th => { th with arrived := [⟨0x1000, 0x34000, 7, 0⟩] })

theorem test_arrived : hasArrived (arrivedDev {}) 0x34000 = some 7 ∧ hasArrived (cellDev 0x34000 6 {}) 0x34000 = none ∧
    (thrAt (nx (.baraw 9 1 2) (arrivedDev ⟨1, 1, 7, 9, 2⟩)) 0 0).park = some ⟨.sync, 100, 0x34000, 30⟩ ∧ cellAt (nx (.baraw 9 1 2) (arrivedDev ⟨1, 1, 7, 9, 2⟩)) 3 = ⟨1, 1, 7, 9, 2⟩ ∧
    tget 0 (thrAt (nx (.baraw 9 1 2) (arrivedDev ⟨1, 1, 8, 9, 2⟩)) 0 0).x 9 = 7 ∧ (thrAt (nx (.baraw 9 1 2) (arrivedDev ⟨2, 1, 7, 9, 2⟩)) 0 0).l1.ecause = 0x0A ∧
    cellWaited (cellDev 0x34000 6 ⟨1, 1, 7, 9, 0⟩) 3 = false := by decide +kernel

/-! ## Gangs and twins -/

/-- A thread in slot u with some mode and level, beside the slot above it. -/
noncomputable def pairDev (u : Nat) (mode : BitVec 4) (tl : Nat) (odd : Thread) (marks : BitVec 32) : State :=
  { dev { oneThr {} with threads := [(u, { thr 0 0 0 0 0 0 with mode := mode, tl := tl, marksX := marks }), (u + 1, odd)] } with iss := { slot := u, pc := 0x1000, word := 0x55, phase := .going } }
noncomputable def gangs (i : Instr) (s : State) : W64 := tget 0 (thrAt (nx i s) s.iss.core s.iss.slot).x 9

theorem test_gangs : gangs (.gang 9) (pairDev 1 0 0 {} 0) = 2 ∧ gangs (.gang 9) (pairDev 0 0 2 {} 0) = 4 ∧ gangs (.gang 9) (pairDev 0 1 0 {} 0) = 3 ∧ gangs (.gang 9) (pairDev 0 0 0 { slot := .ready } 0) = 1 ∧
    (thrAt (nx (.gang 9) (pairDev 14 0 0 {} 0)) 0 14).mode = 1 ∧ thrAt (nx (.gang 9) (pairDev 14 0 0 {} 0)) 0 15 = { slot := .ganghigh, uid := 1, ctx := 1 } ∧
    thrAt (nx (.gang 9) (pairDev 0 0 0 { slot := .split, v := [(1, 5)] } 0)) 0 1 = { slot := .ganghigh, v := [(1, 5)] } ∧ thrAt (nx .ungang (pairDev 0 1 0 { slot := .ganghigh } 0)) 0 1 = {} ∧
    (thrAt (nx .ungang (pairDev 0 0 1 { slot := .split } 0)) 0 0).mode = 0 ∧ gives .ungang (pairDev 0 0 0 {} 0) (pairDev 0 0 0 {} 0) = true ∧ gives .ungang (pairDev 1 0 0 { slot := .ganghigh } 0) (pairDev 1 0 0 { slot := .ganghigh } 0) = true := by decide +kernel

theorem test_twins : gangs (.twin 9) (pairDev 1 0 0 {} 0) = 2 ∧ gangs (.twin 9) (pairDev 0 0 1 {} 0) = 4 ∧ gangs (.twin 9) (pairDev 0 1 0 {} 0) = 3 ∧ gangs (.twin 9) (pairDev 0 0 0 { slot := .split } 0) = 1 ∧
    ((nx (.twin 9) (pairDev 0 0 0 {} 4)).iss.phase = .held) ∧ gives .untwin (pairDev 0 0 0 {} 0) (pairDev 0 0 0 {} 0) = true ∧
    (thrAt (nx (.twin 9) (pairDev 0 8 0 {} 0)) 0 0).mode = 10 ∧ ((thrAt (nx (.twin 9) (pairDev 0 8 0 {} 0)) 0 1).mode = 14 ∧ (thrAt (nx (.twin 9) (pairDev 0 8 0 {} 0)) 0 1).slot = .trailing ∧ (thrAt (nx (.twin 9) (pairDev 0 8 0 {} 0)) 0 1).pc = 0x1008) := by decide +kernel

theorem test_untwin : (let s := modThr (twinDev 0 []) 0 0 (fun th => { th with cmp := [{ enc := 0x55, addr := 0, size := 0, ord := 0, data := 0, acc := none, met := true }] })
      isTwin (me s) = true ∧ isTrail (me s) = false ∧ s.iss.phase = .going ∧ thrAt (nx .untwin s) 0 1 = {} ∧ (thrAt (nx .untwin s) 0 0).mode = 0) := by decide +kernel

/-! ## Contexts -/

/-- A privileged thread 0 of context 2 on core 0, with a thread word in x1 and a mode in x2; context 1 with a thread in slot 1 of core 1. -/
noncomputable def ctxDev (w m : W64) (th : Thread) (x : Ctx) : State :=
  let k := { oneThr { thr 0 w m 0 0 0 with ctx := 2 } with ctx := 2 }
  { devP k with
    cores := [(0, k), (1, { oneThr {} with threads := [(1, th)] })], ctxs := [(1, x), (2, { ctx1 with priv := true })], cells := [(3, { ctx := 1, st := 1 })] }
noncomputable def live1 : Ctx := { ctx1 with place := [1], killrec := 0x77, supcore := 1 }
noncomputable def victim : Thread := { thr 0 0 0 0 0 0 with uid := 9 }
/-- The word of that thread. -/
noncomputable def word1 : W64 := 1 + 1 * 2 ^ 12 + 1 * 2 ^ 25
noncomputable def ctx9 (i : Instr) (w m : W64) (th : Thread) (x : Ctx) : W64 := tget 0 (thrAt (nx i (ctxDev w m th x)) 0 0).x 9

theorem test_context_statuses : isTwin (me (ctxDev 0 0 victim live1)) = false ∧ privileged (ctxDev 0 0 victim live1) (was (ctxDev 0 0 victim live1)) = true ∧ ctx9 (.killThread 9 1 2) (word1 + 2 ^ 25) 0 victim live1 = 1 ∧
    ctx9 (.wake 9 1) word1 0 victim {} = 1 ∧ (0 ∈ unitSlots (ctxDev 0 0 victim live1) 0 0 ∧ ctx9 (.killThread 9 1 2) 2 0 victim live1 = 3) ∧ (thrAt (nx (.killThread 9 1 2) (ctxDev word1 0 victim live1)) 1 1 = {}) ∧
    ctx9 (.killContext 9 1 2) 5 0 victim live1 = 1 ∧ ctx9 (.killContext 9 1 2) 2 0 victim live1 = 3 ∧ ctx9 (.killContext 9 1 2) 1 0 victim { live1 with st := .killed } = 2 := by decide +kernel

theorem test_kill_context : (let t := nx (.killContext 9 1 2) (ctxDev 1 0 victim live1)
    (ctxAt t 1).st = .killed ∧ (coreAt t 1).group = .exited ∧ thrAt t 1 1 = {} ∧ t.cells = [] ∧ t.hostOut.map (·.op) = [0x0C] ∧ t.hostOut.map (fun m => m.body.getLast?) = [some 0x77]) ∧
    (coresOf (ctxDev 1 0 victim { live1 with place := [] }) 1 = [] ∧ (ctxAt (nx (.killContext 9 1 2) (ctxDev 1 0 victim { live1 with place := [] })) 1).st = .free) := by decide +kernel

theorem test_wake_and_resume : ctx9 (.wake 9 1) word1 0 { victim with slot := .halted } live1 = 2 ∧ (thrAt (nx (.wake 9 1) (ctxDev word1 0 victim live1)) 1 1 = { victim with events := 8 }) ∧
    (thrAt (nx (.wake 9 1) (ctxDev word1 0 { victim with slot := .parked, park := some ⟨.event, 40, 12, 0⟩ } live1)) 1 1 = { victim with events := 8 }) ∧ ctx9 (.resumeRetry 9 1 2) word1 3 { victim with slot := .parked, park := some ⟨.supervisor, 40, 0, 0⟩ } live1 = 2 ∧
    ctx9 (.resumeHandler 9 1 2) word1 2 { victim with slot := .parked, park := some ⟨.fpx, 40, 0, 0⟩ } live1 = 2 ∧ thrAt (nx (.resumeSkip 9 1 2) (ctxDev word1 1 { victim with slot := .parked, park := some ⟨.fpx, 40, 0, 0⟩ } live1)) 1 1 = victim ∧
    ctx9 (.resumeRetry 9 1 2) word1 0 victim live1 = 2 := by decide +kernel

/-- A thread parked SUPERVISOR at level 2 for cause 0x0A. -/
noncomputable def referredThr : Thread := { victim with slot := .parked, park := some ⟨.supervisor, 40, 0, 0⟩, tl := 2, l2 := ⟨0x2000, 0x10A, 0, 0x0003000200010⟩ }

theorem test_resume_modes : thrAt (nx (.resumeRetry 9 1 2) (ctxDev word1 0 referredThr live1)) 1 1 = { referredThr with slot := .ready, park := none, tl := 1, pc := 0x2000, m1 := 0x10, m2 := 0x20, m3 := 0x30 } ∧
    (thrAt (nx (.resumeSkip 9 1 2) (ctxDev word1 1 referredThr live1)) 1 1).pc = 0x2008 ∧
    thrAt (nx (.resumeHandler 9 1 2) (ctxDev word1 2 referredThr live1)) 1 1 = { referredThr with slot := .ready, park := none, pc := 0x40280 } := by decide +kernel

theorem test_preempt : (let s := modThr (ctxDev 1 0 victim live1) 0 0 (fun th => { th with reply := some 0 })
      tget 1 (thrAt (nx (.preempt 9 1) s) 0 0).x 9 = 0) ∧
    (let s := ctxDev 1 0 victim { live1 with waiter := some (0, 0, 7) }
     gives (.preempt 9 1) s (holdMe s .preempt) = true) ∧ ctx9 (.preempt 9 1) 5 0 victim live1 = 1 ∧ ctx9 (.preempt 9 1) 2 0 victim live1 = 3 ∧ ctx9 (.preempt 9 1) 1 0 victim { live1 with st := .saved } = 2 ∧
    (ctxAt (nx (.preempt 9 1) (ctxDev 1 0 victim live1)) 1 = { live1 with st := .preempting, image := some { stamp := (stampCore (ctxDev 1 0 victim live1) 0).1 }, waiter := some (0, 0, 7) }) := by decide +kernel

/-- A supervisor message for core 0, whose mailbox 0 (entry 4) has a number of slots, one taken. -/
noncomputable def supDev (slots : Nat) : State := { setMbox (regs 0 0 0 0 0 0) 0 4 ⟨0x100, slots, true, 2, 0, 2, 1⟩ with sups := [{ ctx := 1, core := 0, words := [1, 2, 3, 4] }] }

theorem test_supervisor_messages : (mboxById (regs 0 0 0 0 0 0) 0 0 = none ∧ mboxById (supDev 3) 0 0 = some 4 ∧ (coreAt (supDev 3) 0).resvs = []) ∧ gives (.supervisorMessageRetry 0) (supDev 2) (supDev 2) = true ∧
    (let t := nx (.supervisorMessageRetry 0) (supDev 3)
     t.sups = [] ∧ (mbox t 0 4).count = 3 ∧ readBytes t (scratchLoc 0 0x100) 32 = 1 + 2 * 2 ^ 64 + 3 * 2 ^ 128 + 4 * 2 ^ 192) := by decide +kernel

/-- Core 0 of a context that is preempted, with one thread. -/
noncomputable def haltDev (stopping : Bool) (th : Thread) : State :=
  let s := dev { oneThr th with stopping := stopping, sfu := [⟨0, 7, 0, 0, .fp32, false, false, 1, 0, 3, 0⟩] }
  modArr { s with ctxs := [(1, { ctx1 with st := .preempting, savebase := 0x100000, waiter := some (1, 0, 3), image := some { stamp := 0x99 } })] } 0 (fun a => { a with holder := some 0 })

theorem test_halts : gives (.preemptRequest 0) (haltDev true {}) (haltDev true {}) = true ∧ ((coreAt (haltDev false {}) 0).loose = [] ∧ (cluAt (haltDev false {}) 0).agent.cons = [] ∧ (cluAt (haltDev false {}) 0).agent.binds = []) ∧
    (let t := nx (.preemptRequest 0) (haltDev false { thr 0 0 0 0 0 0 with slot := .parked, park := some ⟨.event, 40, 1, 0⟩ })
     (coreAt t 0).stopping = true ∧ (coreAt t 0).sfu = [] ∧ (coreAt t 0).sfuHeld.length = 1 ∧ (cluAt t 0).arr.frozen = some 1 ∧ (thrAt t 0 0).slot = .halted ∧ (thrAt t 0 0).park = some ⟨.event, 40, 1, 0⟩) ∧
    (let s := haltDev true { thr 0 0 0 0 0 0 with slot := .parked, park := some ⟨.busy, 40, 1, 0⟩, busyTil := 101 }
     gives (.threadHalt 0 0) s s = true) ∧ gives (.threadHalt 0 0) (haltDev false (thr 0 0 0 0 0 0)) (haltDev false (thr 0 0 0 0 0 0)) = true ∧
    thrAt (nx (.threadHalt 0 0) (haltDev true (thr 0 1 2 3 4 5))) 0 0 = { thr 0 1 2 3 4 5 with slot := .halted, halted := .ready } := by decide +kernel

theorem halt_waits_for_none (v : Nat) : (thrAt (haltDev false {}) 0 v).resv = [] ∧ (thrAt (haltDev false {}) 0 v).traps = [] ∧ (thrAt (haltDev false {}) 0 v).forked = false :=
  tget_ind (fun (th : Thread) => th.resv = [] ∧ th.traps = [] ∧ th.forked = false) ({} : Thread) (by decide) (coreAt (haltDev false {}) 0).threads (by decide +kernel) v

theorem test_errors : gives (.ueKill 0 5) (regs 0 0 0 0 0 0) (regs 0 0 0 0 0 0) = true ∧ thrAt (nx (.ueKill 0 0) (regs 0 0 0 0 0 0)) 0 0 = { slot := .killed, uid := 7, ctx := 1, pdeg := 0, fewait := 0 } ∧
    gives (.poison 5 0x40) (regs 0 0 0 0 0 0) (regs 0 0 0 0 0 0) = true ∧ (mboxById (regs 0 0 0 0 0 0) 0 0 = none ∧
      (nx (.poison 1 0x40) (regs 0 0 0 0 0 0)).sups = [{ ctx := 1, core := 0, words := [(stampDie (regs 0 0 0 0 0 0) 0).1, threadWord 0 false 0x45 0 0 1, 0, 0x40] }]) := by decide +kernel

/-- A preempted context whose cores have all left, beside the cells and arrays it held. -/
noncomputable def imageDev (frozen : Bool) : State :=
  let s := haltDev true {}
  { modArr s 0 (fun _ => if frozen then { frozen := some 1, prev := 4, holder := some 0 } else {}) with
    cores := [(0, { freeCore with group := .exited }), (1, oneThr { thr 0 0 0 0 0 0 with uid := 3, slot := .parked, park := some ⟨.preempt, 40, 0, 0⟩, ctx := 2 })], cells := [(3, { ctx := 1, st := 1, expect := 4 })] }

theorem test_image_done : ((ctxAt (imageDev false) 1).image = some { stamp := 0x99 } ∧ (imageDev false).feWait = [] ∧ staying (imageDev false) 1 = [] ∧ (ctxAt (imageDev false) 1).st = .preempting) ∧
    coreHalted (haltDev true (thr 0 0 0 0 0 0)) 0 = false ∧ gives (.imageDone 1) (haltDev true (thr 0 0 0 0 0 0)) (haltDev true (thr 0 0 0 0 0 0)) = true ∧
    (let t := nx (.imageDone 1) (imageDev false)
     (ctxAt t 1).st = .saved ∧ (ctxAt t 1).waiter = none ∧ readBytes t 0x100000 8 = 3 ∧ readBytes t 0x100008 8 = 0x99 ∧ t.cells = [(3, { ctx := 1, st := 2, expect := 4 })] ∧ (thrAt t 1 0).reply = some 0) ∧
    readBytes (nx (.imageDone 1) (imageDev true)) 0x100000 8 = 1 := by decide +kernel

theorem test_spill : ((cluAt (imageDev true) 0).arr.frozen = some 1 ∧ (cluAt (imageDev true) 0).arr.waiters = []) ∧ (cluAt (nx (.arraySpillDone 0) (imageDev true)) 0).arr = { prev := 4 } ∧
    (ctxAt (nx (.arraySpillDone 0) (imageDev true)) 1).image = some { stamp := 0x99, arrs := [(0, { frozen := some 1, prev := 4, holder := some 0 })] } := by decide +kernel

/-- A claimed core 0 of a restoring context, whose image holds one block without banks: an even word of s registers and a READY thread in slot 0. -/
noncomputable def restoreDev : State :=
  let x : Ctx := { ctx1 with st := .restoring, imageAt := 0x100000, image := some { stamp := 0, fin := true, cores := [⟨0, freeCore, []⟩] } }
  let s := { dev { freeCore with group := .claimed, part := 0 } with ctxs := [(1, x)] }
  writeBytes (writeBytes (writeBytes (writeBytes s 0x100148 8 0xABC) 0x103100 8 2) 0x103108 8 0x5000) 0x103120 8 0x77

theorem test_restore : ((ctxAt restoreDev 1).st = .restoring ∧ (coreAt restoreDev 0).group = .claimed ∧ restoreDev.feWait = [] ∧ recordsOf restoreDev 0x100000 256 = 0x103100 ∧
      (blockFor restoreDev (ctxAt restoreDev 1) 0).map (·.1) = some 256 ∧ heldArray { stamp := 0 } 0 = none ∧ coresOf restoreDev 1 = [0]) ∧
    (readBytes restoreDev 0x103100 8 % 16 = 2 ∧ (let t := nx (.coreBlockLoaded 0) restoreDev
      (coreAt t 0).group = .active ∧ tget 0 (coreAt t 0).s 1 = 0xABC ∧ (thrAt t 0 0).slot = .ready ∧ (thrAt t 0 0).pc = 0x5000 ∧ tget 0 (thrAt t 0 0).x 0 = 0x77 ∧ (ctxAt t 1).st = .live)) ∧
    gives (.coreBlockLoaded 0) (regs 0 0 0 0 0 0) (regs 0 0 0 0 0 0) = true := by decide +kernel

/-- Core 0 in a group state, of a context in another. -/
noncomputable def groupDev (g : GroupState) (x : CtxState) (place : List Nat) : State :=
  { dev { oneThr (thr 0 0 0 0 0 0) with group := g, s := [(1, 5)], ports := [(0, { word := 5 })] } with
    cores := [(0, { oneThr (thr 0 0 0 0 0 0) with group := g, s := [(1, 5)], ports := [(0, { word := 5 })] }), (1, { freeCore with group := .claimed })], ctxs := [(1, { ctx1 with st := x, place := place })], mem := [⟨scratchLoc 0 5, 9⟩] }

theorem test_group_events : gives (.claimWipeComplete 0) (groupDev .active .loading [0]) (groupDev .active .loading [0]) = true ∧
    ((coreAt (nx (.claimWipeComplete 0) (groupDev .claimed .loading [0])) 0).group = .active ∧ (ctxAt (nx (.claimWipeComplete 0) (groupDev .claimed .loading [0])) 1).st = .live) ∧
    (ctxAt (nx (.claimWipeComplete 0) (groupDev .claimed .loading [0, 1])) 1).st = .loading ∧ gives (.groupExit 0) (groupDev .active .live [0]) (groupDev .active .live [0]) = true ∧
    (let t := nx (.groupExit 0) (groupDev .exited .live [0])
     (coreAt t 0).group = .idle ∧ (coreAt t 0).part = 0 ∧ (coreAt t 0).threads = [] ∧ (coreAt t 0).ports = [] ∧ readByte t (scratchLoc 0 5) = 0) := by decide +kernel

/-! ## Mappings -/

/-- A privileged thread of context 1 with a target word in x1 and an operand in x2, the table of context 1 in memory, and a record at offset 0x200 of the scratchpad. -/
noncomputable def mapDev (w b : W64) : State :=
  let s := { devP (oneThr (thr 0 w b 0 0 0)) with ctxs := [(1, { ctx1 with priv := true, groot := 0x10000 })], dierdy := 1 }
  writeBytes (placeBytes (placeTables s) 0x14018 0x0500000000000000) (scratchLoc 0 0x200) 16 0x60001F
/-- The target word of context 1, a level, an address. -/
noncomputable def target (lvl va : Nat) : W64 := BitVec.ofNat 64 (2 ^ 52 + (lvl - 1) * 2 ^ 48 + va)
/-- What the mapping unit will answer. -/
noncomputable def unitAnswer (s : State) : Option W64 := s.shoots.head?.map (·.value)
noncomputable def map9 (i : Instr) (w b : W64) : Option W64 := unitAnswer (nx i (mapDev w b))

theorem test_map_waits : (isTwin (me (mapDev 0 0)) = false ∧ privileged (mapDev 0 0) (was (mapDev 0 0)) = true ∧ (me (mapDev 0 0)).reply = none ∧ (me (mapDev 0 0)).accs = [] ∧ (coreAt (mapDev 0 0) 0).loose = []) ∧
    (let s := modThr (mapDev 0 0) 0 0 (fun th => { th with reply := some 5 })
     tget 0 (thrAt (nx (.pghotRead 9 1 2) s) 0 0).x 9 = 5) ∧
    (let s := { mapDev 0 0 with shoots := [⟨0, 0, 7, 9, [1], 0⟩] }
     gives (.tlbflPage 9 1 2) s (holdMe s .engine 0 3) = true) ∧
    (let s := { mapDev (target 1 0) 0 with shoots := [⟨1, 0, 8, 1, [1], 0⟩] }
     gives (.mapset 9 1 2) s (holdMe s .engine 0 5) = true) := by decide +kernel

theorem test_mapset : map9 (.mapset 9 1 2) (target 1 0xC00000000000) 0 = some 2 ∧ (thrAt (nx (.mapset 9 1 2) (mapDev (target 3 0x200000) 0x0000E00000000208)) 0 0).l1.ecause = 0x04 ∧
    (thrAt (nx (.mapset 9 1 2) (mapDev (target 3 0x200000) 0x0000E00000010000)) 0 0).l1.ecause = 0x0A ∧
    ((translate (mapDev 0 0) (whoOf (mapDev 0 0) 0 0) rRead 0x0000E00000000200 16).1 = .reaches (.here (scratchLoc 0 0x200)) [] ∧ recordBad 3 0x60001F 0 = false ∧ recordBad 3 0x80000000060001F 0 = true ∧
      recordUnbacked (mapDev 0 0) 3 0x60001F 0 = false ∧ entryOf (mapDev 0 0) (target 3 0x200000) = .at 0x14010 ∧ entryOf (mapDev 0 0) (target 3 0x8000000000) = .fail) ∧
    map9 (.mapset 9 1 2) (target 3 0x8000000000) 0x0000E00000000200 = some 1 ∧ map9 (.mapset 9 1 2) (target 3 0x200000 + 2 ^ 52) 0x0000E00000000200 = some 1 ∧
    (map9 (.mapset 9 1 2) (target 3 0x200000) 0x0000E00000000200 = some 0 ∧ readBytes (nx (.mapset 9 1 2) (mapDev (target 3 0x200000) 0x0000E00000000200)) 0x14010 16 = 0x60001F) := by decide +kernel

theorem test_unmaps : ((mapDev 0 0).shoots = [] ∧ (mapDev 0 0).swaps = [] ∧ (mapDev 0 0).feWait = [] ∧ (mapDev 0 0).clusters = [] ∧ (mapDev 0 0).cores.map (fun p => p.2.tlb) = [[]]) ∧
    map9 (.mapinvUnmap 9 1 2) (target 3 0x200000) 1 = some 2 ∧ map9 (.mapinvRetire 9 1 2) (target 3 0x200000) 2 = some 2 ∧ map9 (.mapinvUnmap 9 1 2) (target 3 0x8000000000) 0 = some 1 ∧
    readBytes (nx (.mapinvUnmap 9 1 2) (mapDev (target 3 0x200000) 0)) 0x14010 8 = 0x20001E ∧ map9 (.mapinvRetire 9 1 2) (target 2 0x200000) 1 = some 2 ∧
    readBytes (nx (.mapinvRetire 9 1 2) (mapDev (target 3 0x200000) 1)) 0x14010 8 = 0x20001F + 2 ^ 47 := by decide +kernel

theorem test_hot : (leafGlobal (mapDev 0 0) 1 0x200008 = .leaf 0x14010 0x20001F 0x0500000000000000 21 ∧ leafGlobal (mapDev 0 0) 1 0x400000 = .absent) ∧ map9 (.pghotRead 9 1 2) (target 2 0x200000) 0 = some 2 ∧
    map9 (.pghotHalve 9 1 2) (target 1 0x200000) 0 = some 2 ∧ map9 (.pghotClear 9 1 2) (target 1 0x400000) 2 = some 1 ∧ map9 (.pghotRead 9 1 2) (target 1 0x200000) 0 = some 0x500 ∧
    readByte (nx (.pghotHalve 9 1 2) (mapDev (target 1 0x200000) 1)) 0x1401F = 2 ∧ readByte (nx (.pghotClear 9 1 2) (mapDev (target 1 0x200000) 2)) 0x1401F = 0 := by decide +kernel

/-- The device with a CXL port ready behind die 0. -/
noncomputable def promoDev (w b : W64) (swaps : List Swap) : State := { mapDev w b with cxl := [(0, { st := .up, bytes := 0x100000000, wiped := true })], cxlrdy := 1, swaps := swaps }

theorem test_promote : map9 (.pghotPromote 9 1 2) 0x10008 3 = some 2 ∧ map9 (.pghotPromote 9 1 2) 0x10000 4 = some 2 ∧ (answerOf (mapDev 0 0) 0xA000000000 = .unbacked ∧ map9 (.pghotPromote 9 1 2) 0xA000000000 3 = some 3) ∧
    (slotOfName remapIdentity 0 = 0 ∧ map9 (.pghotPromote 9 1 2) 0x10000 3 = some 65536) ∧
    (answerOf (promoDev 0 0 []) cxlBase ≠ .unbacked ∧ congruence cxlBase = (0, 1) ∧ slotOfName remapIdentity 1 = 1 ∧
      (nx (.pghotPromote 9 1 2) (promoDev (BitVec.ofNat 64 cxlBase) 3 [])).swaps = [⟨0, 1, 0, some (0, 0, 7)⟩]) ∧
    unitAnswer (nx (.pghotPromote 9 1 2) (promoDev (BitVec.ofNat 64 cxlBase) 3 [⟨0, 2, 0, none⟩])) = some 4 := by decide +kernel

/-- A leaf of context 1 that was used 9 times. -/
noncomputable def leaf1 : TlbEntry := ⟨⟨1, none, 0x200000, 21⟩, 0x14010, 0x20001F, 0, 9, 0⟩
noncomputable def cachedDev (w b : W64) : State := modCore (mapDev w b) 0 (fun k => { k with tlb := [leaf1, { leaf1 with key := ⟨2, some 3, 0x200000, 21⟩, entry := 0x15000 }] })
noncomputable def left (i : Instr) (w b : W64) : List TlbEntry := (coreAt (nx i (cachedDev w b)) 0).tlb

theorem test_flushes : map9 (.tlbflPage 9 1 2) (target 2 0x200000) 0 = some 2 ∧ map9 (.tlbflPage 9 1 2) (target 1 0xC00000000000) 0 = some 2 ∧ map9 (.tlbflDevice 9 1 2) 0 3 = some 2 ∧ map9 (.tlbflContext 9 1 2) (5 * 2 ^ 52) 3 = some 1 ∧
    (left (.tlbflPage 9 1 2) (target 1 0x3FFFFF) 0).map (·.entry) = [0x15000] ∧ (left (.tlbflPage 9 1 2) (target 1 0x400000) 0).length = 2 ∧ (left (.tlbflGlobal 9 1 2) (target 1 0) 1).map (·.entry) = [0x15000] ∧
    (left (.tlbflPrivate 9 1 2) (target 1 0) 2).length = 2 ∧ (left (.tlbflContext 9 1 2) (target 1 0) 3).map (·.entry) = [0x15000] ∧ left (.tlbflDevice 9 1 2) (target 1 0) 4 = [] := by decide +kernel

theorem test_evict : ((coreAt (cachedDev 0 0) 0).tlb[0]? = some leaf1 ∧ readByte (nx (.tlbEvict 0 0) (cachedDev 0 0)) 0x1401F = 14 ∧ (coreAt (nx (.tlbEvict 0 0) (cachedDev 0 0)) 0).tlb.length = 1) ∧
    (let t := nx (.swapComplete 0) (promoDev 0 0 [⟨3, 1, 0, some (0, 0, 7)⟩])
     t.swaps = [] ∧ (List.range 8).map (slotOfName (tget remapIdentity t.remap 3)) = [1, 0, 2, 3, 4, 5, 6, 7] ∧ (thrAt t 0 0).reply = some 0) := by decide +kernel

/-- A shootdown is acknowledged when nothing more depends on it, and the unit's answer goes to the thread; a promotion waits until its port is known to be ready, and is
refused when its slot is not there; a swap does not end while a slot of it is not there. -/
theorem test_shoots : (let s := { mapDev 0 0 with shoots := [⟨0, 0, 7, 1, [], 5⟩] }
      isThread s 0 0 7 = true ∧ (settleShoots s 0).shoots = [] ∧ (thrAt (settleShoots s 0) 0 0).reply = some 5) ∧
    ((dieAt (promoDev 0 0 []) (groupDie 0)).domain = true ∧ slotReady (promoDev 0 0 []) 0 1 = true) ∧
    (let s := { promoDev (BitVec.ofNat 64 cxlBase) 3 [] with cxlrdy := 0 }
     (thrAt (nx (.pghotPromote 9 1 2) s) 0 0).park = some ⟨.engine, 100, 0, 5⟩) ∧
    (let s := { promoDev (BitVec.ofNat 64 cxlBase) 3 [] with cxl := [(0, { st := .training, bytes := 0x100000000 })] }
     (thrAt (nx (.pghotPromote 9 1 2) s) 0 0).park = some ⟨.engine, 100, 0, 5⟩) ∧
    (let s := { promoDev (BitVec.ofNat 64 cxlBase) 3 [] with cxl := [(0, { st := .up, bytes := 0x10000, wiped := true })] }
     slotReady s 0 1 = true ∧ slotReady s 1 1 = false) ∧
    (let s := { promoDev 0 0 [⟨3, 1, 0, some (0, 0, 7)⟩] with cxlrdy := 0 }
     gives (.swapComplete 0) s s = true) ∧
    (recordBad 3 (0x20001F + 2 ^ 47) 0 = false ∧ recordUnbacked (mapDev 0 0) 3 (0x20001F + 2 ^ 47) 0 = false ∧ recordBad 3 0x20001E 0 = false) := by decide +kernel

/-! ## Banks -/

/-- A privileged thread with a bank word in x1, whose holder has answered. -/
noncomputable def bankDev (w : W64) : State := devP (oneThr { thr 0 w 0 0 0 0 with reply := some 0 })
/-- The bank word of a kind, holder and bank. -/
noncomputable def bankW (kind h b : Nat) : W64 := BitVec.ofNat 64 (kind * 2 ^ 61 + h * 2 ^ 32 + b)
/-- x9 after BANKRET, in a state changed by f, and that state. -/
noncomputable def ret9 (kind h b : Nat) (f : State → State) : W64 := tget 1 (thrAt (nx (.bankret 9 1) (f (bankDev (bankW kind h b)))) 0 0).x 9
noncomputable def retT (kind h b : Nat) (f : State → State) : State := nx (.bankret 9 1) (f (bankDev (bankW kind h b)))
noncomputable def q9 (kind h b : Nat) (f : State → State) : W64 := tget 1 (thrAt (nx (.bankq 9 1) (f (bankDev (bankW kind h b)))) 0 0).x 9

theorem test_bank_words : (isTwin (me (bankDev 0)) = false ∧ privileged (bankDev 0) (was (bankDev 0)) = true) ∧ ret9 1 0 20 id = 2 ∧ q9 0 0 0 id = 0xFFFFFFFFFFFFFFFF ∧ ret9 2 160 0 id = 2 ∧ q9 4 0 1 id = 0xFFFFFFFFFFFFFFFF ∧
    ((cluAt (retT 2 3 31 (fun s => modClu s 3 (fun c => { c with vigil := 1 }))) 3).vigil = 2 ∧ (retT 2 3 31 (fun s => modClu s 3 (fun c => { c with vigil := 1 }))).iss.phase = .held) ∧
    q9 1 0 15 id = 0x00FF00000000000F ∧ q9 1 0 19 id = 0x10FF000000000013 ∧ q9 4 3 0 id = 0x00FF0000000000FF := by decide +kernel

theorem test_pool_banks : (isSpare (coreAt (bankDev 0) 0) 19 = true ∧ isSpare (coreAt (bankDev 0) 0) 15 = false ∧ (unitAt (retT 1 0 19 id) 1 0 19).st = .retired) ∧
    (isSpare (coreAt (bankDev 0) 0) 16 = true ∧ (unitAt (retT 1 0 3 id) 1 0 3).dest = some 16 ∧ (unitAt (retT 1 0 3 id) 1 0 3).st = .evacuating) ∧
    ret9 1 0 3 (fun s => setUnit s 1 0 3 { st := .retired }) = 1 ∧ ret9 1 0 3 (fun s => setUnit s 1 0 5 { st := .evacuating, dest := some 16 }) = 5 := by decide +kernel

theorem no_thread_parked (v : Nat) : (thrAt (bankDev (bankW 1 1 3)) 1 v).park = none := by
  have h : (coreAt (bankDev (bankW 1 1 3)) 1).threads = [] := by decide +kernel
  simp [thrAt, thrOf, h, tget]

theorem test_other_banks : ((unitAt (retT 2 3 31 id) 2 3 31).st = .evacuating ∧ (unitAt (retT 2 3 31 id) 2 3 31).dest = none ∧ (unitAt (bankDev 0) 2 3 31).logical = some 31) ∧
    (let f : State → State := fun s => modDie s 0 (fun d => { d with pchs := (List.range 192).map (fun p => (p, { st := .retired })) })
     spareFree (dieAt (f (bankDev 0)) 0) 5 = 0 ∧ ret9 3 0 5 (fun s => setUnit (f s) 3 0 5 {}) = 3) ∧
    (12288 + spareUsed (dieAt (bankDev 0) 0) 5 ≤ spareFree (dieAt (bankDev 0) 0) 5) := by decide +kernel

theorem test_domains : ret9 4 0 0 (fun s => modDie s 0 (fun d => { d with domain := false })) = 1 ∧ ret9 4 0 0 (fun s => setUnit s 3 0 191 { st := .evacuating }) = 4 ∧
    (caphbm (dieAt (retT 4 0 0 id) 0) = 0 ∧ ret9 4 0 0 id = 0) := by decide +kernel

/-- Before the holder has answered the thread waits ENGINE. -/
theorem test_bank_answers : (thrAt (nx (.bankq 9 1) (devP (oneThr (thr 0 (bankW 1 0 3) 0 0 0 0)))) 0 0).park = some ⟨.engine, 100, 0, 6⟩ ∧
    (me (bankDev 0)).reply.isSome = true := by decide +kernel

/-- Pool bank 3 of core 0 under evacuation to bank 16, with its pointer or stub, at a time. -/
noncomputable def evacDev (p : Nat) (stub : Option Nat) (ns : Nat) : State :=
  { setUnit (setUnit (regs 0 0 0 0 0 0) 1 0 3 { st := .evacuating, logical := if stub = none then some 3 else none, dest := some 16, pointer := p, stub := stub }) 1 0 16 {} with dies := [(0, { ns := ns })], dierdy := 1 }

theorem test_evacuations : gives (.evacLineCopy 1 0 3) { evacDev 127 none 5 with dierdy := 0 } { evacDev 127 none 5 with dierdy := 0 } = true ∧ (unitAt (nx (.evacLineCopy 1 0 3) (evacDev 127 none 5)) 1 0 3).pointer = 128 ∧
    (let t := nx (.evacSwitchover 1 0 3) (evacDev 128 none 5)
     unitAt t 1 0 3 = { st := .evacuating, dest := some 16, pointer := 128, stub := some 5 } ∧ (unitAt t 1 0 16).logical = some 3) ∧
    (unitAt (nx (.drainHorizon 1 0 3) (evacDev 128 (some 5) 2005)) 1 0 3).st = .retired ∧ gives (.drainHorizon 1 0 3) (evacDev 128 (some 5) 2004) (evacDev 128 (some 5) 2004) = true := by decide +kernel

/-- A ready die whose cluster 1 has been idle since time 0. -/
noncomputable def idleDev (v ns : Nat) : State := modClu { regs 0 0 0 0 0 0 with dies := [(0, { ns := ns })], dierdy := 1 } 1 (fun c => { c with vigil := v })

theorem test_vigil : (dieOf 1 = 0 ∧ (List.range 32).all (fun n => (coreAt (idleDev 0 0) (32 * 1 + n)).group == .idle) = true ∧ (cluAt (nx (.vigilEntry 1) (idleDev 0 1000000)) 1).vigil = 1) ∧
    gives (.vigilEntry 1) (idleDev 0 999999) (idleDev 0 999999) = true ∧ gives (.vigilEntry 0) (idleDev 0 1000000) (idleDev 0 1000000) = true ∧ (cluAt (nx (.vigilExit 1) (idleDev 1 0)) 1).vigil = 2 ∧
    ((cluAt (nx (.vigilDecodeComplete 1) (idleDev 2 77)) 1).vigil = 0 ∧ (cluAt (nx (.vigilDecodeComplete 1) (idleDev 2 77)) 1).idleNs = 77) := by decide +kernel

/-! ## Links -/

/-- A privileged thread, whose unit has answered, with a selector in x1 and an operand in x2, with UE port 3 and CXL port 2 in some states and a route. -/
noncomputable def linkDev (w b : W64) (u : LinkState) : State :=
  { modClu (devP (oneThr { thr 0 w b 0 0 0 with reply := some 0 })) 159 (fun c => { c with loss := 0x77 }) with
    ue := [(3, { st := u, window := [⟨0, 0, false, false, 0⟩, ⟨1, 1, true, false, 0⟩], repairs := 65535, replays := 4, fails := 7, badRun := 15, peers := [(511, 0x4101)] })], cxl := [(2, { st := u, bytes := 0x20000, replays := 4 })],
    routes := [(5, 2 <<< 62)] }
/-- The selector word of an operation, object and index. -/
noncomputable def sel (op obj i : Nat) : W64 := BitVec.ofNat 64 (op * 2 ^ 60 + obj * 2 ^ 53 + i)
noncomputable def link9 (i : Instr) (w b : W64) (u : LinkState) : W64 := tget 1 (thrAt (nx i (linkDev w b u)) 0 0).x 9

theorem test_link_selectors : (isTwin (me (linkDev 0 0 .up)) = false ∧ privileged (linkDev 0 0 .up) (was (linkDev 0 0 .up)) = true) ∧ link9 (.lkctlEnable 9 1 2) (sel 1 1 3) 0 .up = 0xFFFFFFFFFFFFFFFF ∧
    link9 (.lkctlEnable 9 1 2) (sel 0 1 16) 0 .up = 0xFFFFFFFFFFFFFFFF ∧ link9 (.lkctlEnable 9 1 2) (sel 0 3 3) 0 .up = 0xFFFFFFFFFFFFFFFF ∧ link9 (.lkctlDisable 9 1 2) (sel 1 1 3) 1 .up = 0xFFFFFFFFFFFFFFFF ∧
    link9 (.lkctlWriteRoute 9 1 2) (sel 3 3 0) 0 .up = 0xFFFFFFFFFFFFFFFF ∧ link9 (.lkctlWriteRoute 9 1 2) (sel 3 3 511) 1 .up = 0xFFFFFFFFFFFFFFFF ∧ link9 (.lkqCap 9 1) (sel 1 2 3) 0 .up = 0xFFFFFFFFFFFFFFFF ∧
    link9 (.lkqWindow 9 1) (sel 4 2 4) 0 .up = 0xFFFFFFFFFFFFFFFF ∧ link9 (.lkctlRevive 9 1 2) (sel 5 3 512) 0 .up = 0xFFFFFFFFFFFFFFFF := by decide +kernel

theorem test_link_states : (ueAt (nx (.lkctlEnable 9 1 2) (linkDev (sel 0 1 3) 0 .disabled)) 3).st = .training ∧ (cxlAt (nx (.lkctlEnable 9 1 2) (linkDev (sel 0 2 2) 0 .disabled)) 2) = { st := .training, bytes := 0x20000 } ∧
    (let u := ueAt (nx (.lkctlDisable 9 1 2) (linkDev (sel 1 1 3) 0 .up)) 3
     u.st = .disabled ∧ u.window = [] ∧ u.repairs = 65535) ∧ (cxlAt (nx (.lkctlDisable 9 1 2) (linkDev (sel 1 2 2) 0 .up)) 2).st = .disabled ∧
    (ueAt (nx (.lkctlRetrain 9 1 2) (linkDev (sel 2 1 3) 0 .up)) 3).badRun = 0 ∧ (cxlAt (nx (.lkctlRetrain 9 1 2) (linkDev (sel 2 2 2) 0 .up)) 2).st = .training := by decide +kernel

theorem test_link_routes : tget 0 (nx (.lkctlWriteRoute 9 1 2) (linkDev (sel 3 3 511) 0x4000000800000000 .up)).routes 511 = 0x4000000841010000 ∧ (routeState (linkDev 0 0 .up) 5 = 2 ∧
      (cluAt (nx (.lkctlClearLoss 9 1 2) (linkDev (sel 4 4 159) 0 .up)) 159).loss = 0 ∧ link9 (.lkctlClearLoss 9 1 2) (sel 4 4 159) 0 .up = 0x77) ∧ link9 (.lkctlRevive 9 1 2) (sel 5 3 6) 0 .up = 1 ∧
    tget 0 (nx (.lkctlRevive 9 1 2) (linkDev (sel 5 3 5) 0 .up)).routes 5 = 3 <<< 62 := by decide +kernel

theorem test_link_queries : link9 (.lkqStatus 9 1) (sel 0 1 3) 0 .up = 0x200002070004FFFF ∧ link9 (.lkqStatus 9 1) (sel 0 2 2) 0 .training = 0x1000000000040000 ∧ link9 (.lkqCap 9 1) (sel 1 1 15) 0 .up = 0x7F01 ∧
    link9 (.lkqLoss 9 1) (sel 2 4 159) 0 .up = 0x77 ∧ link9 (.lkqRoute 9 1) (sel 3 3 5) 0 .up = 2 <<< 62 ∧ link9 (.lkqWindow 9 1) (sel 4 2 2) 0 .up = BitVec.ofNat 64 (2 * 2 ^ 32 + 2 * 16515072) ∧
    link9 (.lkqWindow 9 1) (sel 4 2 2) 0 .training = 0 := by decide +kernel

theorem test_link_events : ueAt (nx (.linkUp false 3 [(5, 0x55)] 0) (linkDev 0 0 .training)) 3 = { ueAt (linkDev 0 0 .training) 3 with st := .up, peers := [(5, 0x55), (511, 0x4101)], badRun := 0 } ∧ (cxlAt (nx (.linkUp true 2 [] 9) (linkDev 0 0 .training)) 2).bytes = 9 ∧
    (ueAt (nx (.trainingTimeout false 3) (linkDev 0 0 .training)) 3).fails = 8 ∧ (cxlAt (nx (.trainingTimeout true 2) (linkDev 0 0 .training)) 2).fails = 1 ∧
    (let u := ueAt (nx (.llrReplay 3 [0] false) (linkDev 0 0 .up)) 3
     u.window = [⟨0, 0, true, false, 0⟩, ⟨1, 1, true, false, 0⟩] ∧ u.replays = 5 ∧ u.st = .training) ∧ (ueAt (nx (.llrReplay 3 [] true) (linkDev 0 0 .up)) 3).badRun = 0 ∧
    (ueAt (nx (.llrAcknowledgement 3 1) (linkDev 0 0 .up)) 3).window = [⟨1, 1, true, false, 0⟩] ∧
    (ueAt (nx (.rudRetransmit 3 0) { linkDev 0 0 .up with linkOut := [.reply 1 3 0 0 0] }) 3).window.map (fun e => (e.seq, e.psn, e.fwd, e.rod)) = [(0, 0, false, false), (1, 1, true, false), (0, 0, false, false)] := by decide +kernel

/-- The unit answers by a later cycle; a packet leaves on a port that its message names; the transport is asked for an entry whose check failed; CAP follows what a session reads. -/
theorem test_link_answers : (thrAt (nx (.lkqCap 9 1) (devP (oneThr (thr 0 (sel 1 1 15) 0 0 0 0)))) 0 0).park = some ⟨.engine, 100, 0, 6⟩ ∧
    (mayLeave { linkDev 0 0 .up with linkOut := [.reply 1 3 0 0 0] } 3 0 = true ∧ mayLeave (linkDev 0 0 .up) 3 0 = false ∧ gives (.rudRetransmit 3 0) (linkDev 0 0 .up) (linkDev 0 0 .up) = true) ∧
    (nx (.llrReplay 3 [0] false) (linkDev 0 0 .up)).asked = [(false, 0)] ∧
    (let s := { linkDev 0 0 .training with routes := [(5, (1 : W64) <<< 62 ||| 8 <<< 32)] }
     tget 0 (nx (.linkUp false 3 [(5, 0x101)] 0) s).routes 5 = (1 : W64) <<< 62 ||| 8 <<< 32 ||| 0x101 <<< 16) := by decide +kernel

/-- Thread 0 with an access outstanding to device 3, behind which a buffered store waits. -/
noncomputable def peerDev : State :=
  { dev { oneThr { thr 0 0 0 0 0 0 with accs := [{ acc .store .plain 8 .none 5 with lanes := [⟨0, .peer 3 0x40, 5⟩] }] } with loose := [⟨4, 0, 0, .peer 3 0x80, 8, 1, 1, 7, 0x80, []⟩] } with routes := [(3, 1 <<< 62)], dies := [(0, { ns := 5000000 })], quiet := [(3, 1)] }

theorem test_peer_fails : routeState peerDev 3 = 1 ∧ (let t := nx (.peerFailed 3) peerDev
    routeState t 3 = 2 ∧ (coreAt t 0).loose = [] ∧ (thrAt t 0 0).accs = [] ∧ ⟨0x07, 0x40⟩ ∈ (thrAt t 0 0).traps) ∧
    (let t := nx (.packetDrop 4 159) (linkDev 0 0 .up)
     (cluAt t 159).loss = 0x0001000000000000) ∧ (ueAt (nx (.packetDrop 1 15) (linkDev 0 0 .up)) 15).loss = 0x0001000000000000 := by decide +kernel

/-- A request of device 7 at port 3, with 0x1122334455667788 at location 0x200008 of a mapped page. -/
noncomputable def remoteDev : State := { placeBytes mappedDev 0x200008 0x1122334455667788 with ue := [(3, { st := .up })] }
noncomputable def rop (kind amo : Nat) (addr : W64) (data : Nat) : RemoteOp := ⟨kind, amo, .plain, 8, addr, data, 5, 2, 1, 0x33⟩

theorem test_remote : ((ueAt remoteDev 3).st = .up ∧ (ctxAt remoteDev 9).st = .free) ∧ remoteXl remoteDev 3 1 rRead 0xE00000 = .trap 0x09 ∧
    (remoteXl remoteDev 3 1 rRead 0x200008 = .reaches (.here 0x200008) [⟨1, none, 0x200000, 21⟩] ∧ remoteXl remoteDev 3 1 { r := true, w := true } 0x200008 = .reaches (.here 0x200008) [⟨1, none, 0x200000, 21⟩] ∧ remoteDev.feWait = []) ∧
    ((remotePerform remoteDev (rop 0 0 0x200008 0) 0x200008).1 = 0x1122334455667788 ∧ readBytes (remotePerform remoteDev (rop 1 0 0x200008 9) 0x200008).2 0x200008 8 = 9 ∧
      (remotePerform remoteDev (rop 2 0 0x200008 9) 0x200008).1 = 0x1122334455667788 ∧ readBytes (remotePerform remoteDev (rop 2 0 0x200008 9) 0x200008).2 0x200008 8 = 0x1122334455667791) ∧
    (nx (.remoteRequest 7 3 1 (rop 3 0 0x55 9)) remoteDev).ints = [⟨0x55, 1, 9, uePortCluster 3, 0, some (3, 7)⟩] ∧ (nx (.remoteRequest 7 3 1 (rop 4 0 0x55 9)) remoteDev).tiles = [] ∧
    (nx (.remoteRequest 7 3 1 (rop 4 0 0x55 9)) (modAgent remoteDev 5 (fun _ => { ints := [⟨0x55, 1, 9, [5], false, some (3, 7)⟩] }))).tiles.map (fun x => (x.data.length, x.tgt)) = [(8, 5)] ∧
    openFor remoteDev 5 1 = false := by decide +kernel

theorem test_remote_answers : nx (.remoteRequest 7 3 9 (rop 0 0 0x200008 0)) remoteDev = remoteReply (receiveAt remoteDev (.clu (uePortCluster 3)) 0x33) 7 3 0x09 0 := by rfl

/-- A request that was applied, its identity held, is not applied again; one that is not comes to its location. -/
theorem test_remote_again : (let s := { remoteDev with idents := [⟨7, 2, 1, 0x33, 66, 0, 0⟩] }
      s.idents.find? (sameIdentity 7 2 1 0x33) = some ⟨7, 2, 1, 0x33, 66, 0, 0⟩ ∧ readBytes (nx (.remoteRequest 7 3 1 (rop 2 0 0x200008 9)) s) 0x200008 8 = 0x1122334455667788) ∧
    (blockedAt remoteDev 0x200008 = false ∧ lineHeld remoteDev 0x200008 = false ∧ remoteDev.idents.find? (sameIdentity 7 2 1 0x33) = none ∧
      readBytes (nx (.remoteRequest 7 3 1 (rop 2 0 0x200008 9)) remoteDev) 0x200008 8 = 0x1122334455667791) ∧
    routeState (nx (.remoteRequest 7 3 1 (rop 6 0 0 0)) { remoteDev with routes := [(7, 3 <<< 62)] }) 7 = 1 := by decide +kernel

/-! ## The host -/

/-- A request of the host on UE port 0 for context 1, with a body. -/
noncomputable def req (body : List W64) : Ycp := ⟨true, 0, 5, 0x50000, 1, body⟩
/-- A body of n words, zero but for some. -/
noncomputable def bodyN (n : Nat) (l : List (Nat × W64)) : List W64 := (List.range n).map (fun i => tget 0 l i)
/-- What came back from a request: status and body. -/
noncomputable def said (i : Instr) (s : State) : List (Nat × Nat × List W64) := (nx i s).hostOut.map (fun m => (m.op, m.status, m.body))
/-- A device in the life-cycle state PROVISIONED, its UE ports 0 and 1 UP, with a session of host role on port 0. -/
noncomputable def mgmt : State := { lcs := 3, hosts := [0], ue := [(0, { st := .up }), (1, { st := .up })] }
/-- A device with die 0 ready, and a kernel descriptor at 0x1000: register file 4, scratchpad 8, accumulators 4; entry 0 at 0x4000, supervisor core 3. -/
noncomputable def hostDev (ctxs : Tbl Ctx) (cores : Tbl Core) : State :=
  writeBytes { mgmt with ctxs := ctxs, cores := cores, dierdy := 1 } 0x1000 128 (0x1104 + 3 * 2 ^ 16 + 0x4000 * 2 ^ 384 + 0x5000 * 2 ^ 704)
/-- A CREATE body that names the cores 3 and 64. -/
noncomputable def create (pa groot : W64) : List W64 := bodyN 86 [(0, pa), (1, groot), (5, 1), (6, 8), (7, 1)]

theorem test_requests : said (.ycpKill { req [] with host := false }) (hostDev [] []) = [(0x84, 3, [])] ∧ said (.ycpLaunch (req [1])) (hostDev [] []) = [(0x82, 2, [])] ∧ said (.ycpAmsend { req [1] with host := false }) (hostDev [] []) = [(0x83, 2, [])] ∧
    said (.ycpShrink (req [])) (hostDev [] []) = [(0x87, 2, [])] ∧ said (.ycpRestore (req [])) (hostDev [] []) = [(0x86, 2, [])] ∧ said (.ycpCreate (req [])) (hostDev [] []) = [(0x81, 2, [])] := by decide +kernel

theorem named_cores : mapCores (req (create 0x1000 0x10000)) 6 = [3, 64] := by decide +kernel

theorem test_create_refusals : said (.ycpCreate (req (create 0x1008 0x10000))) (hostDev [] []) = [(0x81, 2, [])] ∧ (rangeAnswer (hostDev [] []) 0xA000000000 128 = .unbacked ∧ said (.ycpCreate (req (create 0xA000000000 0x10000))) (hostDev [] []) = [(0x81, 2, [])]) ∧
    (rangeAnswer (hostDev [] []) 0x1000 128 = .now ∧ descBad (readBytes (hostDev [] []) 0x1000 128) = false ∧ descBad (readBytes (hostDev [] []) 0x2000 128) = true ∧ said (.ycpCreate (req (create 0x2000 0x10000))) (hostDev [] []) = [(0x81, 2, [])]) ∧
    (rangeAnswer (modClu (hostDev [] []) 0 (fun x => x)) 0x1000 128 = .now) ∧ partSum (0x1104 : BitVec 15) ≤ cappool (coreAt (hostDev [] []) 3) := by decide +kernel

theorem test_create : said (.ycpCreate (req (create 0x1000 0x10000))) (hostDev [(1, ctx1)] []) = [(0x81, 3, [])] ∧ said (.ycpCreate (req (create 0x1000 0x10000))) (hostDev [] [(64, { group := .exited })]) = [(0x81, 1, [])] ∧
    (let t := nx (.ycpCreate (req (create 0x1000 0x10000))) (hostDev [] [])
     (ctxAt t 1).st = .loading ∧ (ctxAt t 1).place = [3, 64] ∧ (ctxAt t 1).groot = 0x10000 ∧ (ctxAt t 1).priv = true ∧ (ctxAt t 1).supcore = 3 ∧ (ctxAt t 1).hbase = 0x5000 ∧ (coreAt t 64).group = .claimed ∧ (coreAt t 64).part = 0x1104) := by decide +kernel

/-- A live context on core 3, with an entry at 0x4000. -/
noncomputable def liveDev (st : CtxState) : State := hostDev [(1, { ctx1 with st := st, place := [3], entries := [0x4000, 0] })] [(3, freeCore)]

/-- A request at a port that is not UP does not reach the device; one for memory of a die that is not ready waits, a CREATE unless it is
refused whatever its descriptor holds. -/
theorem test_unreached : (let s := { hostDev [] [] with ue := [] }
      gives (.ycpKill (req [])) s s = true ∧ gives (.identity (req [2])) s s = true) ∧
    (let s := { liveDev .live with dierdy := 0 }
     rangeAnswer s 0x1000 128 = .wait none ∧ said (.ycpCreate (req (create 0x1000 0x10000))) s = [(0x81, 3, [])] ∧ said (.ycpLaunch (req [0x30000, 8, 9])) s = [(0x82, 1, [])]) ∧
    said (.ycpCreate (req (create 0x1000 0x10000))) { hostDev [] [] with dierdy := 0 } = [(0x81, 1, [])] ∧
    (let s := hostDev [] []
     rangeAnswer s dieBytes 128 = .wait none ∧ said (.ycpCreate (req (create (BitVec.ofNat 64 dieBytes) 0x10000))) s = [] ∧
       said (.ycpCreate (req (bodyN 86 [(0, BitVec.ofNat 64 dieBytes), (1, 0x10000)]))) s = [(0x81, 2, [])]) := by decide +kernel

theorem test_launch : said (.ycpLaunch (req [0x30000, 8, 9])) (hostDev [] []) = [(0x82, 4, [])] ∧ said (.ycpLaunch (req [0x30001, 8, 9])) (liveDev .live) = [(0x82, 2, [])] ∧ said (.ycpLaunch (req [0x30000, 8, 9])) (liveDev .loading) = [(0x82, 1, [])] := by decide +kernel

theorem test_messages : said (.ycpAmsend (req [0x4000, 3, 1, 2, 3, 4])) (liveDev .saved) = [(0x83, 3, [])] ∧ said (.ycpAmsend (req [0x4000, 4, 1, 2, 3, 4])) (liveDev .live) = [(0x83, 3, [])] ∧ said (.ycpAmsend (req [0x4004, 3, 1, 2, 3, 4])) (liveDev .live) = [(0x83, 2, [])] := by decide +kernel

theorem test_launched : (openFor (liveDev .live) 3 1 = true ∧ (thrAt (nx (.ycpLaunch (req [0x30000, 8, 9])) (liveDev .live)) 3 0).x = [(0, 8), (1, 9)] ∧ (thrAt (nx (.ycpAmsend (req [0x4000, 3, 1, 2, 3, 4])) (liveDev .live)) 3 0).pc = 0x4000) ∧
    said (.ycpLaunch (req [0x30000, 8, 9])) (hostDev [(1, { ctx1 with place := [3], entries := [0x4000] })] [(3, fullCore 1)]) = [(0x82, 1, [])] := by decide +kernel

theorem test_context_requests : said (.ycpKill (req [])) (hostDev [] []) = [(0x84, 4, [])] ∧ said (.ycpKill (req [])) (liveDev .killed) = [(0x84, 0, [])] ∧
    (let t := nx (.ycpKill (req [])) (liveDev .live)
     (ctxAt t 1).st = .killed ∧ t.hostOut.map (·.op) = [0x0C, 0x84] ∧ (coreAt t 3).group = .exited) ∧
    said (.ycpPreempt (req [])) (liveDev .saved) = [(0x85, 3, [])] ∧ (ctxAt (nx (.ycpPreempt (req [])) (liveDev .live)) 1).image = some { stamp := 5 } ∧ said (.ycpShrink (req (bodyN 80 []))) (liveDev .live) = [(0x87, 2, [])] ∧
    said (.ycpShrink (req (bodyN 80 [(0, 8)]))) (liveDev .saved) = [(0x87, 3, [])] ∧
    (let t := nx (.ycpShrink (req (bodyN 80 [(0, 8)]))) (liveDev .live)
     (ctxAt t 1).shrink = [3] ∧ (coreAt t 3).group = .evacuating ∧ (ctxAt t 1).kern = .shrinking) := by decide +kernel

/-- A saved context whose image at 0x100000 holds one block of core 64, without banks. -/
noncomputable def savedDev : State :=
  writeBytes (writeBytes (writeBytes (hostDev [(1, { ctx1 with st := .saved, image := some { stamp := 0, fin := true, cores := [⟨64, {}, []⟩] } })] []) 0x100000 8 7) 0x100100 8 64) 0x200000 8 6

theorem test_restore_requests : said (.ycpRestore (req (bodyN 81 [(0, 0x100000), (2, 1)]))) (hostDev [] []) = [(0x86, 4, [])] ∧ said (.ycpRestore (req (bodyN 81 []))) (liveDev .live) = [(0x86, 3, [])] ∧
    said (.ycpRestore (req (bodyN 81 [(0, 0xA000000000)]))) savedDev = [(0x86, 2, [])] ∧ said (.ycpRestore (req (bodyN 81 [(0, 0x200000), (2, 1)]))) savedDev = [(0x86, 2, [])] ∧
    (imageBlocks savedDev 0x100000 1 256 = [(256, 64)] ∧ blockOk savedDev 0x100000 256 = true ∧ savedDev.cells = [] ∧ rangeAnswer savedDev 0x100000 256 = .now ∧ mapCores (req (bodyN 81 [(0, 0x100000), (2, 1)])) 1 = [64]) ∧
    (let t := nx (.ycpRestore (req (bodyN 81 [(0, 0x100000), (2, 1)]))) savedDev
     (ctxAt t 1).st = .restoring ∧ (coreAt t 64).group = .claimed ∧ (coreAt t 64).ctx = 1) := by decide +kernel

theorem test_host_memory : said (.ycpWrite (req [])) (hostDev [] []) = [(0x88, 2, [])] ∧ said (.ycpWrite (req [0xA000000000, 5])) (hostDev [] []) = [(0x88, 2, [])] ∧
    readBytes (nx (.ycpWrite (req [0x1004, 5, 6])) (hostDev [] [])) 0x1004 16 = 5 + 6 * 2 ^ 64 ∧ said (.ycpRead (req [0x1000, 4089])) (hostDev [] []) = [(0x89, 2, [])] ∧
    said (.ycpRead (req [0x1000, 4])) (hostDev [] []) = [(0x89, 0, [0x31104])] ∧ said (.ycpRead (req [0x1000, 0])) (hostDev [] []) = [(0x89, 0, [])] := by decide +kernel

theorem test_management : said (.budgetWrite (req [0, 199])) mgmt = [(0x8A, 2, [])] ∧ said (.budgetWrite (req [0, 0x300C8])) mgmt = [(0x8A, 2, [])] ∧ said (.budgetWrite (req [0, 200])) mgmt = [(0x8A, 0, [0x80000000, 2400])] := by decide +kernel

theorem test_registers_of_the_device :
    (nx (.budgetWrite (req [0, 0xFFF00960])) mgmt).budget = 0xF00960 ∧ said (.budgetRead (req [1])) mgmt = [(0x8A, 0, [0x80000001, 2400])] ∧ said (.identity { req [2] with host := false, port := 1 }) mgmt = [(0x8A, 3, [])] ∧
    said (.attest (req [3, 0, 0, 0, 0])) { mgmt with lcs := 5 } = [(0x8A, 3, [])] := by decide +kernel

theorem test_ready_word : readyWord { stage := 2, lcs := 3, lcsShown := 3, dierdy := 5, stkrdy := 0x0FF } = 0x80000000FF500003 := by decide +kernel

/-! ## Start, reset, power -/

theorem test_start : (let t := nx (.powerGood []) { lcs := 3 }
      t.fwOk = true ∧ t.mlog = [] ∧ t.lcsShown = 3 ∧ (ueAt t 0).st = .training) ∧ gives (.stackReady 11) { fwOk := true } { fwOk := true } = true ∧
    (let t := nx (.stackReady 11) { fwOk := true, stage := 2 }
     t.stkrdy = 0x800 ∧ t.stage = 2 ∧ (ueAt t 15).st = .training ∧ (cxlAt t 3).st = .training) ∧ (nx (.stackReady 2) { fwOk := true }).stage = 1 ∧
    ((nx (.dieReady 0) { fwOk := true, stkrdy := 7, stage := 1 }).stage = 2 ∧ (nx (.dieReady 3) { fwOk := true, stkrdy := 0xE07, stage := 2 }).dierdy = 8 ∧ (nx (.dieReady 3) { fwOk := true, stkrdy := 0xE07, stage := 2 }).stage = 3) ∧
    gives (.dieReady 1) { fwOk := true, stkrdy := 7, stage := 2 } { fwOk := true, stkrdy := 7, stage := 2 } = true ∧ gives (.dieReady 3) { fwOk := true, stkrdy := 0xE00, stage := 1 } { fwOk := true, stkrdy := 0xE00, stage := 1 } = true ∧
    ((nx (.cxlReady ⟨3, true⟩) { fwOk := true, stage := 2 }).cxlrdy = 8 ∧ (cxlAt (nx (.cxlReady ⟨3, false⟩) { fwOk := true, stage := 2, cxl := [(3, { st := .up, bytes := 65536 })] }) 3).wiped = true ∧
      gives (.cxlReady ⟨3, false⟩) { fwOk := true, stage := 2 } { fwOk := true, stage := 2 } = true) := by decide +kernel

/-- The device with a session of host role on port 0, in a life-cycle state. -/
noncomputable def lifeDev (lcs : Nat) : State := { liveDev .live with lcs := lcs }

theorem test_resets : (let t := nx .warmReset (liveDev .live)
      ctxAt t 1 = {} ∧ (coreAt t 3).group = .idle ∧ readBytes t 0x1000 4 = 0x31104 ∧ (ueAt t 15).st = .training ∧ t.dierdy = 0) ∧
    (let t := nx (.coldReset 77) (liveDev .live)
     t.mem = [] ∧ ctxAt t 1 = {} ∧ (dieAt t 3).ns = 77 ∧ (ueAt t 15).st = .disabled) ∧
    gives (.lifeCycleChange ⟨0, 4, 0⟩ true false) (lifeDev 3) (lifeDev 3) = true ∧ gives (.lifeCycleChange ⟨0, 5, 0⟩ true true) (lifeDev 3) (lifeDev 3) = true ∧ gives (.lifeCycleChange ⟨1, 2, 0⟩ true true) (lifeDev 1) (lifeDev 1) = true ∧
    ((nx (.lifeCycleChange ⟨0, 5, 9⟩ true false) (lifeDev 4)).idkey = false ∧ (nx (.lifeCycleChange ⟨0, 5, 9⟩ true false) (lifeDev 4)).owner = none ∧ (nx (.lifeCycleChange ⟨0, 5, 9⟩ true false) (lifeDev 4)).lcs = 5) ∧
    ((nx (.lifeCycleChange ⟨0, 2, 9⟩ true false) (lifeDev 1)).owner = some 9 ∧ (nx (.lifeCycleChange ⟨0, 2, 9⟩ true false) (lifeDev 1)).lcs = 2) := by decide +kernel

/-- The owner's credential that the fuses hold the digest of. -/
theorem owner_agrees : let s := { lifeDev 2 with owner := some 9, ownerFuse := some (Config.sha3 ((List.range 2592).map (fun j => 9 / 256 ^ j % 256))) }
    0 ∈ s.hosts ∧ s.lcs = 2 ∧ ∃ k, s.owner = some k ∧ s.ownerFuse = some (Config.sha3 ((List.range 2592).map (fun j => k / 256 ^ j % 256))) :=
  ⟨by decide +kernel, rfl, 9, rfl, rfl⟩

/-- The package over its limit, or within it with cluster 0 stepped down. -/
noncomputable def overDev : State := { watts := 2401, clusters := [(0, { activity := 0 }), (1, { activity := 0 })] }
noncomputable def underDev : State := { watts := 2400, stepped := [0] }

theorem test_power : (cluAt (nx (.operatingPointChange 159 2) {}) 159).point = 2 ∧ gives (.operatingPointChange 3 0) { budget := 0x10960 } { budget := 0x10960 } = true ∧ gives (.operatingPointChange 160 1) {} {} = true ∧
    gives (.operatingPointChange 0 0) underDev underDev = true ∧ (cluAt (nx (.operatingPointChange 1 0) underDev) 1).point = 0 ∧
    (cluAt (nx (.operatingPointSettled 3) (modClu {} 3 (fun c => { c with stopped := true }))) 3).stopped = false ∧
    (let t := nx (.budgetStep 0 true) overDev
     (cluAt t 0).point = 2 ∧ t.stepped = [0]) ∧ gives (.budgetStep 1 true) overDev overDev = true ∧
    (let t := nx (.budgetStep 0 false) underDev
     (cluAt t 0).point = 0 ∧ t.stepped = []) := by decide +kernel

theorem test_gating : (let t := nx (.dieGate 3) { budget := 0x800960, dierdy := 15 }
      t.gated = 8 ∧ t.dierdy = 7) ∧ gives (.dieGate 0) { liveDev .live with budget := 0x100960 } { liveDev .live with budget := 0x100960 } = true ∧ gives (.dieGate 3) { dierdy := 15 } { dierdy := 15 } = true ∧
    (let t := nx (.dieUngate 3) { gated := 8, dierdy := 7 }
     t.gated = 0 ∧ t.dierdy = 15) ∧ gives (.dieUngate 3) { gated := 8, budget := 0x800960 } { gated := 8, budget := 0x800960 } = true := by decide +kernel

/-! ## More witnesses: registers and arithmetic -/

theorem test_gang_masks : (ganged gangDev = true ∧ isTwin (me gangDev) = false) ∧ ((thrAt (writeM gangDev 1 0x000F00F0) 0 0).m1 = 0x00F0 ∧ (thrAt (writeM gangDev 1 0x000F00F0) 0 1).m1 = 0x000F) ∧
    (maskOfThr (thrAt (writeM gangDev 0 0) 0 0) 0 = 0xFFFF ∧ maskOfThr (thrAt (writeM gangDev 0 0) 0 1) 0 = 0xFFFF) ∧
    ((thrAt (writeV gangDev 2 (4 * 2 ^ 128 + 3)) 0 0).v = [(1, 3), (2, 3)] ∧ (thrAt (writeV gangDev 2 (4 * 2 ^ 128 + 3)) 0 1).v = [(1, 4), (2, 4)]) := by decide +kernel

/-- 1 + 2^-24 lies between 1 and the next value of FP32: to nearest the even one, up the next. -/
theorem test_rounding_neighbours : (fp32.decode 0x3F800000 = .fin false 0x800000 (-23) ∧ fp32.decode 0x3F800001 = .fin false 0x800001 (-23) ∧ (0x3F800001 : Nat) < 2 ^ 32) ∧
    fp32.round 0 false (2 ^ 24 + 1) (-24) = (0x3F800000, fNX) ∧ fp32.round 0 false (2 ^ 25 + 3) (-25) = (0x3F800001, fNX) ∧ fp32.round 1 false (2 ^ 25 + 3) (-25) = (0x3F800000, fNX) ∧
    fp32.round 2 true (2 ^ 24 + 1) (-24) = (0xBF800001, fNX) ∧ fp32.round 3 false (2 ^ 24 + 1) (-24) = (0x3F800001, fNX) := by decide +kernel

theorem test_special_conversions : (fmtValue .fp32 0x7FA00000).isNan = true ∧ (fmtValue .fp32 0x7FA00000).isSig = true ∧ x9f (.fcvt 9 1 .fp16 .fp32 false) 0x7FA00000 0 0 = (0x7E00, fNV) ∧
    x9f (.fcvt 9 1 .fp16 .fp32 false) 0x7FC00000 0 0 = (0x7E00, 0) ∧ (fmtValue .fp32 0xFF800000 = .inf true ∧ x9f (.fcvt 9 1 .fp16 .fp32 false) 0xFF800000 0 0 = (0xFC00, 0)) := by decide +kernel

/-- FP16 lanes 1, 2 and 4 active of 1, 2, 4, 8, …; with no lane active the identity of the reduction; in a gang the lanes of both slots. -/
theorem test_reduction_trees : v0f (.vredadd 0 1 1 .fp16) 0 0x4C004800440040003C00 0 7 = (0x4700, 0) ∧ v0f (.vredadd 0 1 1 .fp32) 0 5 0 0 = (0, 0) ∧ v0f (.vredmax 0 1 1 .fp16) 0 5 0 0 = (0xFC00, 0) ∧
    v0f (.vredmin 0 1 1 .fp16) 0 5 0 0 = (0x7C00, 0) ∧ (laneCount gangDev 32 = 8 ∧ tget 0 (thrAt (nx (.vredadd 0 1 0 .fp32) gangDev) 0 0).v 0 = 7) ∧
    treeNode (fadd fp32 0) (fun _ => none) 5 0 = (none, 0) := by decide +kernel

/-- The pair holds 7 × 2^3 and 2 × 2^3; an arrival of 2^5 rounds them down to 2 (up) and to 0 (a tie); beyond 63 bits the limit. -/
theorem test_block_sum_folds : v0f (.bsalign 0 1) 0x00000000000000030000000000000007 0x00000000000000050000000000000001 0 0 = (0x00000000000000050000000000000003, fNX) ∧
    v0f (.bsalign 0 1) 0x00000000000000030000000000000002 0x00000000000000050000000000000001 0 0 = (0x00000000000000050000000000000001, fNX) ∧
    v0f (.bsalign 0 1) 0x00000000000000050000000000000001 0x00000000000000030000000000000008 0 0 = (0x00000000000000050000000000000003, 0) ∧
    v0f (.bsalign 0 1) 0x00000000000000037FFFFFFFFFFFFFFF 0x00000000000000030000000000000001 0 0 = (0x00000000000000037FFFFFFFFFFFFFFF, fOF ||| fNX) ∧
    v0f (.bsalign 0 1) 0x00000000000000038000000000000001 0x0000000000000003FFFFFFFFFFFFFFFF 0 0 = (0x00000000000000038000000000000001, fOF ||| fNX) := by decide +kernel

/-- The polynomial 2 + 3z, limit 3, and the factor 1 + z. -/
noncomputable def poly : Pa := { c := [(0, 0x40000000), (1, 0x40400000)], deg := 1, lim := 3 }
noncomputable def coefs (p : Pa) : List Nat × Nat := ((List.range 4).map (coef p), p.deg)

theorem test_polynomial_factors : (poly.deg ≤ poly.lim ∧ poly.lim < 64) ∧ coefs (paMul poly 0x3F800000 0x3F800000) = ([0x40000000, 0x40A00000, 0x40400000, 0], 2) ∧
    (paMul { poly with lim := 1 } 0x3F800000 0x3F800000).t = true ∧ ((val32 0).isZero = true ∧ paDiv poly 0 0x3F800000 = { poly with z := true }) ∧
    ((val32 0x3F800000).isZero = false ∧ coefs (paDiv (paMul poly 0x3F800000 0x3F800000) 0x3F800000 0x3F800000) = ([0x40000000, 0x40400000, 0, 0], 1)) ∧
    (paDiv poly 0x3F800000 0x40000000).cnd = true ∧ div32 (val32 0x3F800000) (val32 0x40400000) = 0x3EAAAAAB ∧
    (fp32.decode 0x3EAAAAAB = .fin false 0xAAAAAB (-25) ∧ (0x3EAAAAAA : Nat) < 2 ^ 32) := by decide +kernel

theorem test_polynomial_merges : coefs (paMerge {lim := 3} poly poly) = ([0x40800000, 0x41400000, 0x41100000, 0], 2) ∧ (paMerge {lim := 1} poly poly).t = true ∧
    (paMerge {lim := 3} { poly with x := 32767 } { poly with x := 1 }).o = true ∧ (paMerge {lim := 3} { poly with x := 32767 } { poly with x := 1 }).x = 32767 ∧
    paNorm {lim := 3} = {lim := 3} ∧ (val32 (coef poly 1) = .fin false 0xC00000 (-22) ∧ coefs (paNorm poly) = ([0x3F800000, 0x3FC00000, 0, 0], 1) ∧ (paNorm poly).x = 1) ∧
    (paNorm { poly with x := 32767 } = { poly with x := 32767, o := true }) ∧ coefs (paLoad poly 0 0x0A [9, 5, 9, 0x80000000]) = ([0x40000000, 5, 0, 0x80000000], 1) ∧
    (paLoad poly 1 0x01 [5]).t = true ∧ sumProducts [(val32 0x40000000, val32 0x40400000), (val32 0xBF800000, val32 0x3F800000)] = 0x40A00000 ∧
    (let p := rescale { poly with c := [(0, 0x7F000000)] }
     (p.x, coef p 0) ≠ (0, 0x7F000000)) := by decide +kernel

/-! ## More witnesses: traps and twins -/

/-- The thread at level 2 of a context whose kill record has its place at 0x200040, on a die that is ready or not. -/
noncomputable def recordDev (rdy : BitVec 4) : State :=
  { mapped (oneThr { thr 0 0 0 0 0 0 with tl := 2 }) with ctxs := [(1, { ctx1 with groot := 0x10000, killrec := 0x200040 })], dierdy := rdy }

theorem test_kill_records : (2 ≤ (me (recordDev 1)).tl ∧ recordPlace (recordDev 1) (rootOf (ctxAt (recordDev 1) 1)) = .at 0x200040 ∧ (recordDev 1).feWait = []) ∧
    (List.range 8).map (fun i => readBytes (takeTrap (recordDev 1) 0 0x13 6) (0x200040 + 8 * i) 8) =
      [(stampCore (recordDev 1) 0).1.toNat, 2 * 2 ^ 38 + 0x13 * 2 ^ 29 + 1, 0x1000, 6, 0, 0, 0, 0] ∧
    (recordPlace (recordDev 0) (rootOf (ctxAt (recordDev 0) 1)) = .wait none ∧
      (takeTrap (recordDev 0) 0 0x13 6).sups.map (fun m => m.record.drop 1) = [[BitVec.ofNat 64 (2 * 2 ^ 38 + 0x13 * 2 ^ 29 + 1), 0x1000, 6, 0, 0, 0, 0]]) := by decide +kernel

/-- A twin whose threads have x1 = a, x2 = 5, the leading thread with a load-value queue, and a port of array results. -/
noncomputable def twinAt (mine : Nat) (a : W64) (q : List (Nat × Option W256)) : State :=
  let s := modThr (modThr (twinDev mine q) 0 0 (fun th => { th with x := [(1, a), (2, 5)], events := 3 })) 0 1 (fun th => { th with x := [(1, a), (2, 5)] })
  modCore (modArr s 0 (fun r => { r with resq := [0x77] })) 0 (fun k => { k with ports := [(0, { word := 0x5000000000000000 })] })

theorem test_twin_words : (let s := twinAt 0 1 []
      let t := nx (.tstamp 9) s
      (coreAt t 0).clock = (stampCore s 0).1 ∧ tget 0 (thrAt t 0 0).x 9 = (stampCore s 0).1 ∧ (thrAt t 0 0).lvq = [(0, some ((stampCore s 0).1.zeroExtend 256))] ∧
        tget 0 (thrAt (nx (.waitev 9 1) s) 0 0).x 9 = 1 ∧ (thrAt (nx (.waitev 9 1) s) 0 0).lvq = [(0, some 1)]) ∧
    (let s := twinAt 1 1 [(0, some 9), (0, some 8)]
     let t := nx (.tstamp 9) s
     tget 0 (thrAt t 0 1).x 9 = 9 ∧ (coreAt t 0).clock = (coreAt s 0).clock ∧ (thrAt (nx (.waitev 9 1) s) 0 0).lvq = [(0, some 8)]) := by decide +kernel

theorem test_twin_loads : (let s := twinAt 0 0x0000E00000000100 []
      accessReady s .plain = true ∧ (thrAt (nx (.ldd 9 1 (.short 0) .plain) s) 0 0).accs.map (·.dest) = [.scalar 9] ∧ (thrAt (nx (.ldd 9 1 (.short 0) .plain) s) 0 0).lvq.map (·.2) = [none]) ∧
    (thrAt (nx (.ldd 9 1 (.short 0) .plain) (twinAt 0 0x0000E00000000100 (List.replicate 32 (0, some 0)))) 0 0).park = some ⟨.twin, 100, 0, 0⟩ ∧
    (nx (.ldd 9 1 (.short 0) .plain) (twinAt 1 0x0000E00000000100 [(3, none)])).iss.phase = .held ∧
    (let t := nx (.ldb 9 1 (.short 0) .plain) (twinAt 1 0x0000E00000000100 [(3, some 0x80), (4, none)])
     tget 0 (thrAt t 0 1).x 9 = 0xFFFFFFFFFFFFFF80 ∧ (thrAt t 0 0).lvq = [(4, none)] ∧ (thrAt t 0 1).accs = []) ∧
    (lvqFill { lvq := [(3, none), (4, none)] } 3 6).lvq = [(3, some 6), (4, none)] := by decide +kernel

theorem test_twin_pops : popPorts ⟨false, .nop, .add 9 28 28⟩ = [0] ∧ popAll (twinAt 0 0 []) 0 [0] = [(0, 0x77)] ∧
    (popsOf (twinAt 0 0 []) 0 0 ⟨false, .nop, .add 9 28 28⟩).map (fun q => (q.1, (thrAt q.2 0 0).lvq)) = some ([(0, 0x77)], [(0, some 0x77)]) ∧
    (popsOf (twinAt 0 0 (List.replicate 32 (0, some 0))) 0 0 ⟨false, .nop, .add 9 28 28⟩).isNone = true ∧
    (popsOf (twinAt 1 0 [(0, some 6), (0, some 8)]) 0 1 ⟨false, .nop, .add 9 28 28⟩).map (fun q => (q.1, (thrAt q.2 0 0).lvq)) = some ([(0, 6)], [(0, some 8)]) := by decide +kernel

/-- The leading thread has issued its store of 5 to offset 0x100. -/
noncomputable def leadStored : State := { nx (.std 2 1 (.short 0) .plain) (twinAt 0 0x0000E00000000100 []) with iss := { slot := 1, pc := 0x1000, word := 0x55, phase := .going } }

theorem test_twin_stores : ((thrAt leadStored 0 0).cmp.map (fun e => (e.addr, e.size, e.met)) = [(0x0000E00000000100, 8, false)] ∧ (thrAt leadStored 0 0).accs.length = 1) ∧
    ((thrAt leadStored 0 0).accs.all (fun a => heldAcc (thrAt leadStored 0 0) a.id && decide (perform leadStored 0 0 a.id = leadStored)) = true) ∧
    (let t := nx (.std 2 1 (.short 0) .plain) leadStored
     (thrAt t 0 0).cmp = [] ∧ (thrAt t 0 0).accs.length = 1 ∧ t.mem = leadStored.mem ∧ (thrAt t 0 1).accs = []) ∧
    (let s := modThr leadStored 0 1 (fun th => { th with x := tput th.x 2 6 })
     let t := nx (.std 2 1 (.short 0) .plain) s
     mboxById s 0 0 = none ∧ (thrAt t 0 0).slot = .killed ∧ (thrAt t 0 1).slot = .killed ∧ t.iss.phase = .ended ∧
       t.sups.map (fun m => m.words.drop 1) = [[BitVec.ofNat 64 (0x41 * 2 ^ 29 + 1), 0x1000, 0x0000E00000000100]]) := by decide +kernel

/-- Page 8 (of 2 MiB) with a translation word and a companion, mask 1 of the context, an instance table at 0x18000, and the private root of identity 0. -/
noncomputable def pageDev (word comp mask inst : Nat) : State :=
  let s := placeBytes (placeBytes (placeBytes mappedDev 0x14080 word) 0x14088 comp) 0x11800 0x16001
  { placeBytes (placeBytes (placeBytes (placeBytes s 0x16020 (mask % 2 ^ 64)) 0x16030 (mask / 2 ^ 128)) 0x18000 inst) 0x19000 0x10000 with
    ctxs := [(1, { ctx1 with groot := 0x10000, proot := 0x19000 })] }
noncomputable def xlp (word comp mask inst : Nat) (rt : Rights) (a : W64) : Xl := (translate (pageDev word comp mask inst) (whoOf (pageDev word comp mask inst) 0 0) rt a 8).1

theorem test_masks_of_groups : (leafGlobal (pageDev 0x100001F (2 ^ 40) 1 0) 1 0x1000000 = .leaf 0x14080 0x100001F (2 ^ 40) 21 ∧ seatCluster whoMe.seat = 0) ∧
    xlp 0x100001F (2 ^ 40) 1 0 rRead 0x1000008 = .reaches (.here 0x1000008) [⟨1, none, 0x1000000, 21⟩] ∧ xlp 0x100001F (2 ^ 40) 2 0 rRead 0x1000008 = .trap 0x0B ∧
    xlp 0x100001F (2 ^ 40) (2 ^ 160) 0 rRead 0x1000008 = .trap 0x0A ∧ xlp 0x100001F (2 ^ 40) (2 ^ 160 - 1) 0 { w := true } 0x1000008 = .reaches (.here 0x1000008) [⟨1, none, 0x1000000, 21⟩] := by decide +kernel

theorem test_instances : xlp 0x1801F (1 + 2 ^ 8) 0 0x1200001 rRead 0x1000008 = .reaches (.here 0x1200008) [⟨1, none, 0x1000000, 21⟩] ∧ xlp 0x1801F (1 + 2 ^ 8) 0 0x1200000 rRead 0x1000008 = .trap 0x09 ∧
    xlp 0x1801F (1 + 2 ^ 8) 0 0x1200003 rRead 0x1000008 = .trap 0x0A ∧ xlp 0x1801F (1 + 2 ^ 8) 0 0x1210001 rRead 0x1000008 = .trap 0x0A ∧ xlp 0x1801F (1 + 2 ^ 8) 0 0 rRead 0x4000000001000008 = .trap 0x08 ∧
    xlp 0x1801F (1 + 2 ^ 8 + 2 ^ 40) 1 0 rRead 0x2020000001000008 = .trap 0x0B ∧ xlp 0x1801F 2 0 0x1200001 { w := true } 0x1000008 = .trap 0x0C ∧
    xlp 0x1801F 2 0 0x1200001 rRead 0x1000008 = .reaches (.here 0x1200008) [⟨1, none, 0x1000000, 21⟩] := by decide +kernel

theorem test_private_window : (leafPrivate (pageDev 0 0 0 0) 1 0 0x200008 = .leaf 0x14010 0x20001F 0 21 ∧ winOf 0x0000F00000200008 = 0xF) ∧ xlp 0 0 0 0 rRead 0x0000F00000200008 = .reaches (.here 0x200008) [⟨1, some 0, 0x200000, 21⟩] ∧
    (leafPrivate (pageDev 0 0 0 0) 1 1 0x200008 = .absent) ∧ xlp 0 0 0 0 rRead 0x0000F00000E00000 = .trap 0x09 ∧ (leafPrivate (pageDev 0x100001F (2 ^ 40) 1 0) 1 0 0x1000000 = .bad ∧ xlp 0x100001F (2 ^ 40) 1 0 rRead 0x0000F00001000000 = .trap 0x0A) ∧
    xlp 0 0 0 0 rRead 0x0000F00000400000 = .wait none ∧ xlp 0 0 0 0 rRead 0x0000F00000600000 = .trap 0x0A := by decide +kernel

/-! ## More witnesses: accesses and queues -/

/-- An access to the line at 0x40, which is poisoned; the thread of a read dies of it, that of a write does not. -/
theorem test_poisoned_lines : (let s := { accDev (acc (.load true) .plain 4 (.scalar 9) 0) with poison := [1] }
      poisonedAt s 0x40 4 = true ∧ (thrAt (nx (.accessComplete 0 0) s) 0 0).slot = .killed) ∧
    (let s := { accDev (acc .store .plain 4 .none 5) with poison := [1] }
     (thrAt (nx (.accessComplete 0 0) s) 0 0).slot = .ready ∧ readBytes (nx (.accessComplete 0 0) s) 0x40 4 = 5) ∧
    (let s := { feDev (.feLoad true) .travel false 0 with poison := [1] }
     (thrAt (nx (.feRequestArrival 0 0 0) s) 0 0).slot = .killed) ∧ poisonedAt { poison := [1] } 0x38 8 = false ∧ poisonedAt { poison := [1] } 0x3C 8 = true ∧ poisonedAt { poison := [1] } 0x80 8 = false := by decide +kernel

/-- A request in a frame that moves, or held at the comparator of its twin, is neither sent again nor given up. -/
theorem test_held_requests : (let s := { lateDev (acc .store .plain 4 .none 0) 20000 with swaps := [⟨0, 1, 0, none⟩] }
      answeredLater s (.here 0x40) = true ∧ gives (.requestReissue 0 0 0) s s = true ∧ gives (.requestFail 0 0 0) s s = true) ∧
    (let s := { leadStored with dies := [(0, { ns := 20000 })] }
     ((thrAt s 0 0).accs.all (fun a => decide (a.since + 20000 ≤ 20000) && (peerOf a.lanes).isNone && heldAcc (thrAt s 0 0) a.id) = true) ∧ gives (.requestReissue 0 0 0) s s = true) ∧
    (let s := lateDev { acc (.feLoad true) .plain 8 .none 0 with tries := 2 } 20000
     gives (.requestFail 0 0 0) s (ueKill s 0 0) = true) ∧
    (let s := { looseDev with swaps := [⟨0, 1, 0, none⟩] }
     blockedAt s 0x40 = true ∧ gives (.looseBufferDrain 0) s s = true) ∧
    (let s := modClu (accDev { acc .loadV (.pacq .die) 16 (.vector 9) 0 with drain := [0] }) 0 (fun c => { c with stopped := true })
     gives (.drainRequest 0 0) s s = true) := by decide +kernel

/-- Three threads wait at the empty word at 0x40: a load, one that takes, and another load. -/
noncomputable def feThree : State :=
  let w := fun (u id : Nat) (t : Bool) =>
    ({ thr 0 0 0 0 0 0 with uid := u, slot := .parked, park := some ⟨.access, 40, 0x40, 0⟩, inside := some 0x55, accs := [{ acc (.feLoad t) .plain 8 .none 0 with id := id, stage := .waiting }] } : Thread)
  { placeBytes (dev { oneThr {} with threads := [(0, w 7 3 false), (1, w 8 5 true), (2, w 9 6 false)] }) 0x40 0 with
    empties := [8], ctxs := [(1, { ctx1 with recn := 4 })], feWait := [⟨0, 0, 7, 3, 0x40, 8, .feLoad false, 0, 1⟩, ⟨0, 1, 8, 5, 0x44, 4, .feLoad true, 0, 1⟩, ⟨0, 2, 9, 6, 0x40, 8, .feLoad false, 0, 1⟩] }

theorem test_full_empty_hand_over : (let t := fill feThree 0 0x40 8 0x1122334455667788
      (thrAt t 0 0).reply = some 0x1122334455667788 ∧ (thrAt t 0 1).reply = some 0x11223344 ∧ (thrAt t 0 2).reply = none ∧ t.feWait.map (·.id) = [6] ∧ isEmpty t 8 = true ∧ readBytes t 0x40 8 = 0) ∧
    (let s := { feThree with feWait := [⟨0, 0, 7, 3, 0x40, 8, .feLoad false, 0, 1⟩, ⟨0, 2, 9, 6, 0x40, 8, .feLoad false, 0, 1⟩] }
     let t := fill s 0 0x40 8 5
     (thrAt t 0 0).reply = some 5 ∧ (thrAt t 0 2).reply = some 5 ∧ t.feWait = [] ∧ isEmpty t 8 = false ∧ readBytes t 0x40 8 = 5) ∧
    (let s := { feDev (.feStore false) .waiting false 9 with feWait := [⟨0, 0, 7, 3, 0x40, 8, .feStore false, 9, 1⟩] }
     let t := emptyWord s 0 8
     t.feWait = [] ∧ isEmpty t 8 = false ∧ readBytes t 0x40 8 = 9 ∧ (thrAt t 0 0).reply = some 0 ∧ (thrAt t 0 0).accs = []) := by decide +kernel

theorem test_full_empty_forms : (let a := acc (.feStore true) .plain 4 .none 5
      readBytes (performLane (accDev a) 0 0 a ⟨0, .here 0x40, 5⟩).2 0x40 8 = 5 ∧ readBytes (performLane (accDev a) 0 0 a ⟨0, .here 0x44, 5⟩).2 0x40 8 = 5 * 2 ^ 32 ∧
        isEmpty (performLane { accDev a with empties := [8] } 0 0 a ⟨0, .here 0x44, 5⟩).2 8 = false) ∧
    (let a := acc .feEmpty .plain 8 .none 0
     isEmpty (performLane (accDev a) 0 0 a ⟨0, .here 0x40, 0⟩).2 8 = true ∧ readBytes (performLane (accDev a) 0 0 a ⟨0, .here 0x40, 0⟩).2 0x40 8 = 0) := by decide +kernel

/-- The leading thread of a twin with a loose store at the comparator. -/
noncomputable def leadLoose : State := { nx (.std 2 1 (.short 0) .loose) (twinAt 0 0x0000E00000000100 []) with iss := { pc := 0x1000, word := 0x55, phase := .going } }

theorem test_fence_of_a_twin : (storePending (me leadLoose) = true ∧ storePending (me (forceThread leadLoose 0 0)) = true ∧ (thrAt (nx (.fence .core) leadLoose) 0 0).park = some ⟨.twin, 100, 0, 0⟩) ∧
    (let s := modClu looseDev 0 (fun c => { c with stopped := true })
     (nx (.fence .cluster) s).iss.phase = .held ∧ (coreAt (nx (.fence .cluster) s) 0).loose.length = 1) := by decide +kernel

theorem test_queue_cycles : (let s := watchDev 100 [⟨0, 0, 0, [0, 1], 5⟩] (some ⟨.port, 40, 0, 0⟩)
      awaitedFeeder s 0 0 = some 1 ∧ mboxById s (ctxAt s 1).supcore 0 = none ∧
      (let t := nx (.queueProbe 0) s
       t.probes = [] ∧ (thrAt t 0 0).probed = [[0, 1]] ∧ t.sups = [{ ctx := 1, core := 0, words := [(stampCore s 0).1, threadWord 0 false 0x44 0 0 1, 0x1008, 3] }] ∧
         (nx (.queueProbe 0) { t with probes := [⟨0, 0, 0, [0, 1], 5⟩] }).sups = t.sups)) ∧
    (nx (.queueProbe 0) (watchDev 100 [⟨0, 0, 1, [0], 31⟩] (some ⟨.port, 40, 0, 0⟩))).probes = [] := by decide +kernel

/-- Core 1 with an entry in its up queue, one in its mailbox set, and one of the array's results. -/
noncomputable def popDev : State :=
  let s := nx (.neighbourArrival 1 0) (nbDev 100)
  let s := modArr (setMbox s 1 1 ⟨0x100, 4, true, 2, 9, 3, 2⟩) 0 (fun a => { a with resq := [5, 6], cmdq := [command 0] })
  writeBytes (modCore s 1 (fun k => { k with ports := k.ports ++ [(1, { word := 0x2000000000000002 }), (2, { word := 0x5000000000000000 }), (3, { word := 0x4000000000000000 })] })) (scratchLoc 1 0x130) 16 0x99

theorem test_pops : (areaHeld popDev 1 = false ∧ nbCount popDev 1 true = 1) ∧ portFront popDev 1 0 = some 0x77 ∧ nbCount (portPop popDev 1 0) 1 true = 0 ∧ portFront (portPop popDev 1 0) 1 0 = none ∧
    (mbChoice popDev 1 2 (portAt popDev 1 1).last = some 1 ∧ portFront popDev 1 1 = some 0x99 ∧ mbox (portPop popDev 1 1) 1 1 = ⟨0x100, 4, true, 2, 9, 0, 1⟩ ∧ (portAt (portPop popDev 1 1) 1 1).last = 1) ∧
    (portFront popDev 1 2 = some 5 ∧ (cluAt (portPop popDev 1 2) 0).arr.resq = [6]) ∧
    ((List.range 3).all (fun p => match popSource popDev 1 p with
      | some e => decide (portFront popDev 1 p = some e.entry ∧ takeEntry popDev 1 e = portPop popDev 1 p)
      | none => false) = true) := by decide +kernel

theorem test_queue_words : qstatWord popDev 1 0 = 0x1402000800000001 ∧ qstatWord popDev 1 1 = 0x2400000400000002 ∧ qstatWord popDev 1 2 = 0x5400000800000002 ∧ qstatWord popDev 1 3 = 0x4400801000020000 ∧
    qstatWord (modCore popDev 1 (fun k => { k with ports := [(0, { word := 0x3000800000010009, owner := 3, faulted := true })] })) 1 0 = 0x3803800400020000 ∧
    liveFor popDev 1 1 = true := by decide +kernel

/-! ## More witnesses: copies, names, threads -/

/-- The engine reads the record of a CPY itself; a replica copy moves its tile too; a frozen array takes nothing, nor is a tile moved while a page of it is out of reach. -/
theorem test_copy_records : (let s := copying { cmd1 with shape := none }
      (translateFar s (copyWho 0 3 cmd1) { r := true } cmd1.recAddr 64).1 = .reaches (.here (scratchLoc 0 0x200)) [] ∧ blockedAt s (scratchLoc 0 0x200) = false ∧
        chanOf (nx (.copyStart 0 3) s) 0 3 = [cmd2] ∧ gives (.copyComplete 0 3) s s = true) ∧
    (let s := copying { cmd1 with shape := none, recAddr := 0x0000E00000000240 }
     chanOf (nx (.copyStart 0 3) s) 0 3 = [] ∧ (thrAt (nx (.copyStart 0 3) s) 0 0).tagerr = 8 ∧ (nx (.copyStart 0 3) s).sups = [engineMsg s 0 1 0 0 0x0A 0 0x0000E00000000240]) ∧
    (let t := nx (.copyComplete 0 3) (copying { cmd2 with dk := 3 })
     readBytes t (scratchLoc 0 0x300) 12 = 0x0044003300220011 ∧ chanOf t 0 3 = []) ∧
    (let s := modArr (copying { cmd2 with dk := 1, dsts := [] }) 0 (fun a => { a with frozen := some 1 })
     gives (.copyComplete 0 3) s s = true) ∧
    (let m := { cmd2 with srcs := [⟨0, 16, [.here 0]⟩] }
     let s := { copying m with swaps := [⟨0, 1, 0, none⟩] }
     pagesBlocked s (m.srcs ++ m.dsts) = true ∧ gives (.copyComplete 0 3) s s = true) := by decide +kernel

/-- A route of every name and context over port 3 to device 7. -/
noncomputable def routeL : W64 := 3 * 2 ^ 62 + 5 * 2 ^ 42 + 3 * 2 ^ 38 + 7 * 2 ^ 29

theorem test_names_over_links : (rtDir routeL = 5 ∧ rtPort routeL = 3 ∧ rtDevice routeL = 7) ∧
    (let s := { intDev { routes := [(0, routeL)] } with routes := [(7, 1 <<< 62)] }
     let t := nx (.interestArrival 0) s
     (cluAt t 0).agent.ints = [⟨7, 1, 3000, [1], false, some (3, 7)⟩] ∧ t.linkOut = [.interest 3 7 7 1 3000] ∧ t.ints = []) ∧
    (let s := { intDev { routes := [(0, routeL)] } with routes := [(7, 2 <<< 62)] }
     let t := nx (.interestArrival 0) s
     (cluAt t 0).agent.ints = [⟨7, 1, 3000, [1], false, none⟩] ∧ t.linkOut = []) := by decide +kernel

/-- A tile of an agent waits while its tarn sleeps, which wakes it, or stands. -/
theorem test_sleeping_tarns : (let s := modClu (intDev { tiles := [{ tile1 with name := 7 }] }) 0 (fun c => { c with vigil := 1 })
      (cluAt (nx (.interestArrival 0) s) 0).vigil = 2 ∧ (nx (.interestArrival 0) s).tiles = [] ∧ (nx (.interestArrival 0) s).ints = s.ints) ∧
    (let s := modClu (intDev { tiles := [{ tile1 with name := 7 }] }) 0 (fun c => { c with stopped := true })
     gives (.interestArrival 0) s s = true) ∧
    (let s := modClu (tileDev (asked (want7 1024 (scratchLoc 0 0x100) 3000)) 1) 0 (fun c => { c with stopped := true })
     deliveryWaits s 0 7 [0x12, 0x34] true = true ∧ gives (.tileDelivery 0) s s = true) ∧
    (let s := modClu (nameDev 0x0000E00000000100 { tiles := [tile1] }) 0 (fun c => { c with vigil := 1 })
     (thrAt (nx (.want 1 2 5 0x30003) s) 0 0).tags = 0 ∧ (cluAt (nx (.want 1 2 5 0x30003) s) 0).vigil = 2) := by decide +kernel

/-- The continuation of a join whose CONTPC is 0x5005 runs at 0x5000. -/
theorem test_continuation : (thrAt (nx (.join 1) (writeBytes (joinDev 0x0000E00000000100 0 1) (scratchLoc 0 0x118) 8 0x5005)) 0 0).pc = 0x5000 := by decide +kernel

/-- A core mate waits in slot 2, another in slot 3, for semaphore 5. -/
noncomputable def semTwo (g : W64) : State :=
  modThr (semDev 0x50000 g 0 [(4, 6), (5, 3), (5, 2)]) 0 3 (fun _ => { thr 0 0 0 0 0 0 with uid := 10, slot := .parked, park := some ⟨.sync, 41, 5, 1⟩, fewait := 60 })

theorem test_units_to_waiters : (let t := nx (.semv 1 2) (semTwo 5)
      (thrAt t 0 2).reply = some 0 ∧ (thrAt t 0 3).reply = some 0 ∧ (thrAt t 0 3).slot = .ready ∧ semAt t 0 5 = 3 ∧ (coreAt t 0).semWait = [(4, 6)] ∧ (thrAt t 0 2).events = 4) ∧
    (let t := nx (.semv 1 2) (semTwo 1)
     (thrAt t 0 3).reply = some 0 ∧ (thrAt t 0 2).slot = .parked ∧ semAt t 0 5 = 0 ∧ (coreAt t 0).semWait = [(4, 6), (5, 2)]) ∧
    (let s := modClu (semTwo 1) 0 (fun c => { c with stopped := true })
     (thrAt (nx (.semv 1 2) s) 0 0).park = some ⟨.access, 100, 0, 0⟩) := by decide +kernel

/-- The cell of a device barrier is held by cluster 0; what asks for it waits while that stands. -/
theorem test_standing_cells : (let s := modClu (cellDev 0x34000 1 {}) 0 (fun c => { c with stopped := true })
      [Instr.barinit 9 1 2, .bararr 9 1 2, .barwait 9 1 2, .baraw 9 1 2].all (fun i => decide ((thrAt (nx i s) 0 0).park = some ⟨.access, 100, 0, 0⟩)) = true) ∧
    (let s := modThr (arrivedDev ⟨1, 1, 7, 9, 2⟩) 0 0 (fun th => { th with tl := 1, arrived := th.arrived ++ [⟨0x1000, 0x34000, 6, 1⟩] })
     hasArrived s 0x34000 = some 6 ∧ hasArrived (modThr s 0 0 (fun th => { th with tl := 0 })) 0x34000 = some 7) := by decide +kernel

/-- A thread of a cluster that stands is not reached: WAKE, KILL and RESUME wait. -/
theorem test_standing_threads : (let s := modClu (modThr (ctxDev word1 0 victim live1) 1 1 (fun th => th)) 0 (fun c => { c with stopped := true })
      [Instr.wake 9 1, .killThread 9 1 2, .resumeRetry 9 1 2, .resumeSkip 9 1 2, .resumeHandler 9 1 2].all (fun i => decide ((thrAt (nx i s) 0 0).park = some ⟨.engine, 100, 0, 6⟩)) = true) := by decide +kernel

/-! ## More witnesses: banks, links, host, power -/

theorem test_standing_banks : (retT 1 0 3 (fun s => modClu s 0 (fun c => { c with stopped := true }))).iss.phase = .held ∧
    (thrAt (retT 2 3 31 (fun s => modClu s 3 (fun c => { c with stopped := true }))) 0 0).park = some ⟨.engine, 100, 0, 6⟩ ∧
    (let s := { idleDev 2 77 with odcor := [bankW 2 1 31] }
     let t := nx (.vigilDecodeComplete 1) s
     t.odcor = [] ∧ (cluAt t 1).vigil = 0 ∧ (unitAt t 2 1 31).st = .evacuating) ∧
    (let t := odcorRetire (idleDev 1 0) (bankW 2 1 31)
     t.odcor = [bankW 2 1 31] ∧ (cluAt t 1).vigil = 2 ∧ (unitAt t 2 1 31).st = .inService) ∧
    (let s := { evacDev 128 none 5 with dierdy := 0 }
     gives (.evacSwitchover 1 0 3) s s = true) := by decide +kernel

/-- A peer is given up when it has been silent for 5 ms of pending traffic, from time 0 on. -/
theorem test_silent_peers : (let s := { peerDev with dies := [(0, { ns := 4999999 })] }
      gives (.peerFailed 3) s s = true) ∧
    (let s := { peerDev with quiet := [] }
     gives (.peerFailed 3) s s = true) ∧
    (let s := { remoteDev with routes := [(7, 3 <<< 62)], quiet := [(7, 5)] }
     let t := nx (.remoteRequest 7 3 1 (rop 6 0 0 0)) s
     routeState t 7 = 1 ∧ tget 0 t.quiet 7 = 0) := by decide +kernel

/-- What a start from device 7 for a core is answered, by the state of the context. -/
noncomputable def startSays (st : CtxState) (core : Nat) (pc : W64) : List Nat :=
  (nx (.remoteRequest 7 3 1 ⟨5, 0, .plain, 8, pc, 0, core, 2, 1, 0x33⟩) { remoteDev with ctxs := [(1, { ctx1 with st := st })] }).linkOut.filterMap (fun m => match m with
    | .reply _ _ _ v _ => some v
    | _ => none)

theorem test_remote_starts : startSays .free 0 0x4000 = [4] ∧ startSays .live 0 0x4004 = [2] ∧ startSays .live 5120 0x4000 = [2] ∧ startSays .loading 0 0x4000 = [1] ∧ startSays .restoring 0 0x4000 = [1] ∧
    startSays .live 5 0x4000 = [3] ∧ startSays .live 0 0x4000 = [0] := by decide +kernel

theorem test_sub_operations : [Instr.budgetWrite (req [1, 200]), .budgetRead (req [0]), .identity (req [3]), .attest (req [2, 0, 0, 0, 0])].all (fun i => gives i mgmt mgmt) = true ∧
    said (.budgetWrite (req [0x100, 200])) mgmt = [(0x8A, 2, [])] ∧ said (.budgetRead (req [0x101])) mgmt = [(0x8A, 2, [])] ∧
    (let t := nx (.budgetWrite (req [0, 0x200C8])) (modUe (modCxl mgmt 1 (fun u => { u with point := 1 })) 0 (fun u => { u with point := 2 }))
     (ueAt t 0).point = 2 ∧ (ueAt t 15).point = 2 ∧ (cxlAt t 1).point = 2 ∧ tget 1 t.stkPoint 11 = 2 ∧ (cluAt t 159).point = 2 ∧ (cluAt t 159).stopped = true) := by decide +kernel

/-- A thread that waits for the clock of a cluster goes on when that has settled; one that the controllers have held at a point is let go. -/
theorem test_settling : (let s := modClu (modThr (regs 0 0 0 0 0 0) 0 0 (fun th => { th with slot := .parked, park := some ⟨.access, 100, 0, 0⟩ })) 0 (fun c => { c with stopped := true })
      let t := nx (.operatingPointSettled 0) s
      (thrAt t 0 0).slot = .ready ∧ (thrAt t 0 0).park = none ∧ (cluAt t 0).stopped = false) ∧
    gives (.operatingPointSettled 0) (regs 0 0 0 0 0 0) (regs 0 0 0 0 0 0) = true ∧
    (let s := { underDev with budget := 0x10960, stepped := [0] }
     gives (.budgetStep 0 false) s { s with stepped := [] } = true) := by decide +kernel

theorem test_poison_at_resets : (nx .warmReset { poison := [1, 2 ^ 37] }).poison = [1] ∧ (nx (.coldReset 0) { poison := [1] }).poison = [] := by decide +kernel

end Sys2Proof.Tests
end

section
/-!
The bundle of a thread with nothing pending, from its cycle to its effects (R16, R79, R82).
-/

namespace Sys2Proof.Machine

/-! ## The words of a bundle -/

/-- The rows that share one encoding have the same register fields (log 11, DEDUCED). -/
theorem regUses_resolve (s : State) (i : Instr) : regUses (resolve s i) = regUses i := by
  unfold resolve
  repeat' split
  all_goals rfl

theorem portUses_resolve (s : State) (b : Bundle) : portUses { b with c := resolve s b.c } = portUses b := by
  simp only [portUses, bundleUses, regUses_resolve]

theorem pushPorts_of_noPorts {b : Bundle} (h : portUses b = []) : pushPorts b = [] := by simp [pushPorts, h]

theorem popPorts_of_noPorts {b : Bundle} (h : portUses b = []) : popPorts b = [] := by simp [popPorts, h]

/-- Without a push nothing stands between the C-word's effect and the A-word's (R218). -/
theorem thenA_noPush (ex : Instr → State → Out) {b : Bundle} (s sc : State) (h : pushPorts b = []) : thenA ex b s sc = ex b.a sc := by
  simp [thenA, beforePush, pushWaits, h]

/-- Two words of which none parks, waits or traps are made, the C-word's effect first (R82; log 21, DEDUCED). -/
theorem runWords_going (ex : Instr → State → Out) (b : Bundle) (s0 s ta tc t : State) (hp : pushPorts b = []) (hl : actsLast b.c = false)
    (ha : ex b.a s = .next ta) (hta : ta.iss.phase = .going) (hc : ex b.c s = .next tc) (htc : tc.iss.phase = .going)
    (ht : ex b.a tc = .next t) (hk : t.iss.phase ≠ .parked) : runWords ex b none s0 s = .next (retire t) := by
  have hstop : firstStop none s (.next ta) (.next tc) = none := by simp [firstStop, phaseOf, hta, htc]
  simp [runWords, ha, hc, hstop, phaseOf, htc, hl, thenA_noPush ex s tc hp, ht, hk]

/-! ## From the fetched bundle to its words -/

/-- A thread with no mark has no unsettled register (R87). -/
theorem markOf_noMarks {th : Thread} (h : noMarks th = true) (r : RegUse) : markOf th r = none := by
  obtain ⟨hx, hv⟩ : th.marksX = 0 ∧ th.marksV = 0 := by simpa [noMarks] using h
  unfold markOf
  split <;> simp [hx, hv]

theorem unsettled_noMarks (s : State) (c u : Nat) (b : Bundle) (h : noMarks (thrAt s c u) = true) : unsettled s c u b = none := by
  simp [unsettled, markOf_noMarks h]

theorem unitUnperformed_none {s : State} {c u : Nat} (ha : (thrAt s c u).accs = []) (ht : isTrail (thrAt s c u) = false) :
    unitUnperformed s c u = false := by
  simp [unitUnperformed, unperformed, ha, ht]

theorem leaseBad_noPorts (s : State) (c u : Nat) {b : Bundle} (h : portUses b = []) : leaseBad s c u b = none := by
  simp [leaseBad, pushesArray, h]

/-- The bundle under way leaves threads and contexts as they are. -/
@[simp] theorem thrAt_beginIssue (s : State) (c u d v : Nat) (w : W64) (sw : Bool) : thrAt (beginIssue s c u w sw) d v = thrAt s d v := rfl

@[simp] theorem privileged_beginIssue (s : State) (c u : Nat) (w : W64) (sw : Bool) (th : Thread) :
    privileged (beginIssue s c u w sw) th = privileged s th := rfl

/-- A bundle without ports of an idle thread comes to its two words in the state that they see (R82). -/
theorem issueBundle_idle (ex : Instr → State → Out) (s : State) (c u : Nat) (w : W64) (b : Bundle) (hi : idleThread (thrAt s c u))
    (hp : portUses b = []) :
    issueBundle ex (beginIssue s c u w (bits w 30 1 == 1)) c u b =
      runWords ex { b with c := resolve (issued s c u w) b.c } none (beginIssue s c u w (bits w 30 1 == 1)) (issued s c u w) := by
  obtain ⟨htwin, htrail, haccs, -, hkeep, -, -, hmarks⟩ := hi
  have hpop := popPorts_of_noPorts hp
  have hpush := pushPorts_of_noPorts hp
  have huns := unsettled_noMarks (beginIssue s c u w (bits w 30 1 == 1)) c u b hmarks
  have hunp : unitUnperformed (beginIssue s c u w (bits w 30 1 == 1)) c u = false := unitUnperformed_none haccs htrail
  have hpops : popsOf (beginIssue s c u w (bits w 30 1 == 1)) c u b = some ([], beginIssue s c u w (bits w 30 1 == 1)) := by
    simp [popsOf, hpop, htrail, hkeep, popAll]
  have hwait : portWait (beginIssue s c u w (bits w 30 1 == 1)) c u b = none := by
    simp [portWait, hpop, hpush, htwin, htrail, hkeep, firstDry, firstFull]
  simp only [issueBundle, thrAt_beginIssue, hkeep, huns, portFault, hp, mustFollow, hunp, sendPending, htwin, hwait, hpops, leaseBad_noPorts _ _ _ hp, hpop, popSources,
    Option.isNone_none, List.findSome?_nil, Bool.and_false, Bool.false_and, if_true, if_false, Bool.false_eq_true, Option.map_none, Option.getD_none, Option.isSome_none]
  rfl

/-- A fetched bundle that decodes, and may be issued at the thread's privilege (R12, R82). -/
theorem issueWord_decoded (ex : Instr → State → Out) (s : State) (c u : Nat) (w : W64) (b : Bundle)
    (hd : decodeBundle (isGang (thrAt s c u)) w = .ok b) (hp : bits w 24 6 ≠ 0x2A ∨ privileged s (thrAt s c u) = true) :
    issueWord ex s c u w = issueBundle ex (beginIssue s c u w (bits w 30 1 == 1)) c u b := by
  have hpriv : ¬ (bits w 24 6 = 0x2A ∧ (!privileged s (thrAt s c u)) = true) := by
    rintro ⟨h1, h2⟩
    rcases hp with h | h
    · exact h h1
    · simp [h] at h2
  simp only [issueWord, privileged_beginIssue, if_neg hpriv, hd]

/-- A thread with nothing outstanding or pending fetches and issues (R82). -/
theorem issueThread_idle (ex : Instr → State → Out) (s s1 : State) (c u : Nat) (w : W64) (hi : idleThread (thrAt s c u))
    (hf : fetch s c u = (.word w, s1)) : issueThread ex s c u = issueWord ex s1 c u w := by
  obtain ⟨-, htrail, haccs, hinside, -, hlate, htraps, -⟩ := hi
  have hforce : forcePlain s c u = s := forceThr_none _ _ _ _ haccs
  have hleader : leaderTrap s c u = none := by
    cases hpark : (thrAt s c (u - 1)).park <;> simp [leaderTrap, hpark, htrail]
  have hline : heldAtLine s (thrAt s c u) = false := by simp [heldAtLine, haccs]
  have htrap : asyncTrap s c u = none := by simp [asyncTrap, htraps]
  simp [issueThread, hforce, hleader, hinside, hlate, htrap, hline, hf]

/-! ## The cycle -/

/-- The owner of a cycle is the first to which it is offered (R16). -/
theorem offer_owner (ex : Instr → State → Out) (s t : State) (c : Nat) (he : eligible s c ((coreAt s c).time % 16) = true)
    (hi : issueThread ex s c ((coreAt s c).time % 16) = .next t) (ht : t.iss.phase ≠ .parked) :
    offer ex c (offered (coreAt s c).time) s =
      .next { markIssue t c ((coreAt s c).time % 16) (thrAt s c ((coreAt s c).time % 16)) with iss := {} } := by
  simp [offered, offer, he, hi, ht]

/-- A cycle in which nothing but its owner's bundle is due is that bundle and the cycle's end (R16, R91). -/
theorem turn_quiet (ex : Instr → State → Out) (s t : State) (c u : Nat) (hq : quietCycle s c u) (hi : issueThread ex s c u = .next t)
    (ht : t.iss.phase ≠ .parked) :
    turn ex sfuEnd ppaEnd c s = endCycle ex sfuEnd ppaEnd c { markIssue t c u (thrAt s c u) with iss := {} } := by
  obtain ⟨hc, hclock, hdue, hsettle, hwrote, hhigh, rfl, helig⟩ := hq
  have hbefore : dueBefore s c ppaEnd = [] := (List.append_eq_nil_iff.mp hdue).1
  have hrun : ¬ (5120 ≤ c ∨ (!clockRuns s c) = true) := by
    rw [hclock]
    exact fun h => h.elim (Nat.not_le.mpr hc) Bool.false_ne_true
  simp only [turn, if_neg hrun, hwrote, hbefore, runEvents, hsettle, hhigh, Bool.false_eq_true, if_false, offer_owner ex s t c helig hi ht]

/-- The end of a cycle after which no result is due is the count (R130). -/
theorem endCycle_nothing_due (ex : Instr → State → Out) (s : State) (c : Nat) (h : dueAfter s c sfuEnd ppaEnd = []) :
    endCycle ex sfuEnd ppaEnd c s = .next (modCore s c (fun k => { k with time := k.time + 1 })) := by
  simp [endCycle, h, runEvents]

/-- A cycle on the agenda is the next step. -/
theorem step_turn (s : State) (c : Nat) (h : s.agenda = []) : step { s with agenda := [.turn c] } = turn exec sfuEnd ppaEnd c s := by
  have hs : { s with agenda := [] } = s := by rw [← h]
  change turn exec sfuEnd ppaEnd c { s with agenda := [] } = _
  rw [hs]

/-- Settles O27: the cycle comes to the owner's two words, which both go, and then to its end. -/
theorem aStepRunsTheDecodedBundle : Obligations.AStepRunsTheDecodedBundle := by
  unfold Obligations.AStepRunsTheDecodedBundle
  intro s s1 c u w b ta tc t th x i hagenda hquiet hidle hfetch hth hdec hpriv hports hlast ha hta hc htc ht hpark hret y
  have hissue : issueThread exec s c u = .next (retire t) := by
    rw [issueThread_idle exec s s1 c u w hidle hfetch, issueWord_decoded exec s1 c u w b (hth ▸ hdec) (hth ▸ hpriv),
      issueBundle_idle exec s1 c u w b (hth ▸ hidle) hports]
    exact runWords_going exec _ _ x ta tc t (pushPorts_of_noPorts ((portUses_resolve x b).trans hports)) hlast ha hta hc htc ht hpark
  have hstep : step { s with agenda := [.turn c] } = endCycle exec sfuEnd ppaEnd c y :=
    (step_turn s c hagenda).trans (turn_quiet exec s (retire t) c u hquiet hissue hret)
  exact ⟨hstep, fun hdue => hstep.trans (endCycle_nothing_due exec y c hdue)⟩

end Sys2Proof.Machine
end

section
/-!
Operating points within the budget, and the gating of dies (R26, R306, R355, R420, R421).
-/

namespace Sys2Proof.Machine

/-! ## Reads of tables -/

/-- A key at which a table does not give its default is listed with that value. -/
theorem mem_of_tget_ne {α : Type} {d : α} {t : Tbl α} {k : Nat} (h : tget d t k ≠ d) : (k, tget d t k) ∈ t := by
  induction t with
  | nil => exact absurd rfl h
  | cons p r ih =>
    obtain ⟨j, v⟩ := p
    by_cases hj : j = k
    · simp [tget, hj]
    · simp only [tget, hj, if_false] at h ⊢
      exact List.mem_cons_of_mem _ (ih h)

/-! ## What stays of the device -/

/-- Every part of the device but its cores, clusters and dies, and the retirements that Odcor has begun, is as before. -/
def sameFrame (s t : State) : Prop :=
  { t with cores := s.cores, clusters := s.clusters, dies := s.dies, odcor := s.odcor } = s

/-- Every part of the device but its cores is as before. -/
def sameButCores (s t : State) : Prop := { t with cores := s.cores } = s

theorem sameButCores.trans {s t r : State} (h : sameButCores s t) (k : sameButCores t r) : sameButCores s r := by
  have hk : { r with cores := s.cores } = { t with cores := s.cores } := congrArg (fun x : State => { x with cores := s.cores }) k
  exact hk.trans h

theorem sameFrame.trans {s t r : State} (h : sameFrame s t) (k : sameFrame t r) : sameFrame s r := by
  have hk : { r with cores := s.cores, clusters := s.clusters, dies := s.dies, odcor := s.odcor } =
      { t with cores := s.cores, clusters := s.clusters, dies := s.dies, odcor := s.odcor } :=
    congrArg (fun x : State => { x with cores := s.cores, clusters := s.clusters, dies := s.dies, odcor := s.odcor }) k
  exact hk.trans h

theorem sameButCores.frame {s t : State} (h : sameButCores s t) : sameFrame s t := by
  have hframe := congrArg (fun x : State => { x with clusters := s.clusters, dies := s.dies, odcor := s.odcor }) h
  exact hframe

theorem sameFrame.sameMem {s t : State} (h : sameFrame s t) : sameMem s t := by
  have hm := congrArg State.mem h
  have he := congrArg State.empties h
  exact ⟨fun a => congrArg (fun m => tget memDefault m a) hm, fun w => congrArg (fun l : List Nat => l.contains w) he⟩

theorem sameButCores.cluAt {s t : State} (h : sameButCores s t) (k : Nat) : cluAt t k = cluAt s k := by
  have hc := congrArg State.clusters h
  exact congrArg (fun m => tget ({} : Cluster) m k) hc

theorem sameMem.trans {s t r : State} (h : sameMem s t) (k : sameMem t r) : sameMem s r :=
  ⟨fun a => (k.1 a).trans (h.1 a), fun w => (k.2 w).trans (h.2 w)⟩

/-- A relation of states that holds of each operation of a run holds of the run. -/
theorem foldl_keeps {α : Type} {R : State → State → Prop} (hr : ∀ s, R s s) (ht : ∀ {s t r}, R s t → R t r → R s r)
    (f : State → α → State) (l : List α) (hf : ∀ s, ∀ a ∈ l, R s (f s a)) (s : State) : R s (l.foldl f s) := by
  induction l generalizing s with
  | nil => exact hr s
  | cons a l ih =>
    exact ht (hf s a List.mem_cons_self) (ih (fun s b hb => hf s b (List.mem_cons_of_mem _ hb)) _)

/-! ## Waking threads (R242) -/

theorem sameButCores_wakeIf (b : Bool) (s : State) (c t : Nat) : sameButCores s (if b then wakeThr s c t else s) := by
  split
  · unfold wakeThr
    split <;> rfl
  · rfl

/-- A walk over the threads of the device that changes cores alone. -/
theorem sameButCores_foldThreads (f : Nat → State → Nat × Thread → State) (hf : ∀ c s q, sameButCores s (f c s q)) (s : State) :
    sameButCores s (s.cores.foldl (fun s p => p.2.threads.foldl (f p.1) s) s) :=
  foldl_keeps (R := sameButCores) (fun _ => rfl) sameButCores.trans (fun s (p : Nat × Core) => p.2.threads.foldl (f p.1) s) s.cores
    (fun s p _ => foldl_keeps (R := sameButCores) (fun _ => rfl) sameButCores.trans (f p.1) p.2.threads (fun s q _ => hf p.1 s q) s) s

theorem sameButCores_wakePages (s : State) : sameButCores s (wakePages s) :=
  sameButCores_foldThreads (fun c s q => if parkedFor q.2 .pageMove then wakeThr s c q.1 else s) (fun c s q => sameButCores_wakeIf _ s c q.1) s

theorem sameButCores_wakeBlocked (s : State) : sameButCores s (wakeBlocked s) :=
  sameButCores_foldThreads (fun c s q => if parkedFor q.2 .access then wakeThr s c q.1 else s) (fun c s q => sameButCores_wakeIf _ s c q.1) s

theorem sameButCores_wakeDevice (s : State) : sameButCores s (wakeDevice s) := by
  refine sameButCores_foldThreads (fun c s q => match q.2.park with
    | some k => if parkedFor q.2 .engine && k.aux == 5 then wakeThr s c q.1 else s
    | none => s) (fun c s q => ?_) s
  split
  · exact sameButCores_wakeIf _ s c q.1
  · rfl

/-- A parked thread that goes on. -/
def awake (th : Thread) : Thread := { th with slot := readySlot th, park := none }

theorem awake_slot (th : Thread) : (awake th).slot ≠ .parked := by
  cases h : isTrail th <;> simp [awake, readySlot, h]

theorem thrAt_wakeThr_ne (s : State) {c t e u : Nat} (h : (e, u) ≠ (c, t)) : thrAt (wakeThr s c t) e u = thrAt s e u := by
  unfold wakeThr
  split
  · rfl
  · have hne : ¬ (e = c ∧ u = t) := fun ⟨h1, h2⟩ => h (by rw [h1, h2])
    simp [freeThr, thrAt_modThr, hne]

theorem thrAt_wakeThr_access (s : State) {c t : Nat} (h : parkedFor (thrAt s c t) .access = true) :
    thrAt (wakeThr s c t) c t = awake (thrAt s c t) := by
  obtain ⟨hslot, hreason⟩ := (Bool.and_eq_true _ _).mp h
  have hslot : (thrAt s c t).slot = .parked := by simpa using hslot
  cases hp : (thrAt s c t).park with
  | none => simp [hp] at hreason
  | some q =>
    have hq : q.reason = .access := by simpa [hp] using hreason
    simp [wakeThr, parkedFor, hp, hq, freeThr, hslot, awake]

theorem thrAt_wakeThr_notParked (s : State) {c t : Nat} (h : (thrAt s c t).slot ≠ .parked) : thrAt (wakeThr s c t) c t = thrAt s c t := by
  simp [wakeThr, parkedFor, freeThr, h]

/-- The threads of the device that wait ACCESS. -/
def accessWaits (s : State) : List (Nat × Nat) :=
  s.cores.flatMap (fun p => (p.2.threads.filter (fun q => parkedFor q.2 .access)).map (fun q => (p.1, q.1)))

theorem wakeBlocked_eq (s : State) : wakeBlocked s = (accessWaits s).foldl (fun s p => wakeThr s p.1 p.2) s := by
  simp only [wakeBlocked, accessWaits, List.foldl_flatMap, List.foldl_map, List.foldl_filter]

theorem mem_accessWaits {s : State} {e u : Nat} (h : parkedFor (thrAt s e u) .access = true) : (e, u) ∈ accessWaits s := by
  have hthr : thrAt s e u ≠ {} := fun h0 => by simp [h0, parkedFor] at h
  have hcore : coreAt s e ≠ {} := fun h0 => hthr (by rw [thrAt, h0]; rfl)
  refine List.mem_flatMap.mpr ⟨_, mem_of_tget_ne hcore, List.mem_map.mpr ⟨_, List.mem_filter.mpr ⟨mem_of_tget_ne hthr, h⟩, rfl⟩⟩

/-- Of threads woken one after another, one that is no longer parked stays as it is. -/
theorem thrAt_wakeAll_notParked (l : List (Nat × Nat)) (s : State) {e u : Nat} (h : (thrAt s e u).slot ≠ .parked) :
    thrAt (l.foldl (fun s p => wakeThr s p.1 p.2) s) e u = thrAt s e u := by
  induction l generalizing s with
  | nil => rfl
  | cons p l ih =>
    have hp : thrAt (wakeThr s p.1 p.2) e u = thrAt s e u := by
      by_cases he : (e, u) = p
      · subst he; exact thrAt_wakeThr_notParked s h
      · exact thrAt_wakeThr_ne s he
    rw [List.foldl_cons, ih _ (by rwa [hp]), hp]

/-- Of threads woken one after another, one that waits ACCESS goes on. -/
theorem thrAt_wakeAll_access (l : List (Nat × Nat)) (s : State) {e u : Nat} (hm : (e, u) ∈ l)
    (h : parkedFor (thrAt s e u) .access = true) : thrAt (l.foldl (fun s p => wakeThr s p.1 p.2) s) e u = awake (thrAt s e u) := by
  induction l generalizing s with
  | nil => simp at hm
  | cons p l ih =>
    rw [List.foldl_cons]
    by_cases he : (e, u) = p
    · subst he
      have hw := thrAt_wakeThr_access s h
      rw [thrAt_wakeAll_notParked l _ (by rw [hw]; exact awake_slot _), hw]
    · have hw := thrAt_wakeThr_ne s he
      rw [ih _ ((List.mem_cons.mp hm).resolve_left he) (by rwa [hw]), hw]

/-- What waited ACCESS goes on (R336, R347, R375, R420). -/
theorem thrAt_wakeBlocked (s : State) {e u : Nat} (h : parkedFor (thrAt s e u) .access = true) :
    thrAt (wakeBlocked s) e u = awake (thrAt s e u) := by
  rw [wakeBlocked_eq]
  exact thrAt_wakeAll_access _ s (mem_accessWaits h) h

/-! ## Operating points (R26, R420) -/

/-- A cluster may change its point that is not stopped, in VIGIL or gated. -/
theorem mayPoint_iff (s : State) (k : Nat) : mayPoint s k = true ↔
    k < 160 ∧ (cluAt s k).vigil = 0 ∧ (cluAt s k).stopped = false ∧ s.gated.getLsbD (dieOf k) = false := by
  simp [mayPoint, and_assoc]

/-- WATTS of the budget register (R420). -/
theorem budget_watts (s : State) : bits s.budget 0 16 = s.budget.toNat % 2 ^ 16 := by rw [bits, Nat.pow_zero, Nat.div_one]

/-- The limits of the budget on a change of point: MAXPOINT, and, to a faster point, WATTS. -/
theorem pointOk_iff (s : State) (now p k : Nat) : pointOk s now p (s.stepped.contains k) = true ↔
    p ≤ 2 ∧ s.budget.toNat / 2 ^ 16 % 4 ≤ p ∧ (now ≤ p ∨ (s.watts ≤ s.budget.toNat % 2 ^ 16 ∧ k ∉ s.stepped)) := by
  have hiff : pointOk s now p (s.stepped.contains k) = true ↔
      p ≤ 2 ∧ bits s.budget 16 2 ≤ p ∧ (now ≤ p ∨ (s.watts ≤ bits s.budget 0 16 ∧ k ∉ s.stepped)) := by simp [pointOk, and_assoc]
  rwa [budget_watts] at hiff

/-- The cluster that steps down first has the least activity of those that may, the lowest number of equals. -/
theorem stepsFirst_iff (s : State) (k : Nat) : stepsFirst s k = true ↔
    ∀ j, mayPoint s j = true → (cluAt s j).point < 2 →
      (cluAt s k).activity < (cluAt s j).activity ∨ ((cluAt s k).activity = (cluAt s j).activity ∧ k ≤ j) := by
  simp only [stepsFirst, List.all_eq_true, List.mem_range, Bool.or_eq_true, Bool.not_eq_true', decide_eq_true_eq, Bool.and_eq_true, beq_iff_eq]
  constructor
  · intro h j hj hp
    have hlt : j < 160 := ((mayPoint_iff s j).mp hj).1
    rcases h j hlt with ((h | h) | h) | h
    · simp [hj] at h
    · omega
    · exact .inl h
    · exact .inr h
  · intro h j _
    by_cases hj : mayPoint s j = true
    · by_cases hp : (cluAt s j).point < 2
      · rcases h j hj hp with h | h
        · exact .inl (.inr h)
        · exact .inr h
      · exact .inl (.inl (.inr (by omega)))
    · exact .inl (.inl (.inl (by simpa using hj)))

/-- A change of point stops the clock of its cluster and changes nothing else. -/
theorem onlyCluster_goPoint (s : State) (k p : Nat) : onlyCluster k s (goPoint s k p) ∧
    cluAt (goPoint s k p) k = { cluAt s k with point := p, stopped := true } :=
  ⟨⟨rfl, fun j hj => by simp [goPoint, cluAt_modClu, hj]⟩, by simp [goPoint]⟩

theorem exec_operatingPointChange (k p : Nat) (s : State) : exec (.operatingPointChange k p) s =
    if mayPoint s k = true ∧ pointOk s (cluAt s k).point p (s.stepped.contains k) = true then .next (goPoint s k p) else .next s := rfl

theorem exec_operatingPointSettled (k : Nat) (s : State) : exec (.operatingPointSettled k) s =
    .next (if (cluAt s k).stopped = true then wakeBlocked (modClu s k (fun c => { c with stopped := false })) else s) := rfl

/-- A cluster whose clock is stopped settles: what waited for it goes on, and nothing else changes (R420). -/
theorem operatingPointSettled_stopped (s : State) (k : Nat) (h : (cluAt s k).stopped = true) :
    ∃ t, exec (.operatingPointSettled k) s = .next t ∧ { t with clusters := s.clusters, cores := s.cores } = s ∧
      cluAt t k = { cluAt s k with stopped := false } ∧ (∀ j, j ≠ k → cluAt t j = cluAt s j) ∧
      ∀ e u, parkedFor (thrAt s e u) .access = true → thrAt t e u = awake (thrAt s e u) := by
  have hwake := sameButCores_wakeBlocked (modClu s k (fun c => { c with stopped := false }))
  refine ⟨_, (exec_operatingPointSettled k s).trans (congrArg _ (if_pos h)), ?_, ?_, fun j hj => ?_, fun e u hp => thrAt_wakeBlocked (modClu s k _) hp⟩
  · have hframe := congrArg (fun x : State => { x with clusters := s.clusters }) hwake
    exact hframe
  · rw [hwake.cluAt, cluAt_modClu_same]
  · rw [hwake.cluAt, cluAt_modClu, if_neg hj]

/-- A step down, over WATTS (R420). -/
theorem exec_budgetStep_down (k : Nat) (s : State) (hk : mayPoint s k = true) (hw : s.budget.toNat % 2 ^ 16 < s.watts)
    (hp : (cluAt s k).point < 2) (hf : stepsFirst s k = true) :
    exec (.budgetStep k true) s = .next (goPoint { s with stepped := k :: s.stepped } k ((cluAt s k).point + 1)) := by
  change execBudgetStep k true s = _
  rw [← budget_watts] at hw
  simp [execBudgetStep, hk, hw, hp, hf]

/-- Within WATTS, at the slowest point or for a cluster that does not step down first, there is no step down. -/
theorem exec_budgetStep_down_none (k : Nat) (s : State)
    (h : ¬ (mayPoint s k = true ∧ s.budget.toNat % 2 ^ 16 < s.watts ∧ (cluAt s k).point < 2 ∧ stepsFirst s k = true)) :
    exec (.budgetStep k true) s = .next s := by
  change execBudgetStep k true s = _
  rw [← budget_watts, not_and] at h
  by_cases hk : mayPoint s k = true
  · simp only [execBudgetStep, hk, Bool.not_true, Bool.false_eq_true, if_false, if_true, if_neg (h hk)]
  · simp [execBudgetStep, hk]

/-- A step up, within WATTS, of the cluster that has stepped down last (R420). -/
theorem exec_budgetStep_up (k : Nat) (r : List Nat) (s : State) (hk : mayPoint s k = true) (hw : s.watts ≤ s.budget.toNat % 2 ^ 16)
    (hs : s.stepped = k :: r) : exec (.budgetStep k false) s =
    .next (if s.budget.toNat / 2 ^ 16 % 4 < (cluAt s k).point then goPoint { s with stepped := r } k ((cluAt s k).point - 1)
      else { s with stepped := r }) := by
  change execBudgetStep k false s =
    .next (if bits s.budget 16 2 < (cluAt s k).point then goPoint { s with stepped := r } k ((cluAt s k).point - 1) else { s with stepped := r })
  rw [← budget_watts] at hw
  simp [execBudgetStep, hk, hs, hw]

/-- Over WATTS, or of a cluster that has not stepped down last, there is no step up. -/
theorem exec_budgetStep_up_none (k : Nat) (s : State)
    (h : ¬ (mayPoint s k = true ∧ s.watts ≤ s.budget.toNat % 2 ^ 16 ∧ s.stepped.head? = some k)) : exec (.budgetStep k false) s = .next s := by
  change execBudgetStep k false s = _
  rw [← budget_watts] at h
  by_cases hk : mayPoint s k = true
  · cases hs : s.stepped with
    | nil => simp [execBudgetStep, hs]
    | cons j r =>
      have hj : ¬ (j = k ∧ s.watts ≤ bits s.budget 0 16) := fun ⟨hj, hw⟩ => h ⟨hk, hw, by simp [hs, hj]⟩
      simp [execBudgetStep, hk, hs, hj]
  · simp [execBudgetStep, hk]

/-! ## The clusters of a die -/

theorem mem_clustersOfDie {d k : Nat} : k ∈ clustersOfDie d ↔ k < 160 ∧ dieOf k = d := by simp [clustersOfDie]

theorem nodup_clustersOfDie (d : Nat) : (clustersOfDie d).Nodup := List.nodup_range.filter _

/-- One change of each of some clusters. -/
theorem cluAt_foldl_modClu (f : Cluster → Cluster) (l : List Nat) (hl : l.Nodup) (s : State) (j : Nat) :
    cluAt (l.foldl (fun s k => modClu s k f) s) j = if j ∈ l then f (cluAt s j) else cluAt s j := by
  induction l generalizing s with
  | nil => simp
  | cons k l ih =>
    obtain ⟨hk, hl⟩ := List.nodup_cons.mp hl
    rw [List.foldl_cons, ih hl, cluAt_modClu]
    by_cases hj : j = k
    · subst hj; simp [hk]
    · simp [hj]

theorem sameFrame_foldl_modClu (f : State → Cluster → Cluster) (l : List Nat) (s : State) :
    sameFrame s (l.foldl (fun s k => modClu s k (f s)) s) :=
  foldl_keeps (R := sameFrame) (fun _ => rfl) sameFrame.trans (fun s k => modClu s k (f s)) l (fun _ _ _ => rfl) s

theorem coreAt_foldl_modClu (f : State → Cluster → Cluster) (l : List Nat) (s : State) (c : Nat) :
    coreAt (l.foldl (fun s k => modClu s k (f s)) s) c = coreAt s c :=
  foldl_keeps (R := fun s t => coreAt t c = coreAt s c) (fun _ => rfl) (fun h k => k.trans h) (fun s k => modClu s k (f s)) l
    (fun _ _ _ => rfl) s

/-! ## Retirements on a die at rest (R353) -/

/-- A die whose cores are IDLE and of whose clusters none is in VIGIL or holds a tile. -/
def dieAtRest (d : Nat) (s : State) : Prop :=
  (∀ c, dieOfCore c = d → (coreAt s c).group = .idle) ∧ ∀ k < 160, dieOf k = d → (cluAt s k).vigil = 0 ∧ (cluAt s k).agent.tiles = []

/-- A change on a die at rest leaves it at rest, and the frame of the device and the clusters of other dies as they are. -/
def worksOnDie (d : Nat) (s t : State) : Prop :=
  dieAtRest d s → dieAtRest d t ∧ sameFrame s t ∧ ∀ k, dieOf k ≠ d → cluAt t k = cluAt s k

theorem worksOnDie.refl (d : Nat) (s : State) : worksOnDie d s s := fun h => ⟨h, rfl, fun _ _ => rfl⟩

theorem worksOnDie.trans {d : Nat} {s t r : State} (h : worksOnDie d s t) (k : worksOnDie d t r) : worksOnDie d s r := by
  intro hs
  obtain ⟨ht, hst, hcst⟩ := h hs
  obtain ⟨hr, htr, hctr⟩ := k ht
  exact ⟨hr, hst.trans htr, fun j hj => (hctr j hj).trans (hcst j hj)⟩

theorem worksOnDie_modCore (d : Nat) (s : State) (c : Nat) {f : Core → Core} (hf : ∀ k, (f k).group = k.group) :
    worksOnDie d s (modCore s c f) := by
  rintro ⟨hcores, hclusters⟩
  refine ⟨⟨fun e he => ?_, hclusters⟩, rfl, fun _ _ => rfl⟩
  rw [coreAt_modCore]
  split
  · next h => rw [hf, ← h]; exact hcores e he
  · exact hcores e he

theorem worksOnDie_modClu {d : Nat} (s : State) {k : Nat} {f : Cluster → Cluster} (hk : dieOf k = d) (hv : ∀ c, (f c).vigil = c.vigil)
    (ht : ∀ c, c.agent.tiles = [] → (f c).agent.tiles = []) : worksOnDie d s (modClu s k f) := by
  rintro ⟨hcores, hclusters⟩
  refine ⟨⟨hcores, fun j hj hd => ?_⟩, rfl, fun j hj => ?_⟩
  · rw [cluAt_modClu]
    obtain ⟨hvig, htil⟩ := hclusters j hj hd
    split
    · next h => exact ⟨by rw [hv, ← h, hvig], ht _ (h ▸ htil)⟩
    · exact ⟨hvig, htil⟩
  · have hne : j ≠ k := fun h => hj (h ▸ hk)
    simp [cluAt_modClu, hne]

theorem worksOnDie_modDie (d : Nat) (s : State) (e : Nat) (f : Die → Die) : worksOnDie d s (modDie s e f) :=
  fun h => ⟨h, rfl, fun _ _ => rfl⟩

/-- The units of a cluster are the pool banks of its cores and its slice banks. -/
theorem unitCluster_eq_some {kind h k : Nat} : unitCluster kind h = some k ↔ (kind = 1 ∧ clusterOf h = k) ∨ (kind = 2 ∧ h = k) := by
  unfold unitCluster
  split
  · next h1 => simp [h1]
  · next h1 => split <;> simp_all

/-- The order of a retirement, which Odcor sends to the unit's holder, brings stamps alone (R29). -/
theorem worksOnDie_carry {d k : Nat} (s : State) (e : Nat) {kind h : Nat} (hk : unitCluster kind h = some k) (hd : dieOf k = d) :
    worksOnDie d s (carry s (.die e) (unitClk kind h)) := by
  have hstamp : worksOnDie d s (stampDie s e).2 := worksOnDie_modDie d s e _
  refine hstamp.trans ?_
  rcases unitCluster_eq_some.mp hk with ⟨rfl, -⟩ | ⟨rfl, rfl⟩
  · exact worksOnDie_modCore d _ h (fun _ => rfl)
  · exact worksOnDie_modClu _ hd (fun _ => rfl) (fun _ h => h)

theorem fillHole_group (k : Core) (hole : Nat) : (fillHole k hole).group = k.group := by
  unfold fillHole
  dsimp only
  split <;> rfl

theorem retirePool_group (k : Core) (b : Nat) : (retirePool k b).group = k.group := by
  unfold retirePool
  dsimp only
  split
  · exact fillHole_group _ _
  · rfl

theorem raiseOvercap_idle {s : State} {c : Nat} (h : (coreAt s c).group = .idle) : raiseOvercap s c = s := by
  simp [raiseOvercap, h]

theorem worksOnDie_raiseOvercap {d : Nat} (s : State) {c : Nat} (hc : dieOfCore c = d) : worksOnDie d s (raiseOvercap s c) := by
  intro h
  rw [raiseOvercap_idle (h.1 c hc)]
  exact worksOnDie.refl d s h

/-- A pool bank of the die retires: no core of it has a group that could be told OVERCAP. -/
theorem worksOnDie_retireOnePool {d : Nat} (s : State) {c : Nat} (b : Nat) (hc : dieOfCore c = d) : worksOnDie d s (retireOnePool s c b) := by
  unfold retireOnePool
  extract_lets k s'
  have hs' : worksOnDie d s s' := by
    unfold s'
    split
    · exact worksOnDie_modCore d s c (fun k => retirePool_group k b)
    · split
      · refine worksOnDie_modCore d s c (fun k => ?_)
        dsimp only
        split
        · exact fillHole_group _ _
        · rfl
      · exact worksOnDie_modCore d s c (fun _ => rfl)
  split
  · exact hs'.trans (worksOnDie_raiseOvercap s' hc)
  · exact hs'

/-- A slice bank of the die retires: its tarn has no tile to lose. -/
theorem worksOnDie_retireSlice {d : Nat} (s : State) {k : Nat} (b : Nat) (hk : dieOf k = d) : worksOnDie d s (retireSlice s k b) := by
  have hslices : ∀ (s : State) (f : Cluster → Tbl BankUnit), worksOnDie d s (modClu s k (fun c => { c with slices := f c })) :=
    fun s f => worksOnDie_modClu s hk (fun _ => rfl) (fun _ h => h)
  unfold retireSlice
  dsimp only
  split
  · exact hslices _ _
  · split
    · exact hslices _ _
    · split
      · exact (hslices _ _).trans (hslices _ _)
      · refine worksOnDie.trans ?_ (hslices _ _)
        refine worksOnDie.trans ?_ (worksOnDie_modClu _ hk (fun _ => rfl) (fun _ h => h))
        exact worksOnDie_modClu s hk (fun _ => rfl) (fun _ h => by simp [h])

theorem bankRetire_pool (s : State) (c b : Nat) : (bankRetire s 1 c b).2 = s ∨ (bankRetire s 1 c b).2 = retireOnePool s c b := by
  simp only [bankRetire, Nat.reduceEqDiff, if_false, false_and, if_true]
  repeat' split
  all_goals simp

theorem bankRetire_slice (s : State) (k b : Nat) : (bankRetire s 2 k b).2 = s ∨ (bankRetire s 2 k b).2 = retireSlice s k b := by
  simp only [bankRetire, Nat.reduceEqDiff, if_false, false_and, if_true]
  repeat' split
  all_goals simp

theorem worksOnDie_bankRetire {d k : Nat} (s : State) {kind h : Nat} (b : Nat) (hk : unitCluster kind h = some k) (hd : dieOf k = d) :
    worksOnDie d s (bankRetire s kind h b).2 := by
  rcases unitCluster_eq_some.mp hk with ⟨rfl, rfl⟩ | ⟨rfl, rfl⟩
  · rcases bankRetire_pool s h b with he | he <;> rw [he]
    · exact worksOnDie.refl d s
    · exact worksOnDie_retireOnePool s b hd
  · rcases bankRetire_slice s h b with he | he <;> rw [he]
    · exact worksOnDie.refl d s
    · exact worksOnDie_retireSlice s b hd

/-- A retirement that has waited for a cluster of the die: the cluster is not in VIGIL, so that it proceeds. -/
theorem worksOnDie_odcorRetire {d k : Nat} (s : State) (w : W64) (hk : unitCluster (bwKind w) (bwUnit w) = some k) (hlt : k < 160)
    (hd : dieOf k = d) : worksOnDie d s (odcorRetire s w) := by
  intro hs
  have hvigil : (cluAt s k).vigil = 0 := (hs.2 k hlt hd).1
  refine (?_ : worksOnDie d s (odcorRetire s w)) hs
  simp only [odcorRetire, hk, hvigil, ne_eq, not_true_eq_false, if_false]
  split
  · exact worksOnDie.refl d s
  · exact (worksOnDie_carry s _ hk hd).trans (worksOnDie_bankRetire _ _ hk hd)

theorem worksOnDie_odcorSettle {d k : Nat} (s : State) (hlt : k < 160) (hd : dieOf k = d) : worksOnDie d s (odcorSettle s k) := by
  have hdrop : worksOnDie d s
      { s with odcor := s.odcor.filter (fun w => !(unitCluster (bwKind w) (bwUnit w) == some k)) } := fun h => ⟨h, rfl, fun _ _ => rfl⟩
  refine hdrop.trans (foldl_keeps (worksOnDie.refl d) worksOnDie.trans odcorRetire _ (fun s w hw => ?_) _)
  exact worksOnDie_odcorRetire s w (by simpa using (List.mem_filter.mp hw).2) hlt hd

/-! ## Gating (R306, R421) -/

/-- A cluster of a die that powers off. -/
def poweredOff (c : Cluster) : Cluster := { c with vigil := 0, stopped := false, agent := { c.agent with tiles := [] } }

/-- A die whose clusters power off, and the retirements that have waited for them (R353, R421). -/
def powerOff (s : State) (d : Nat) : State :=
  (clustersOfDie d).foldl odcorSettle ((clustersOfDie d).foldl (fun s k => modClu s k poweredOff) s)

theorem exec_dieGate (s : State) (d : Nat) : exec (.dieGate d) s =
    if 4 ≤ d ∨ (!(s.budget.getLsbD (20 + d))) = true ∨ (!s.dierdy.getLsbD d) = true ∨ (!dieIdle s d) = true then .next s
    else .next (wakeBlocked <| wakePages { powerOff s d with
      gated := (powerOff s d).gated ||| (1 <<< d), dierdy := (powerOff s d).dierdy &&& ~~~(1 <<< d : BitVec 4) }) := rfl

theorem exec_dieUngate (s : State) (d : Nat) : exec (.dieUngate d) s =
    if (!s.gated.getLsbD d) = true ∨ s.budget.getLsbD (20 + d) = true then .next s
    else
      let s1 := (clustersOfDie d).foldl (fun s k => modClu s k (fun c => { c with idleNs := (dieAt s d).ns })) s
      .next (wakeDevice (wakePages { s1 with gated := s1.gated &&& ~~~(1 <<< d : BitVec 4), dierdy := s1.dierdy ||| (1 <<< d) })) := rfl

theorem dieIdle_iff (s : State) (d : Nat) : dieIdle s d = true ↔ ∀ p ∈ s.cores, dieOfCore p.1 = d → p.2.group = .idle := by
  simp only [dieIdle, List.all_eq_true, Bool.or_eq_true, bne_iff_ne, beq_iff_eq]
  exact forall₂_congr fun p _ => ⟨fun h hd => h.resolve_left (fun hn => hn hd), fun h => (Classical.em _).symm.imp_right h⟩

theorem group_of_dieIdle {s : State} {d : Nat} (h : dieIdle s d = true) {c : Nat} (hc : dieOfCore c = d) : (coreAt s c).group = .idle := by
  by_cases hk : coreAt s c = {}
  · rw [hk]
  · exact (dieIdle_iff s d).mp h _ (mem_of_tget_ne hk) hc

/-- Powering off a die whose cores are IDLE drops its tiles, and reaches no other die and no memory. -/
theorem powerOff_idle {s : State} {d : Nat} (h : dieIdle s d = true) : dieAtRest d (powerOff s d) ∧ sameFrame s (powerOff s d) ∧
    ∀ k, dieOf k ≠ d → cluAt (powerOff s d) k = cluAt s k := by
  have hclu := cluAt_foldl_modClu poweredOff _ (nodup_clustersOfDie d) s
  have hrest : dieAtRest d ((clustersOfDie d).foldl (fun s k => modClu s k poweredOff) s) := by
    refine ⟨fun c hc => ?_, fun k hk hd => ?_⟩
    · rw [coreAt_foldl_modClu (fun _ => poweredOff)]
      exact group_of_dieIdle h hc
    · rw [hclu, if_pos (mem_clustersOfDie.mpr ⟨hk, hd⟩)]
      exact ⟨rfl, rfl⟩
  have hsettle := foldl_keeps (worksOnDie.refl d) worksOnDie.trans odcorSettle (clustersOfDie d)
    (fun s k hk => worksOnDie_odcorSettle s (mem_clustersOfDie.mp hk).1 (mem_clustersOfDie.mp hk).2) _ hrest
  obtain ⟨hend, hframe, hother⟩ := hsettle
  refine ⟨hend, (sameFrame_foldl_modClu (fun _ => poweredOff) _ s).trans hframe, fun k hk => ?_⟩
  rw [powerOff, hother k hk, hclu, if_neg (fun hm => hk (mem_clustersOfDie.mp hm).2)]

theorem getLsbD_dieBit {d e : Nat} (he : e < 4) : (1 <<< d : BitVec 4).getLsbD e = decide (e = d) := by
  change (BitVec.ofNat 4 (1 <<< d)).getLsbD e = _
  rw [BitVec.getLsbD_ofNat, Nat.one_shiftLeft, Nat.testBit_two_pow]
  simp [he, eq_comm]

/-- The bits of the dies, one of which is cleared. -/
theorem getLsbD_clearDie (x : BitVec 4) {d e : Nat} (he : e < 4) :
    (x &&& ~~~(1 <<< d : BitVec 4)).getLsbD e = if e = d then false else x.getLsbD e := by
  rw [BitVec.getLsbD_and, BitVec.getLsbD_not, getLsbD_dieBit he]
  by_cases hd : e = d <;> simp [he, hd]

/-- What follows the change of a die's bits, the waking of what waited for it, reaches threads alone. -/
theorem woken_dieBits {s s1 t : State} {g r : BitVec 4} (hs : sameFrame s s1) (ht : sameButCores { s1 with gated := g, dierdy := r } t) :
    t.gated = g ∧ t.dierdy = r ∧ sameMem s t ∧ ∀ k, cluAt t k = cluAt s1 k := by
  have hgated := congrArg State.gated ht
  have hdierdy := congrArg State.dierdy ht
  exact ⟨hgated, hdierdy, hs.sameMem.trans ht.frame.sameMem, ht.cluAt⟩

/-- A die whose GATE bit is set and whose cores are all IDLE is gated (R421). -/
theorem dieGate_idle {s : State} {d : Nat} (hd : d < 4) (hb : s.budget.getLsbD (20 + d) = true) (hr : s.dierdy.getLsbD d = true)
    (hi : dieIdle s d = true) : ∃ t, exec (.dieGate d) s = .next t ∧ t.gated = s.gated ||| (1 <<< d : BitVec 4) ∧
      t.dierdy = s.dierdy &&& ~~~(1 <<< d : BitVec 4) ∧ sameMem s t ∧ (∀ k < 160, dieOf k = d → (cluAt t k).agent.tiles = []) ∧
      ∀ k, dieOf k ≠ d → cluAt t k = cluAt s k := by
  obtain ⟨⟨-, hrest⟩, hframe, hother⟩ := powerOff_idle hi
  have hcond : ¬ (4 ≤ d ∨ (!(s.budget.getLsbD (20 + d))) = true ∨ (!s.dierdy.getLsbD d) = true ∨ (!dieIdle s d) = true) := by
    simp [hb, hr, hi, hd]
  refine ⟨_, (exec_dieGate s d).trans (if_neg hcond), ?_⟩
  obtain ⟨hgated, hdierdy, hmem, hclu⟩ := woken_dieBits hframe ((sameButCores_wakePages _).trans (sameButCores_wakeBlocked _))
  have hg := congrArg State.gated hframe
  have hr := congrArg State.dierdy hframe
  refine ⟨hgated.trans (congrArg (· ||| (1 <<< d : BitVec 4)) hg), hdierdy.trans (congrArg (· &&& ~~~(1 <<< d : BitVec 4)) hr), hmem,
    fun k hk hkd => ?_, fun k hk => ?_⟩
  · rw [hclu]
    exact (hrest k hk hkd).2
  · rw [hclu]
    exact hother k hk

theorem dieGate_refused {s : State} {d : Nat} (h : s.budget.getLsbD (20 + d) = false ∨ dieIdle s d = false) : exec (.dieGate d) s = .next s :=
  (exec_dieGate s d).trans (if_pos (by rcases h with h | h <;> simp [h]))

/-- A gated die whose GATE bit is clear is ungated (R421). -/
theorem dieUngate_gated {s : State} {d : Nat} (hg : s.gated.getLsbD d = true) (hb : s.budget.getLsbD (20 + d) = false) :
    ∃ t, exec (.dieUngate d) s = .next t ∧ t.gated = s.gated &&& ~~~(1 <<< d : BitVec 4) ∧ t.dierdy = s.dierdy ||| (1 <<< d : BitVec 4) ∧
      sameMem s t := by
  have hcond : ¬ ((!s.gated.getLsbD d) = true ∨ s.budget.getLsbD (20 + d) = true) := by simp [hg, hb]
  have hframe : sameFrame s ((clustersOfDie d).foldl (fun s k => modClu s k (fun c => { c with idleNs := (dieAt s d).ns })) s) :=
    sameFrame_foldl_modClu (fun s c => { c with idleNs := (dieAt s d).ns }) _ s
  refine ⟨_, (exec_dieUngate s d).trans (if_neg hcond), ?_⟩
  obtain ⟨hgated, hdierdy, hmem, -⟩ := woken_dieBits hframe ((sameButCores_wakePages _).trans (sameButCores_wakeDevice _))
  have hg := congrArg State.gated hframe
  have hr := congrArg State.dierdy hframe
  exact ⟨hgated.trans (congrArg (· &&& ~~~(1 <<< d : BitVec 4)) hg), hdierdy.trans (congrArg (· ||| (1 <<< d : BitVec 4)) hr), hmem⟩

/-- Settles O60: points and budget steps by the equations of their events, gating by what powering off a die at rest reaches. -/
theorem operatingPointsAndGating : Obligations.OperatingPointsAndGating := by
  unfold Obligations.OperatingPointsAndGating
  refine ⟨fun s k p => ?_, fun s d hd => ⟨fun hb hr hi => ?_, fun h => ?_, fun hg hb => ?_, fun h => ?_⟩⟩
  · intro c top most able ok first goes
    have hable : ∀ j, able j ↔ mayPoint s j = true := fun j => (mayPoint_iff s j).symm
    have hok : ok ↔ pointOk s c.point p (s.stepped.contains k) = true := (pointOk_iff s c.point p k).symm
    have hfirst : first ↔ stepsFirst s k = true := by
      rw [stepsFirst_iff]
      exact forall_congr' fun j => imp_congr_left (hable j)
    have hgo : ∀ (i : Instr) (l : List Nat) (q : Nat), exec i s = .next (goPoint { s with stepped := l } k q) →
        goes i l { c with point := q, stopped := true } := fun i l q he => ⟨_, he, onlyCluster_goPoint { s with stepped := l } k q⟩
    refine ⟨fun ha hp => ?_, fun h => ?_, fun h => ?_, fun h => ?_, fun ha hw hp hf => ?_, fun h => ?_, fun r ha hw hs hp => ?_,
      fun r ha hw hs hp => ?_, fun h => ?_⟩
    · exact hgo _ _ _ ((exec_operatingPointChange k p s).trans (if_pos ⟨(hable k).mp ha, hok.mp hp⟩))
    · refine (exec_operatingPointChange k p s).trans (if_neg fun ⟨ha, hp⟩ => ?_)
      exact h.elim (fun hn => hn (hok.mpr hp)) (fun hn => hn ((hable k).mpr ha))
    · rw [exec_operatingPointSettled, if_neg (by simpa using h)]
    · exact operatingPointSettled_stopped s k h
    · exact hgo _ _ _ (exec_budgetStep_down k s ((hable k).mp ha) hw hp (hfirst.mp hf))
    · refine exec_budgetStep_down_none k s fun ⟨ha, hw, hp, hf⟩ => ?_
      rcases h with h | h | h | h
      · exact h ((hable k).mpr ha)
      · exact absurd hw (Nat.not_lt.mpr h)
      · exact absurd hp (Nat.not_lt.mpr h)
      · exact h (hfirst.mpr hf)
    · exact hgo _ _ _ ((exec_budgetStep_up k r s ((hable k).mp ha) hw hs).trans (congrArg _ (if_pos hp)))
    · exact (exec_budgetStep_up k r s ((hable k).mp ha) hw hs).trans (congrArg _ (if_neg (Nat.not_lt.mpr hp)))
    · refine exec_budgetStep_up_none k s fun ⟨ha, hw, hs⟩ => ?_
      rcases h with h | h | h
      · exact h ((hable k).mpr ha)
      · exact absurd hw (Nat.not_le.mpr h)
      · exact h hs
  · obtain ⟨t, he, hgated, hdierdy, hmem, htiles, hother⟩ := dieGate_idle hd hb hr ((dieIdle_iff s d).mpr hi)
    exact ⟨t, he, hgated, fun e h4 => by rw [hdierdy, getLsbD_clearDie _ h4], hmem, htiles, hother⟩
  · refine dieGate_refused (h.imp_right fun ⟨c, _, hc, hbusy⟩ => ?_)
    exact Bool.eq_false_iff.mpr fun hi => hbusy (group_of_dieIdle hi hc)
  · obtain ⟨t, he, hgated, hdierdy, hmem⟩ := dieUngate_gated hg hb
    exact ⟨t, he, fun e h4 => by rw [hgated, getLsbD_clearDie _ h4], hdierdy, hmem⟩
  · refine (exec_dieUngate s d).trans (if_pos ?_)
    simpa using h

end Sys2Proof.Machine
end
